-- ==== Sys2Proof/Word.lean ====
section
/-! DEFINITION. Sys2Proof/Word.lean: the word types and the plain enumerations that the syntax and the state share (R6, R7, R18, R47, R62, R63). -/

namespace Sys2Proof.Machine

/-- A byte. -/
abbrev Byte := BitVec 8

/-- A word of 256 bits, 32 bytes, byte k in bits [8k+7:8k] (R7). -/
abbrev Word := BitVec 256

/-- A sparse table: keys with their entries, a key listed at most once. -/
abbrev Tab (α : Type) := List (Nat × α)

/-- The formats of R47 and R62. -/
inductive NumFmt where
  | fp32 | bf16 | fp16 | hb8 | hb4 | fp64
  deriving DecidableEq, Repr

/-- The rounding directions of R63. -/
inductive Rnd where
  | rne | rna | rup | rdn | rtz
  deriving DecidableEq, Repr

/-- A number read exactly from any format: the sign and the magnitude man × 2^exp, an infinity, or a NaN (signalling or quiet). -/
inductive Val where
  | nan (signalling : Bool)
  | inf (neg : Bool)
  | fin (neg : Bool) (man : Nat) (exp : Int)
  deriving DecidableEq, Repr

/-- The kinds of a tile site, as the floor of R26 prints them. -/
inductive SiteKind where
  | sTile | dpTile | mTile | vTile | fTile | xTile | cluster
  deriving DecidableEq, Repr

/-- Upsets that stored codewords suffer before a read: each is a codeword's device address and the bits of its 288 that flip (R235, R237). -/
abbrev Upset := List (Nat × Nat)

/-- An endpoint: die, site, port and index within the port (R317, R319). -/
structure Ep where
  die : Nat
  site : Nat
  port : Nat
  index : Nat
  deriving DecidableEq, Repr

/-- A message: the header fields of R317 that its packets share, and its data flits. -/
structure Msg where
  typ : Nat
  dst : Ep
  src : Ep
  issuer : Nat
  msgId : Nat
  seq : Nat
  attempt : Nat
  job : Nat
  status : Nat
  arg : BitVec 64
  dep : Bool
  cfgm : Bool
  scode : Bool
  data : List Word
  deriving DecidableEq, Repr

/-- An event as its unit raises it (R538): code, class, job, place, time and detail; ext holds the extension's two values where the code has one; defers marks the event of a stream's bad word, whose job is faulted at the end of the task abort (R205, R238, R268). -/
structure Ev where
  code : Nat
  cls : Nat
  job : Nat
  die : Nat
  ukind : Nat
  index : Nat
  time : Nat
  detail : Nat
  region : Nat
  ext : Option (Nat × Nat)
  defers : Bool
  deriving DecidableEq, Repr

/-- A far channel as a start finds it: package channel, state (0 absent, 2 good, 3 training failed, 4 unsupported), manufacturer and refresh-rate field (R222, R223, R243). -/
structure FarFound where
  channel : Nat
  state : Nat
  vendor : Nat
  refresh : Nat
  deriving DecidableEq, Repr

/-- What a start finds that the package's state does not hold (R507, R514 to R517, R528): the board's flash if it was programmed while the package had no power, whether the flash programs, whether the PUF gives the recorded key, whether H0's test and the base personality succeed, the step in which the start hangs (0 for none), the time it takes in ns, and the units that fail their tests. -/
structure StartObs where
  flash : Option (List (Nat × Byte))
  flashOk : Bool
  pufOk : Bool
  h0Ok : Bool
  personalityOk : Bool
  hang : Nat
  time : Nat
  dies : List Nat
  /-- Die and site, core, channel or lane group. -/
  tiles : List (Nat × Nat)
  holes : List (Nat × Nat)
  cores : List (Nat × Nat)
  near : List (Nat × Nat)
  groups : List (Nat × Nat)
  /-- Near rows that fail the march test: die, channel, bank, row. -/
  rows : List (Nat × Nat × Nat × Nat)
  far : List FarFound
  deriving DecidableEq, Repr

end Sys2Proof.Machine
end

