-- ==== Sys2Proof/Syntax.lean ====
section
/-! DEFINITION. Sys2Proof/Syntax.lean: the commands, one constructor per row of the spec's table of operations and events. -/

namespace Sys2Proof

open Sys2Proof.Machine

/-- A command of the package: an operation or an event of spec/opcode_table.json with its operands. -/
inductive Instr where
  /-- START (R514). Release of H0's reset begins a start: boot record choice, attempt record, identity, firmware check, die release, self-test, route tables, CXL enable, base personality and success record. -/
  | start (obs : StartObs)
  /-- START_WATCHDOG_EXPIRY (R514). The 30 s start watchdog expires before step 9 or minimal port enable and starts the package again. -/
  | startWatchdogExpiry
  /-- POWER_OFF (R570). PWR_EN falls, the input leaves 45 V to 66 V or the 6 V rail is lost, and every converter stops, losing all state but the flash. -/
  | powerOff
  /-- INPUT_POWER_FAULT (R572). The input stays outside 52 V to 63 V for 1 ms and a fatal event is raised. -/
  | inputPowerFault
  /-- CARRIER_RAIL_FAULT (R572). A converter stops regulating or the 6 V rail leaves ±3 % for 10 µs, raising a fatal event. -/
  | carrierRailFault
  /-- CORE_RAIL_FAILURE (R572). A logic die's core rail fails and the die is fenced, or H0_FATAL is raised for H0. -/
  | coreRailFailure (die : Nat)
  /-- CLOCK_REFERENCE_LOST (R575). Loss of the 100 MHz reference is detected within 1 µs and raised as a fatal event. -/
  | clockReferenceLost
  /-- PLL_LOCK_LOST (R575). One die's PLL loses lock while the reference is present and the die is fenced. -/
  | pllLockLost (die : Nat)
  /-- JUNCTION_THERMAL_SAMPLE (R578). Every 10 µs a die samples its junction sensors, updates TSTATE, trips at 115 °C and recomputes its issue level caps. -/
  | junctionThermalSample (die : Nat) (temps : List Nat) (power : Nat)
  /-- POWER_WINDOW_END (R580). At each 10 µs window end H0 compares input power with PWR_LIMIT, moves PCAP and updates power and energy telemetry. -/
  | powerWindowEnd (voltage : Nat) (current : Nat) (power : Nat) (energy : Nat) (dies : List (Nat × Nat))
  /-- STACK_THERMAL_SAMPLE (R217). Every 10 µs a near stack samples its layers and moves between NORMAL, DOUBLE, THROTTLE and HOLD. -/
  | stackThermalSample (die : Nat) (t0 : Nat) (t1 : Nat) (t2 : Nat) (t3 : Nat)
  /-- NEAR_THERMAL_TIMEOUT (R218). A stack in HOLD for 50 ms fences its die until the next start and faults the jobs using it. -/
  | nearThermalTimeout (die : Nat)
  /-- TIMESTAMP_CHECK (R577). Every 1 ms H0 checks each die's timestamp offset, corrects by one count and detects lost dies. -/
  | timestampCheck (offsets : List (Nat × Nat))
  /-- JOB_COUNTER_UPDATE (R472). After each 1 ms period the headstock sums the TEL registers into each job's utilisation counters. -/
  | jobCounterUpdate
  /-- MGMT_TRANSACTION (R568). An I3C or I2C transaction writes a BAR0 offset and reads or writes 8 bytes of the admitted registers. -/
  | mgmtTransaction (off : Nat) (write : Option Nat)
  /-- PWR_LIMIT_WRITE (R580). A write to PWR_LIMIT within 4,000 W to 17,000 W takes effect at the next window's end, the host's value winning a tie. -/
  | pwrLimitWrite (v : Nat) (host : Bool)
  /-- REGISTER_WRITE (R13). A write to a register with no behaviour of its own updates RW and W1C fields by their access type. -/
  | registerWrite (off : Nat) (size : Nat) (v : Nat)
  /-- LINK_DOWN (R502). H0 finds the CXL link down, clears queue and event ring enables, resets decoders and holds replies and requests. -/
  | linkDown
  /-- LINK_UP (R504). Link training completes, HST_LINK_UP_TIME is stamped and ATTACHES increases. -/
  | linkUp (width : Nat) (rate : Nat)
  /-- GRACE_EXPIRY (R503). The detach grace period ends with the link down, setting GRACE_EXPIRED and suspending every ACTIVE job. -/
  | graceExpiry
  /-- CXL_RESET (R477). A conventional, hot or CXL Reset resets the CXL.io function without resetting jobs or memory. -/
  | cxlReset (kind : Nat)
  /-- HDM_DECODER_COMMIT (R476). The host commits an HDM decoder, which fails unless its size equals the window of R233. -/
  | hdmDecoderCommit (dec : Nat) (base : Nat) (size : Nat)
  /-- HDM_READ (R234). A host read through a decoder is served when its page is OWNED with HOSTVIS and backed, otherwise poison is returned. -/
  | hdmRead (hpa : Nat) (u : Upset)
  /-- HDM_WRITE (R476). A host write through a decoder is applied at the serving unit before its completion, or dropped when denied. -/
  | hdmWrite (hpa : Nat) (mask : Nat) (data : BitVec 512)
  /-- SNOOP_RESPONSE (R475). The Enhus answers every CXL.cache snoop with RspIHitI. -/
  | snoopResponse (addr : Nat)
  /-- HOST_GO_RECEIVED (R255). A GO or error response arrives for a CXL.cache write, marking the write visible or failed. -/
  | hostGoReceived (id : Nat) (err : Bool)
  /-- HOST_READ_DATA (R255). Data for a CXL.cache RdCurr request arrives for a stream, a ring read or a parameter read. -/
  | hostReadData (id : Nat) (data : Option (List Byte))
  /-- SPDM_REQUEST (R531). H0 answers an SPDM 1.3 request on the DOE mailbox, signing with the alias key. -/
  | spdmRequest (code : Nat) (params : List Byte)
  /-- SQ_TAIL (R485). A write to a queue's SQ_TAIL doorbell announces new submission entries. -/
  | sqTail (q : Nat) (v : Nat)
  /-- CQ_HEAD (R490). A write to a queue's CQ_HEAD doorbell frees completion ring entries. -/
  | cqHead (q : Nat) (v : Nat)
  /-- QUEUE_ENABLE (R484). Writing ENABLE as 1 resets the queue pointers, runs any armed replay and starts reading the ring. -/
  | queueEnable (q : Nat) (cfg : Nat)
  /-- QUEUE_DISABLE (R484). Writing ENABLE as 0 stops ring reads and puts the queue into DRAINING. -/
  | queueDisable (q : Nat)
  /-- QUEUE_DRAINED (R484). Outstanding ring reads and writes of a draining queue finish and the queue reaches DISABLED. -/
  | queueDrained (q : Nat)
  /-- HST_Q_REPLAY (R491). An 8-byte write while ENABLE is 0 arms a replay of retained replies and notices after the given numbers. -/
  | hstQReplay (q : Nat) (v : Nat) (size : Nat)
  /-- HST_EVT_CFG (R482). A write to HST_EVT_CFG configures the event ring, and setting ENABLE resets TAIL and HEAD to 0. -/
  | hstEvtCfg (v : Nat)
  /-- HST_EVT_HEAD (R482). A write to HST_EVT_HEAD frees event ring slots, ignored when out of range. -/
  | hstEvtHead (v : Nat)
  /-- KTL_SIGNAL (R500). An 8-byte KTL_OP write with KOP SIGNAL sends a kettle SIGNAL for the job, or is dropped into KTL_ERR. -/
  | ktlSignal (j : Nat) (rank : Nat) (operand : Nat)
  /-- KTL_RESET (R500). An 8-byte KTL_OP write with KOP RESET sends a kettle RESET for the job, or is dropped into KTL_ERR. -/
  | ktlReset (j : Nat) (rank : Nat) (operand : Nat)
  /-- SUBMISSION_ENTRY_READ (R486). H0 reads a submission entry and accepts it, drops it as a duplicate or stops the queue on a sequence or read error. -/
  | submissionEntryRead (q : Nat)
  /-- COMMAND_START (R489). An accepted command starts once its predecessor has started and its wait, fence, ORDERED and turn conditions hold. -/
  | commandStart (q : Nat)
  /-- REPLY_WRITE (R490). A reply is written to the completion ring in SEQ order when the ring has room, then the vector is raised. -/
  | replyWrite (q : Nat)
  /-- DEVICE_INFO (R495). Writes the 64-byte device information record. -/
  | deviceInfo (q : Nat) (seq : Nat)
  /-- GOOD_UNIT_MAP (R519). Writes the current good-unit map to host memory. -/
  | goodUnitMap (q : Nat) (seq : Nat)
  /-- HOST_WINDOW_SET (R496). Sets, enlarges or removes one host window of a job, refusing narrowing while the job lives. -/
  | hostWindowSet (q : Nat) (seq : Nat)
  /-- LOAD_IMAGE (R417). Requests the load of a Turest image, queued among configuration commands and numbered with the load count. -/
  | loadImage (q : Nat) (seq : Nat)
  /-- LOAD_VERIFY (R410). H0 reads and checks the spine, signature, grade, epoch and regions of a load. -/
  | loadVerify
  /-- LOAD_STAGE (R419). H0 enrols the dies and streams every signature's records, checking each digest. -/
  | loadStage
  /-- LOAD_CHECK (R422). The staged configuration is content-checked and delivery confirmed by FRAMES and FSUM, with one resend. -/
  | loadCheck
  /-- LOAD_COMMIT (R424). H0 withdraws waits, parts the regions, blanks and writes the sites, rotates areas, advances the epoch and sets the start time. -/
  | loadCommit (uncorr : Bool)
  /-- REGION_START (R426). At the start timestamp the regions leave PARTED and enter RUNNING, resuming circuits, static streams and programs. -/
  | regionStart (region : Nat)
  /-- ROLLBACK_CONFIG (R431). Commits the previous configuration of the regions the last load changed and advances the epoch. -/
  | rollbackConfig (q : Nat) (seq : Nat)
  /-- CONFIG_STATUS (R433). Writes the configuration status record. -/
  | configStatus (q : Nat) (seq : Nat)
  /-- CREATE_JOB (R439). Creates a job with its rank table size and flags, entering ACTIVE. -/
  | createJob (q : Nat) (seq : Nat)
  /-- KILL_JOB (R451). Kills a job: answers its commands, snapshots kettles, withdraws, parts, captures, scrubs, frees and enters FREE or CAPTURED. -/
  | killJob (q : Nat) (seq : Nat)
  /-- SUSPEND_JOB (R446). Suspends a job: withdraws waits, parts, scans out each region, scrubs the sites and gives up its columns. -/
  | suspendJob (q : Nat) (seq : Nat)
  /-- RESUME_JOB (R449). Resumes a SUSPENDED job: writes configuration, scans state in and restarts the regions at a start timestamp. -/
  | resumeJob (q : Nat) (seq : Nat)
  /-- ALLOC_REGION (R441). Allocates a column or die region with the lowest free number and reserves its scan areas. -/
  | allocRegion (q : Nat) (seq : Nat)
  /-- FREE_REGION (R441). Parts, scrubs and frees a region, or scrubs the scan areas of a SUSPENDED one. -/
  | freeRegion (q : Nat) (seq : Nat)
  /-- ALLOC_MEM (R443). Allocates the lowest run of free near or far pages to the job. -/
  | allocMem (q : Nat) (seq : Nat)
  /-- FREE_MEM (R443). Frees the pages of one allocation into zeroing. -/
  | freeMem (q : Nat) (seq : Nat)
  /-- ALLOC_KETTLES (R444). Gives the job the lowest run of free kettles on a die. -/
  | allocKettles (q : Nat) (seq : Nat)
  /-- FREE_KETTLES (R444). Resets and frees kettles that have no registered waiter. -/
  | freeKettles (q : Nat) (seq : Nat)
  /-- JOB_STATUS (R438). Writes the job's state, pages, regions and counters to a record. -/
  | jobStatus (q : Nat) (seq : Nat)
  /-- CAPTURE_DISCARD (R457). Zeroes an undelivered capture and frees the job. -/
  | captureDiscard (q : Nat) (seq : Nat)
  /-- CAPTURE_DELIVERY (R457). H0 copies the capture to CAPTURE_ADDR, writes its header last and posts CAPTURE_READY. -/
  | captureDelivery (job : Nat)
  /-- PAGE_ZEROING_COMPLETE (R453). A page whose codewords have all been written to zero becomes FREE, or RETIRED when it touches a lost channel. -/
  | pageZeroingComplete (page : Nat)
  /-- SERVING_CONFIG (R463). Configures a serving region's sequence-table unit and empties its model slots. -/
  | servingConfig (q : Nat) (seq : Nat)
  /-- MODEL_REGISTER (R468). Registers a model image under a handle of a serving region. -/
  | modelRegister (q : Nat) (seq : Nat)
  /-- MODEL_UNREGISTER (R468). Unregisters a handle no active sequence names and empties its slot. -/
  | modelUnregister (q : Nat) (seq : Nat)
  /-- MODEL_PIN (R470). Pins or unpins a model handle, fetching it at the next build when pinned and not resident. -/
  | modelPin (q : Nat) (seq : Nat)
  /-- TIMED_CONFIG (R460). Sets the start and done kettles and report slots of a timed region. -/
  | timedConfig (q : Nat) (seq : Nat)
  /-- STREAM_ENQUEUE (R497). Enqueues one stream descriptor in the named engine with the queue as issuer. -/
  | streamEnqueue (q : Nat) (seq : Nat)
  /-- TASK_CANCEL (R270). Cancels every stream of a task, replying when cancellation completes. -/
  | taskCancel (q : Nat) (seq : Nat)
  /-- KETTLE_SIGNAL (R498). A host command sends SIGNAL(n) to a kettle of the job. -/
  | kettleSignal (q : Nat) (seq : Nat)
  /-- KETTLE_RESET (R498). A host command sends RESET(v) to a kettle of the job. -/
  | kettleReset (q : Nat) (seq : Nat)
  /-- KETTLE_WAIT_CONSUME (R498). A host command waits with WAIT_CONSUME(n), stalling the queue until released. -/
  | kettleWaitConsume (q : Nat) (seq : Nat)
  /-- KETTLE_WAIT_OBSERVE (R498). A host command waits with WAIT_OBSERVE(n), stalling the queue until released. -/
  | kettleWaitObserve (q : Nat) (seq : Nat)
  /-- KETTLE_INSPECT (R498). Writes a one-cycle snapshot of a kettle's value, last signaller and waiters. -/
  | kettleInspect (q : Nat) (seq : Nat)
  /-- SYNC (R494). A command that does nothing but carry a FENCE or ORDERED flag. -/
  | sync (q : Nat) (seq : Nat)
  /-- MAP_RING_SET (R494). Sets up the host's congestion map ring. -/
  | mapRingSet (q : Nat) (seq : Nat)
  /-- MAP_RING_CLEAR (R494). Removes the map ring so maps are discarded. -/
  | mapRingClear (q : Nat) (seq : Nat)
  /-- PAIR_ROLE (R551). Sets the package's pair role and PAIR_ID. -/
  | pairRole (q : Nat) (seq : Nat)
  /-- MIRROR_START (R552). Starts the mirror stream of a job on an active or shadow package. -/
  | mirrorStart (q : Nat) (seq : Nat)
  /-- MIRROR_STOP (R560). Stops the mirror, writing STOP on the active or discarding the open checkpoint on the shadow. -/
  | mirrorStop (q : Nat) (seq : Nat)
  /-- CHECKPOINT (R554). Holds the job's queue, scans the regions, copies dirty pages and writes the checkpoint records to the ring. -/
  | checkpoint (q : Nat) (seq : Nat)
  /-- MIRROR_RECORD_CONSUME (R557). The shadow takes the next committed record, stages it, writes the consumed word and commits a complete checkpoint. -/
  | mirrorRecordConsume (record : List Byte)
  /-- PAIR_MIRROR_STALLED (R559). An active that has waited 100 ms for a ring slot raises PAIR_MIRROR_STALLED once. -/
  | pairMirrorStalled
  /-- FAILOVER (R561). The shadow becomes ACTIVE and resumes the job from its last committed checkpoint. -/
  | failover (q : Nat) (seq : Nat)
  /-- FW_WRITE (R522). Erases and programs part of the inactive firmware slot, or appends an image-key list record. -/
  | fwWrite (q : Nat) (seq : Nat)
  /-- FW_COMMIT (R523). Checks a slot, commits it and writes a boot record naming it active. -/
  | fwCommit (q : Nat) (seq : Nat)
  /-- FW_STATUS (R524). Checks both slots and the golden image and writes the firmware status record. -/
  | fwStatus (q : Nat) (seq : Nat)
  /-- IDENTITY_CHAIN (R529). Writes the SPDM certificate chain of slot 0. -/
  | identityChain (q : Nat) (seq : Nat)
  /-- RESTART (R525). Starts the package again in normal or golden mode after the reply is visible. -/
  | restart (q : Nat) (seq : Nat)
  /-- EVENT_RAISE (R586). A unit passes an event to its die block, which sends it to H0 and resends until acknowledged. -/
  | eventRaise (die : Nat) (e : Ev)
  /-- EVENT_ARRIVAL (R537). An event reaches H0, is numbered, written or held for the event ring, and triggers its fault handling. -/
  | eventArrival (die : Nat)
  /-- COALESCE_PERIOD_END (R540). After each 1 ms period H0 writes one COALESCED record for each key with counted corrected events. -/
  | coalescePeriodEnd
  /-- MULL_PACKET_ROUTE (R326). A router decodes a packet header and forwards it on an adaptive or escape port, or replicates a broadcast. -/
  | mullPacketRoute (die : Nat) (site : Nat) (port : Nat) (vc : Nat) (headerFlip : Nat) (dataFlips : List Nat)
  /-- MULL_ROUTER_HOLE (R328). A router fails, its neighbours stop sending to it and packets inside it are lost. -/
  | mullRouterHole (die : Nat) (site : Nat)
  /-- ROUTE_TABLE_REWRITE (R328). The headstock writes new route tables around a hole or lost die, dropping packets waiting for the hole. -/
  | routeTableRewrite
  /-- MESSAGE_COMPLETE (R320). A destination NI holds all packets of a message and applies it, holds it or refuses it under its flow order. -/
  | messageComplete (die : Nat) (site : Nat) (src : Ep) (issuer : Nat) (msgId : Nat)
  /-- NI_BUFFER_TIMEOUT (R333). A message still incomplete 100 µs after its first packet has its buffer freed with REFUSED BUSY. -/
  | niBufferTimeout (die : Nat) (site : Nat) (src : Ep) (issuer : Nat) (msgId : Nat)
  /-- ORDER_WAIT_TIMEOUT (R334). A message waiting 100 µs for its flow predecessor is freed with REFUSED ORDER_RETRY. -/
  | orderWaitTimeout (die : Nat) (site : Nat) (src : Ep) (issuer : Nat) (msgId : Nat)
  /-- REPLY_RECEIVED (R331). A source NI receives a reply and passes a final outcome to the issuer or schedules a retry. -/
  | replyReceived (m : Msg)
  /-- HELD (R336). A HELD reply stops the source NI's timeout for the message. -/
  | held (m : Msg)
  /-- MESSAGE_RESEND (R335). The source NI resends a refused message after its delay with the next ATTEMPT. -/
  | messageResend (die : Nat) (site : Nat) (msgId : Nat)
  /-- MULL_TIMEOUT (R335). A message without a final reply 2 ms (50 ms to the host port) after its first attempt is ended. -/
  | mullTimeout (die : Nat) (site : Nat) (msgId : Nat)
  /-- WITHDRAW_HELD (R336). A destination NI discards a held message unapplied and replies ACK, or sends its final reply if applied. -/
  | withdrawHeld (m : Msg)
  /-- TELEMETRY_WINDOW_END (R342). At each 10 µs window end a router copies its port histograms and adds them to its accumulators. -/
  | telemetryWindowEnd (die : Nat) (site : Nat) (samples : List (List Nat))
  /-- TELEMETRY_PERIOD_END (R343). At each 1 ms period end each router sends its accumulators to the fabric manager and clears them. -/
  | telemetryPeriodEnd (die : Nat) (site : Nat)
  /-- TELEMETRY (R343). The fabric manager takes a router's TELEMETRY packet. -/
  | telemetry (m : Msg)
  /-- MAP_WRITE (R344). The fabric manager writes a period's congestion map to the next ring buffer, header last. -/
  | mapWrite
  /-- SIGNAL (R351). The kettle unit adds n to a kettle, refusing underflow or overflow, and evaluates its waiters. -/
  | signal (m : Msg)
  /-- WAIT_CONSUME (R351). A consumer wait is satisfied at once with DATA or registered in the waiter table. -/
  | waitConsume (m : Msg)
  /-- WAIT_OBSERVE (R351). An observer wait is satisfied at once with DATA or registered in the waiter table. -/
  | waitObserve (m : Msg)
  /-- RESET (R351). The kettle unit sets a kettle to v and evaluates its waiters. -/
  | reset (m : Msg)
  /-- WITHDRAW (R368). The kettle unit removes registered waits of a scope without releasing them and replies when settled. -/
  | withdraw (m : Msg)
  /-- RELEASE (R356). A RELEASE reaches a waiter's endpoint and the waiting issuer resumes with the value. -/
  | release (m : Msg)
  /-- TIMED_DEADLINE_MISS (R461). A run still open in the cycle after its deadline raises a corrected event. -/
  | timedDeadlineMiss (region : Nat)
  /-- TILE_ISSUE (R392). A destination takes an issued descriptor into an ISSUED context's queue after its content checks. -/
  | tileIssue (m : Msg)
  /-- SUMMARY (R156). A collector merges an arriving numeric summary and at a step's end writes the record slot, signals and runs the governor. -/
  | summary (m : Msg)
  /-- GOV_UPDATE (R159). A subscriber V-tile receives a governor update for its next governed VOP. -/
  | govUpdate (m : Msg)
  /-- CORE_MSG_READ (R380). Cluster memory words are read through the CORE port after the window check. -/
  | coreMsgRead (m : Msg) (u : Upset)
  /-- CORE_MSG_WRITE (R380). Cluster memory words are written through the CORE port after the window check. -/
  | coreMsgWrite (m : Msg)
  /-- CORE_MSG_WRITE_NARROW (R380). Bytes of one cluster memory word are written through the CORE port. -/
  | coreMsgWriteNarrow (m : Msg)
  /-- CFG_FRAME (R420). An enrolled configuration controller stages a frame and updates FRAMES and FSUM. -/
  | cfgFrame (m : Msg)
  /-- CFG_REG (R383). A read or write of configuration space or device registers at a die block or site. -/
  | cfgReg (m : Msg)
  /-- MEM_READ (R213). A serving DP S-tile or hub reads near or far words after ownership and backing checks. -/
  | memRead (m : Msg) (u : Upset)
  /-- MEM_WRITE (R232). A serving DP S-tile or hub writes near or far words after ownership and backing checks. -/
  | memWrite (m : Msg) (u : Upset)
  /-- PATROL_SCRUB_DRAM (R239). The patrol scrub reads a near or far codeword in an idle slot and handles its errors. -/
  | patrolScrubDram (addr : Nat) (u : Upset)
  /-- NEAR_CHANNEL_LOST (R216). A near channel lost in service is marked LOST and its granules become unbacked. -/
  | nearChannelLost (die : Nat) (ch : Nat)
  /-- FAR_CHANNEL_LOST (R223). A far channel lost in service is marked LOST and its granules become unbacked. -/
  | farChannelLost (hub : Nat) (ch : Nat)
  /-- READ (R197). An S-tile reads up to 16 words under a tag mode and replies with them. -/
  | read (m : Msg) (u : Upset)
  /-- WRITE (R197). An S-tile writes up to 15 words under a tag mode. -/
  | write (m : Msg) (u : Upset)
  /-- READ_NARROW (R197). An S-tile reads bytes of a slot under OBSERVE or RAW. -/
  | readNarrow (m : Msg) (u : Upset)
  /-- WRITE_NARROW (R202). An S-tile merges bytes into a slot, or into the gather buffer in narrow-gather mode. -/
  | writeNarrow (m : Msg) (u : Upset)
  /-- FILL (R198). The fill engine writes a pattern into a run of slots under a tag mode. -/
  | fill (m : Msg) (u : Upset)
  /-- COPY (R198). The fill and copy engine copies a run of slots within the S-tile. -/
  | copy (m : Msg) (u : Upset)
  /-- LEAF_SWAP (R194). A leaf swap with expected GEN is taken at once, made pending, or refused. -/
  | leafSwap (m : Msg)
  /-- LEAF_SWAP_EFFECT (R194). A pending swap takes effect when the read leaf empties, exchanging roles, raising GEN and replying. -/
  | leafSwapEffect (die : Nat) (site : Nat) (quire : Nat)
  /-- QUIRE_QUERY (R197). An S-tile replies with a quire's GEN, write leaf, full counts and pending flag. -/
  | quireQuery (m : Msg)
  /-- GATHER_FLUSH (R203). Every RAW gather entry is written back. -/
  | gatherFlush (m : Msg)
  /-- GATHER_STALL (R202). A narrow write that has waited 100 µs for a gather entry faults its job. -/
  | gatherStall (die : Nat) (site : Nat)
  /-- BANK_GRANT (R177). Each bank grants one eligible access per A-clock cycle, applying its tag change. -/
  | bankGrant (die : Nat) (site : Nat) (bank : Nat) (u : Upset)
  /-- CHANNEL_RUN_END (R191). A grain access channel finishes a run, signals its kettle and begins the next run. -/
  | channelRunEnd (die : Nat) (site : Nat) (ch : Nat)
  /-- PATROL_SCRUB_SP (R206). The S-tile patrol reads a bank row in idle cycles and handles its errors. -/
  | patrolScrubSp (die : Nat) (site : Nat) (bank : Nat) (u : Upset)
  /-- M_STEP_ISSUE (R105). An M-tile issues one tile step of the running context into its pipeline. -/
  | mStepIssue (die : Nat) (site : Nat) (slot : Nat) (u : Upset)
  /-- CONTEXT_SWITCH (R106). After two not-ready cycles with another context ready, the tile switches to the longest-waiting ready context. -/
  | contextSwitch (die : Nat) (site : Nat)
  /-- MMA (R126). An MMA descriptor issues a sweep of tile steps. -/
  | mma (die : Nat) (site : Nat) (ctx : Nat)
  /-- MMA_COMPLETE (R123). An MMA's last step is written and its done and tag kettles are signalled. -/
  | mmaComplete (die : Nat) (site : Nat) (ctx : Nat)
  /-- WLOAD (R127). A WLOAD issues to the load engine and sets its segments LOADING. -/
  | wload (die : Nat) (site : Nat) (ctx : Nat)
  /-- WLOAD_COMPLETE (R90). A loading segment's last word is written and it becomes READY, completing the WLOAD. -/
  | wloadComplete (die : Nat) (site : Nat)
  /-- WRELEASE (R124). Sets segments to EMPTY at the end of its issue cycle. -/
  | wrelease (die : Nat) (site : Nat) (ctx : Nat)
  /-- ZERO (R124). Clears accumulator blocks to +0. -/
  | zero (die : Nat) (site : Nat) (ctx : Nat)
  /-- DRAIN (R128). A DRAIN issues to the drain engine and sets its blocks DRAINING. -/
  | drain (die : Nat) (site : Nat) (ctx : Nat)
  /-- DRAIN_COMPLETE (R98). The credit for a drain's last word returns and its numeric summary goes to the collector. -/
  | drainComplete (die : Nat) (site : Nat)
  /-- ACCOPEN (R99). Opens an accumulation tag on a range of blocks. -/
  | accopen (die : Nat) (site : Nat) (ctx : Nat)
  /-- KWAIT (R124). An M-tile context sends a kettle wait and becomes BLOCKED. -/
  | kwait (die : Nat) (site : Nat) (ctx : Nat)
  /-- ACC_CONTRIBUTION (R102). A contribution block at the ACC port is added into its tagged blocks or discarded with a fault. -/
  | accContribution (die : Nat) (site : Nat)
  /-- AUDIT_PASS (R118). A copy audit pass begins at its interval and compares recorded weight segment pairs. -/
  | auditPass (die : Nat) (site : Nat)
  /-- REGEN_COMPLETE (R119). The column segment rebuild ends and the segment becomes READY. -/
  | regenComplete (die : Nat) (site : Nat) (seg : Nat)
  /-- VOP (R164). A VOP descriptor issues a chain run over a tensor. -/
  | vop (die : Nat) (site : Nat) (ctx : Nat)
  /-- VECTOR_ISSUE (R160). A V-tile issues one vector of the running context into its chain. -/
  | vectorIssue (die : Nat) (site : Nat) (slot : Nat) (flips : List (Nat × Nat))
  /-- ROW_REDUCTION_WRITE (R149). A row's reduced value passes through the lane tree and POST and is written to T. -/
  | rowReductionWrite (die : Nat) (site : Nat) (ctx : Nat)
  /-- VOP_COMPLETE (R155). A VOP's outputs are credited and reductions written, and each output sends its summary. -/
  | vopComplete (die : Nat) (site : Nat) (ctx : Nat)
  /-- VT_KWAIT (R164). A V-tile context sends a kettle wait and becomes BLOCKED. -/
  | vtKwait (die : Nat) (site : Nat) (ctx : Nat)
  /-- TFILL (R164). Writes a constant into a rectangle of the tile register. -/
  | tfill (die : Nat) (site : Nat) (ctx : Nat)
  /-- TLOAD (R164). Loads rows of the tile register from an input port. -/
  | tload (die : Nat) (site : Nat) (ctx : Nat)
  /-- TOUT (R164). Sends rows of the tile register on an output port. -/
  | tout (die : Nat) (site : Nat) (ctx : Nat)
  /-- FCALL_BEAT (R167). An F-tile computes a request beat of function results and returns them. -/
  | fcallBeat (die : Nat) (site : Nat) (link : Nat) (slot : Nat) (flips : List Nat)
  /-- FCALL_RETURN (R150). Returned F-tile results reach the V-tile chain in request order. -/
  | fcallReturn (die : Nat) (site : Nat)
  /-- MAP_RUN_COMPLETE (R168). An F-tile MAP run's last output word is credited, the kettle is signalled and the next run starts. -/
  | mapRunComplete (die : Nat) (site : Nat) (link : Nat)
  /-- GRAIN_SLOT_FORWARD (R278). A grain switch drives a received word onto the next link in its circuit's slot. -/
  | grainSlotForward (die : Nat) (site : Nat) (table : Nat) (slot : Nat) (flip : Nat)
  /-- CREDIT_RETURN (R285). A credit arrives on a link's sideband and is passed back along its circuit. -/
  | creditReturn (die : Nat) (site : Nat) (table : Nat) (slot : Nat) (first : Bool) (second : Bool)
  /-- FORK_TAKE (R289). A fork takes an input word and copies it to its two branches. -/
  | forkTake (die : Nat) (site : Nat) (unit : Nat)
  /-- JOIN_PAIR (R290). A join takes the head words of both ports and emits them in order. -/
  | joinPair (die : Nat) (site : Nat) (unit : Nat)
  /-- JOIN_SKEW_STALL (R292). A watched join's skew count reaches 100 µs and faults the job. -/
  | joinSkewStall (die : Nat) (site : Nat) (unit : Nat)
  /-- STEER (R294). A steering unit matches a token with data and passes the data to its chosen input or output. -/
  | steer (die : Nat) (site : Nat) (unit : Nat)
  /-- MERGE_ADD (R296). A merge adder loads or adds an arriving contribution to its output word. -/
  | mergeAdd (die : Nat) (site : Nat) (unit : Nat) (input : Nat)
  /-- EDGE_FRAME_RECEIVE (R304). An edge frame arrives, is CRC-checked, delivered or replayed, and eight failures lose the lane group. -/
  | edgeFrameReceive (die : Nat) (site : Nat) (crcOk : Bool) (flips : List Nat)
  /-- STREAM_ADMIT (R246). An engine admits its oldest queued descriptor when a slot and staging words are free. -/
  | streamAdmit (die : Nat) (site : Nat)
  /-- STREAM_REQUEST_ISSUE (R261). An active stream issues the request for its next word within its prefetch window. -/
  | streamRequestIssue (die : Nat) (site : Nat) (slot : Nat) (u : Upset)
  /-- STREAM_REPLY (R261). A stream reply enters staging and local words are written in stream order. -/
  | streamReply (die : Nat) (site : Nat) (slot : Nat)
  /-- STREAM_COMPLETE (R265). A stream's last word is finished, its record is written and DONE_KETTLE is signalled. -/
  | streamComplete (die : Nat) (site : Nat) (slot : Nat)
  /-- STREAM_TIMEOUT (R264). A stream request without a reply after 2 ms, or 50 ms to the host, faults the stream. -/
  | streamTimeout (die : Nat) (site : Nat) (slot : Nat)
  /-- STREAM_FAULT (R268). A faulting stream word aborts its whole task, writes records, raises STREAM_FAULT and faults the job. -/
  | streamFault (die : Nat) (site : Nat) (slot : Nat)
  /-- CORE_INSTRUCTION (R376). A control core executes one base RISC-V instruction. -/
  | coreInstruction (die : Nat) (core : Nat) (u : Upset)
  /-- APERTURE_LOAD (R383). A core load through the device aperture sends a request and stalls until the reply. -/
  | apertureLoad (die : Nat) (core : Nat)
  /-- APERTURE_STORE (R383). A core store through the device aperture is posted as a request. -/
  | apertureStore (die : Nat) (core : Nat)
  /-- XTISSUE (R392). Sends a 64-byte operation descriptor to an ISSUED tile context. -/
  | xtissue (die : Nat) (core : Nat)
  /-- XSPCMD (R393). Sends an S-tile command word and data from a command block. -/
  | xspcmd (die : Nat) (core : Nat)
  /-- XSENQ (R394). Sends a stream descriptor to a stream engine. -/
  | xsenq (die : Nat) (core : Nat)
  /-- XSCANCEL (R394). Cancels every stream of a task. -/
  | xscancel (die : Nat) (core : Nat)
  /-- XSQADD (R398). Adds a sequence to the sequence table. -/
  | xsqadd (die : Nat) (core : Nat)
  /-- XSQRET (R398). Retires a sequence of the sequence table. -/
  | xsqret (die : Nat) (core : Nat)
  /-- XSQUPD (R398). Replaces a sequence's software-writable fields. -/
  | xsqupd (die : Nat) (core : Nat)
  /-- XSQREAD (R398). Copies a sequence table entry to cluster memory. -/
  | xsqread (die : Nat) (core : Nat)
  /-- XKSIG (R395). Posts a kettle SIGNAL(n). -/
  | xksig (die : Nat) (core : Nat)
  /-- XKSIG_REL (R395). Holds a kettle SIGNAL(n) until a full fence would complete, then sends it with REL. -/
  | xksigRel (die : Nat) (core : Nat)
  /-- XKRST (R395). Posts a kettle RESET(v). -/
  | xkrst (die : Nat) (core : Nat)
  /-- XKWAITC (R395). Sends WAIT_CONSUME(n) and stalls the core until released. -/
  | xkwaitc (die : Nat) (core : Nat)
  /-- XKWAITO (R395). Sends WAIT_OBSERVE(n) and stalls the core until released. -/
  | xkwaito (die : Nat) (core : Nat)
  /-- XFENCE_STREAM (R396). Stalls the core until its earlier streams are done. -/
  | xfenceStream (die : Nat) (core : Nat)
  /-- XFENCE_MULL (R396). Stalls the core until its earlier mull writes and kettle operations are applied. -/
  | xfenceMull (die : Nat) (core : Nat)
  /-- XFENCE_HOST (R396). Stalls the core until its earlier host writes are visible. -/
  | xfenceHost (die : Nat) (core : Nat)
  /-- XFENCE_FULL (R396). Stalls the core until all three fence conditions hold. -/
  | xfenceFull (die : Nat) (core : Nat)
  /-- XTS (R397). Writes the package timestamp into rd. -/
  | xts (die : Nat) (core : Nat)
  /-- FENCE_COMPLETE (R274). A fence completes at the end of the first M-clock cycle at whose start every covered operation is done. -/
  | fenceComplete (issuer : Ep)
  /-- ECALL_EXIT (R387). An ECALL with a7 0 makes the core DONE. -/
  | ecallExit (die : Nat) (core : Nat)
  /-- ECALL_FAULT (R387). An ECALL with a7 1 raises CORE_SELF_FAULT and faults the job. -/
  | ecallFault (die : Nat) (core : Nat)
  /-- CORE_EXCEPTION (R387). Any other U-mode exception traps to the monitor, raises CORE_EXCEPTION and faults the job. -/
  | coreException (die : Nat) (core : Nat) (u : Upset)
  /-- TIMER_INTERRUPT (R388). mip.MTIP is set while TIME reaches CMP and the core traps to the monitor. -/
  | timerInterrupt (die : Nat) (core : Nat)
  /-- SOFTWARE_INTERRUPT (R389). CLK_MSIPn drives mip.MSIP and the core takes the interrupt in M mode. -/
  | softwareInterrupt (die : Nat) (core : Nat)
  /-- CORE_HALT (R400). The headstock raises a halt through MEIP and the core settles its waits and requests and stops. -/
  | coreHalt (die : Nat) (core : Nat)
  /-- SEQ_BUILD (R465). A release on BUILD_KETTLE starts a work-list build, writes the list and signals LIST_KETTLE. -/
  | seqBuild (die : Nat)
  /-- MODEL_FETCH_COMPLETE (R469). Both fetch streams complete, the slot becomes RESIDENT and FETCH_KETTLE is signalled. -/
  | modelFetchComplete (die : Nat)
  /-- GRAIN_CIRCUIT_HOLE (R308). A grain switch fails in service, its site becomes a hole, and every region with a circuit or element in that site is faulted. -/
  | grainCircuitHole (die : Nat) (site : Nat)
  /-- BACK_INVALIDATE_SNOOP_RESPONSE (R233). The host answers a back-invalidate snoop, after which the Enhus's write to that HDM line becomes visible. -/
  | backInvalidateSnoopResponse (addr : Nat)
  /-- PACKET_EJECTION (R333). A destination NI takes an arriving packet off the network into the buffer of its message, frees an older attempt's buffer, or discards it and replies REFUSED with BUSY when no buffer is free. -/
  | packetEjection (die : Nat) (site : Nat)
  /-- FLOW_ENTRY_EXPIRY (R334). A destination flow entry lapses 10 µs after its last application when no message of the flow is buffered, so a later DEP message finds it absent and is refused with ORDER_RETRY. -/
  | flowEntryExpiry (die : Nat) (site : Nat) (src : Ep) (issuer : Nat) (dst : Ep)
  /-- REFRESH (R217). A near or far DRAM channel refreshes its rows at the base or doubled rate, holding off accesses during refresh. -/
  | refresh (die : Nat) (ch : Nat)
  /-- FAR_REFRESH_RATE_POLL (R243). A hub polls each far device's mode register and copies its refresh-rate field into DBG_FAR_CH.REFRESH_RATE. -/
  | farRefreshRatePoll (hub : Nat) (ch : Nat) (rate : Nat)
  deriving DecidableEq, Repr

end Sys2Proof
end

