-- ==== Sys2Proof/Config.lean ====
section
/-! DEFINITION. Sys2Proof/Config.lean: the constants that an implementation fixes and the values that the spec leaves open, as constants without a body. -/

namespace Sys2Proof.Machine

/-- A free value for the n-th use, in 64 bits (log entry 5). -/
opaque Config.freeValue : Nat → BitVec 64

/-- SHA-512 of bytes, a named standard outside the spec (log entry 6). -/
opaque Config.sha512 : List Byte → BitVec 512

/-- Whether an Ed25519 signature verifies: public key, message, signature (log entry 6). -/
opaque Config.ed25519 : List Byte → List Byte → List Byte → Bool

/-- HMAC-SHA-512 of a key and bytes (log entry 6). -/
opaque Config.hmac : List Byte → List Byte → BitVec 512

/-- A value or packet derived from the device's secrets, by purpose and input (log entry 6). -/
opaque Config.secret : Nat → List Byte → List Byte

/-- The FP32 result of a special function by its code and operand bits, where the spec bounds and does not state it (R147, R165; log entry 7). -/
opaque Config.approx : Nat → Nat → Nat → Nat

/-- The escape port of a router for a target, where the spec states a property of the routes and no route (R325; log entry 8). -/
opaque Config.escapePort : Nat → Nat → Nat

/-- Whether the package is an EN100-B (R2, R495; log entry 20). -/
opaque Config.isB : Bool

/-- The SHA-512 digests of the four firmware keys held in H0's boot ROM (R521; log entry 20). -/
opaque Config.romKey : Nat → Nat

/-- The boot ROM's version and digest (R524, R531; log entry 20). -/
opaque Config.romVersion : Nat
opaque Config.romDigest : Nat

end Sys2Proof.Machine
end

