-- ==== Sys2Proof/Machine/Bits.lean ====
section
/-! DEFINITION. Sys2Proof/Machine/Bits.lean: bit fields, byte order, sparse tables and small arithmetic that the meanings share (R6, R7, R12). -/

namespace Sys2Proof.Machine

/-- Bits [msb:lsb] of a number (R6). -/
def bits (n msb lsb : Nat) : Nat := n / 2 ^ lsb % 2 ^ (msb + 1 - lsb)

/-- Bit k of a number (R6). -/
def bit (n k : Nat) : Bool := n / 2 ^ k % 2 == 1

/-- A number with bits [msb:lsb] replaced by v. -/
def setBits (n msb lsb v : Nat) : Nat :=
  n - bits n msb lsb * 2 ^ lsb + v % 2 ^ (msb + 1 - lsb) * 2 ^ lsb

/-- The little-endian field of size bytes at byte offset off of a blob held as a number (R6). -/
def fld (n off size : Nat) : Nat := n / 2 ^ (8 * off) % 2 ^ (8 * size)

/-- A blob with the field of size bytes at byte offset off replaced by v. -/
def setFld (n off size v : Nat) : Nat :=
  n - fld n off size * 2 ^ (8 * off) + v % 2 ^ (8 * size) * 2 ^ (8 * off)

/-- A number read as a two's complement integer of the given width. -/
def toSigned (width n : Nat) : Int :=
  if n % 2 ^ width < 2 ^ (width - 1) then (n % 2 ^ width : Nat) else (n % 2 ^ width : Nat) - (2 ^ width : Nat)

/-- The two's complement encoding of an integer in the given width. -/
def ofSigned (width : Nat) (i : Int) : Nat := (i % (2 ^ width : Nat)).toNat

/-- count bytes of a number, least significant first (R6). -/
def leBytes : Nat → Nat → List Byte
  | 0, _ => []
  | count + 1, n => BitVec.ofNat 8 n :: leBytes count (n / 256)

/-- The number that bytes spell, least significant first (R6). -/
def leNat : List Byte → Nat
  | [] => 0
  | b :: bs => b.toNat + 256 * leNat bs

/-- Counting up to a top value and staying there (R12, saturating counters). -/
def satAdd (top a b : Nat) : Nat := if top < a + b then top else a + b

/-- Rounding up to a whole quotient. -/
def ceilDiv (a b : Nat) : Nat := (a + b - 1) / b

/-- The entry of a key, if it has one. -/
def Tab.find? {α : Type} (k : Nat) : Tab α → Option α
  | [] => none
  | (j, v) :: t => if j = k then some v else Tab.find? k t

/-- The entry of a key, or the default. -/
def Tab.get {α : Type} (d : α) (k : Nat) (t : Tab α) : α := (Tab.find? k t).getD d

/-- The table without a key. -/
def Tab.erase {α : Type} (k : Nat) : Tab α → Tab α
  | [] => []
  | (j, v) :: t => if j = k then Tab.erase k t else (j, v) :: Tab.erase k t

/-- The table with a key's entry set. -/
def Tab.set {α : Type} (k : Nat) (v : α) : Tab α → Tab α
  | [] => [(k, v)]
  | (j, w) :: t =>
    if k < j then (k, v) :: (j, w) :: t
    else if j = k then (k, v) :: t
    else (j, w) :: Tab.set k v t

/-- The table with a key's entry updated, an absent one starting from the default. -/
def Tab.modify {α : Type} (d : α) (k : Nat) (f : α → α) (t : Tab α) : Tab α :=
  Tab.set k (f (Tab.get d k t)) t

/-- The entries whose keys pass a test. -/
def Tab.keep {α : Type} (p : Nat → α → Bool) (t : Tab α) : Tab α := t.filter (fun e => p e.1 e.2)

/-- The keys of a table. -/
def Tab.keys {α : Type} (t : Tab α) : List Nat := t.map (·.1)

/-- The entry at an index of a list, or the default. -/
def nth {α : Type} (d : α) (i : Nat) (l : List α) : α := (l[i]?).getD d

/-- The numbers below n, in rising order. -/
def upTo (n : Nat) : List Nat := List.range n

/-- A list cut into pieces of the given length, the fuel bounding their number. -/
def chunks {α : Type} (size : Nat) : Nat → List α → List (List α)
  | 0, _ => []
  | fuel + 1, l => if l.isEmpty then [] else l.take size :: chunks size fuel (l.drop size)

/-- The largest number of a list, 0 for the empty one. -/
def maxOf (l : List Nat) : Nat := l.foldl max 0

/-- CRC-32 (reflected polynomial 0xEDB8_8320) of one more byte. -/
def crc32Byte (crc : Nat) (b : Byte) : Nat :=
  (upTo 8).foldl (fun c _ => if c % 2 = 1 then (c / 2) ^^^ 0xEDB88320 else c / 2) (crc ^^^ b.toNat)

/-- CRC-32 of bytes, initial value and final inversion all ones. -/
def crc32 (bs : List Byte) : Nat := (bs.foldl crc32Byte 0xFFFFFFFF) ^^^ 0xFFFFFFFF

end Sys2Proof.Machine
end

