-- ==== Sys2Proof/Machine/Formats.lean ====
section
/-! DEFINITION. Sys2Proof/Machine/Formats.lean: the number formats bit by bit, exact arithmetic and rounding, conversions, block exponents and numeric summaries (R47 to R81). -/

namespace Sys2Proof.Machine

/-- The format that a format field's value names, reserved values naming none (R62). -/
def fmtOfCode : Nat → Option NumFmt
  | 0 => some .fp32
  | 1 => some .bf16
  | 2 => some .fp16
  | 3 => some .hb8
  | 4 => some .hb4
  | 5 => some .fp64
  | _ => none

/-- The value of a format in a format field (R62). -/
def codeOfFmt : NumFmt → Nat
  | .fp32 => 0
  | .bf16 => 1
  | .fp16 => 2
  | .hb8 => 3
  | .hb4 => 4
  | .fp64 => 5

/-- The direction that an RND value names, reserved values naming none (R63). -/
def rndOfCode : Nat → Option Rnd
  | 0 => some .rne
  | 1 => some .rna
  | 2 => some .rup
  | 3 => some .rdn
  | 4 => some .rtz
  | _ => none

/-- Width in bits of one element (R47). -/
def fmtWidth : NumFmt → Nat
  | .fp32 => 32
  | .bf16 => 16
  | .fp16 => 16
  | .hb8 => 8
  | .hb4 => 4
  | .fp64 => 64

/-- The block formats (R53). -/
def isBlockFmt : NumFmt → Bool
  | .hb8 => true
  | .hb4 => true
  | _ => false

/-- Significand bits, the leading one included (R49, R50, R51). -/
def fmtPrec : NumFmt → Nat
  | .fp32 => 24
  | .bf16 => 8
  | .fp16 => 11
  | .hb8 => 4
  | .hb4 => 2
  | .fp64 => 53

/-- Exponent of the largest binade (R49, R50, R51). -/
def fmtEmax : NumFmt → Int
  | .fp32 => 127
  | .bf16 => 127
  | .fp16 => 15
  | .hb8 => 0
  | .hb4 => 0
  | .fp64 => 1023

/-- Exponent of the smallest normal (R49, R50, R51). -/
def fmtEmin : NumFmt → Int
  | .fp32 => -126
  | .bf16 => -126
  | .fp16 => -14
  | .hb8 => -14
  | .hb4 => -2
  | .fp64 => -1022

/-- Exponent of the subnormal step (R49, R50, R51). -/
def fmtQmin (f : NumFmt) : Int := fmtEmin f - ((fmtPrec f : Int) - 1)

/-- The exact value of an element's bits; for a block format the element value before the block's scale (R49, R50, R51). -/
def unpack (f : NumFmt) (b : Nat) : Val :=
  let mb := fmtPrec f - 1
  let eb := fmtWidth f - 1 - mb
  let neg := bit b (fmtWidth f - 1)
  let e := b / 2 ^ mb % 2 ^ eb
  let m := b % 2 ^ mb
  if !isBlockFmt f && e == 2 ^ eb - 1 then
    if m = 0 then .inf neg else .nan (!bit m (mb - 1))
  else if e = 0 then .fin neg m (fmtQmin f)
  else .fin neg (2 ^ mb + m) (fmtQmin f + ((e : Int) - 1))

/-- The value of a block element under block exponent b, every element of a NaN block being the canonical NaN (R50 to R52). -/
def unpackBlock (f : NumFmt) (b code : Nat) : Val :=
  if b = 0xFF then .nan false
  else match unpack f code with
    | .fin neg m e => .fin neg m (e + ((b : Int) - 127))
    | v => v

/-- The canonical quiet NaN of a format (R55, R56, R60). -/
def canonNan : NumFmt → Nat
  | .fp32 => 0x7FC00000
  | .bf16 => 0x7FC0
  | .fp16 => 0x7E00
  | .fp64 => 0x7FF8000000000000
  | .hb8 => 0
  | .hb4 => 0

/-- A signed infinity's bits. -/
def infBits (f : NumFmt) (neg : Bool) : Nat :=
  let mb := fmtPrec f - 1
  (2 ^ (fmtWidth f - 1 - mb) - 1) * 2 ^ mb + (if neg then 2 ^ (fmtWidth f - 1) else 0)

/-- The largest finite magnitude's bits with a sign. -/
def maxBits (f : NumFmt) (neg : Bool) : Nat :=
  (if isBlockFmt f then 2 ^ (fmtWidth f - 1) - 1 else infBits f false - 1) + (if neg then 2 ^ (fmtWidth f - 1) else 0)

/-- The exponent of a magnitude: floor of the base-2 logarithm of man × 2^exp, man not 0 (R66, R76). -/
def magExp (man : Nat) (exp : Int) : Int := (Nat.log2 man : Int) + exp

/-- A magnitude rounded to a whole number of steps 2^q; the flag says that it was not exact (R63). -/
def roundSteps (rm : Rnd) (neg : Bool) (man : Nat) (exp q : Int) : Nat × Bool :=
  if q ≤ exp then (man * 2 ^ (exp - q).toNat, false)
  else
    let d := 2 ^ (q - exp).toNat
    let n := man / d
    let r := man % d
    let up := match rm with
      | .rne => decide (d < 2 * r) || (2 * r == d && n % 2 == 1)
      | .rna => decide (d ≤ 2 * r)
      | .rup => !neg && r != 0
      | .rdn => neg && r != 0
      | .rtz => false
    (if up then n + 1 else n, r != 0)

/-- A rounded result: its bits, the five flags in the bit order of NFLAGS [4:0] (R78), and whether a subnormal was flushed. -/
structure Rounded where
  bits : Nat
  flags : Nat
  flushed : Bool
  deriving DecidableEq, Repr

/-- The bits of sign and n × 2^q where n has at most the format's precision and q is at least the subnormal step's exponent. -/
def packSteps (f : NumFmt) (neg : Bool) (n : Nat) (q : Int) : Nat :=
  let p := fmtPrec f
  let sgn := if neg then 2 ^ (fmtWidth f - 1) else 0
  let (n, q) := if n = 2 ^ p then (2 ^ (p - 1), q + 1) else (n, q)
  if n < 2 ^ (p - 1) then sgn + n
  else sgn + ((q - fmtQmin f).toNat + 1) * 2 ^ (p - 1) + (n - 2 ^ (p - 1))

/-- An exact value rounded once to a format without block exponent, overflow, tininess (detected after rounding) and flush included (R55, R59, R60, R63, R65). -/
def roundTo (f : NumFmt) (rm : Rnd) (flush : Bool) (v : Val) : Rounded :=
  match v with
  | .nan s => { bits := canonNan f, flags := if s then 16 else 0, flushed := false }
  | .inf neg => { bits := infBits f neg, flags := 0, flushed := false }
  | .fin neg man exp =>
    if man = 0 then { bits := if neg then 2 ^ (fmtWidth f - 1) else 0, flags := 0, flushed := false }
    else
      let p := fmtPrec f
      let e := magExp man exp
      let qn := e - ((p : Int) - 1)
      let q := max qn (fmtQmin f)
      let (n, nx) := roundSteps rm neg man exp q
      if n ≠ 0 ∧ fmtEmax f < magExp n q then
        let toInf := match rm with
          | .rtz => false
          | .rup => !neg
          | .rdn => neg
          | _ => true
        { bits := if toInf then infBits f neg else maxBits f neg, flags := 5, flushed := false }
      else
        let (nu, _) := roundSteps rm neg man exp qn
        let tiny := decide (magExp nu qn < fmtEmin f)
        if flush && n != 0 && decide (magExp n q < fmtEmin f) then
          { bits := if neg then 2 ^ (fmtWidth f - 1) else 0, flags := 3, flushed := true }
        else { bits := packSteps f neg n q, flags := if nx then (if tiny then 3 else 1) else 0, flushed := false }

/-- The value with its sign reversed. -/
def Val.negate : Val → Val
  | .nan s => .nan s
  | .inf n => .inf (!n)
  | .fin n m e => .fin (!n) m e

/-- The exact sum of two values and whether it is invalid; an exact zero of opposite signs is −0 only toward negative (R56, R59). -/
def Val.add (rm : Rnd) (a b : Val) : Val × Bool :=
  match a, b with
  | .nan s, .nan t => (.nan false, s || t)
  | .nan s, _ => (.nan false, s)
  | _, .nan s => (.nan false, s)
  | .inf n, .inf m => if n = m then (.inf n, false) else (.nan false, true)
  | .inf n, _ => (.inf n, false)
  | _, .inf n => (.inf n, false)
  | .fin n m e, .fin n' m' e' =>
    let q := min e e'
    let x : Int := (m * 2 ^ (e - q).toNat : Nat)
    let y : Int := (m' * 2 ^ (e' - q).toNat : Nat)
    let s := (if n then -x else x) + (if n' then -y else y)
    if s = 0 then (.fin (if n = n' then n else decide (rm = .rdn)) 0 q, false)
    else (.fin (decide (s < 0)) s.natAbs q, false)

/-- The exact product of two values and whether it is invalid (R56, R59). -/
def Val.mul (a b : Val) : Val × Bool :=
  match a, b with
  | .nan s, .nan t => (.nan false, s || t)
  | .nan s, _ => (.nan false, s)
  | _, .nan s => (.nan false, s)
  | .inf n, .inf m => (.inf (n != m), false)
  | .inf n, .fin m k _ => if k = 0 then (.nan false, true) else (.inf (n != m), false)
  | .fin n k _, .inf m => if k = 0 then (.nan false, true) else (.inf (n != m), false)
  | .fin n m e, .fin n' m' e' => (.fin (n != n') (m * m') (e + e'), false)

/-- The quotient carried to 140 bits with a sticky bit, its flags being NV (16) and DZ (8) (R59). -/
def Val.div (a b : Val) : Val × Nat :=
  match a, b with
  | .nan s, .nan t => (.nan false, if s || t then 16 else 0)
  | .nan s, _ => (.nan false, if s then 16 else 0)
  | _, .nan s => (.nan false, if s then 16 else 0)
  | .inf _, .inf _ => (.nan false, 16)
  | .inf n, .fin m _ _ => (.inf (n != m), 0)
  | .fin n _ _, .inf m => (.fin (n != m) 0 0, 0)
  | .fin n m e, .fin n' m' e' =>
    if m' = 0 then (if m = 0 then (.nan false, 16) else (.inf (n != n'), 8))
    else
      let x := m * 2 ^ (140 + Nat.log2 m')
      let q := x / m' * 2 + (if x % m' = 0 then 0 else 1)
      (.fin (n != n') q (e - e' - 141 - (Nat.log2 m' : Int)), 0)

/-- The integer square root, one bit of the root decided at a time from the top. -/
def isqrt (bitsLeft : Nat) (n r : Nat) : Nat :=
  match bitsLeft with
  | 0 => r
  | k + 1 => if (r + 2 ^ k) * (r + 2 ^ k) ≤ n then isqrt k n (r + 2 ^ k) else isqrt k n r

/-- The square root carried to 140 bits or more with a sticky bit, and NV for a negative operand (R59). -/
def Val.sqrt (a : Val) : Val × Nat :=
  match a with
  | .nan s => (.nan false, if s then 16 else 0)
  | .inf n => if n then (.nan false, 16) else (.inf false, 0)
  | .fin n m e =>
    if m = 0 then (.fin n 0 0, 0)
    else if n then (.nan false, 16)
    else
      let e2 := if e % 2 = 0 then e - 280 else e - 281
      let x := m * 2 ^ (e - e2).toNat
      let r := isqrt (Nat.log2 x / 2 + 1) x 0
      (.fin false (r * 2 + (if r * r = x then 0 else 1)) (e2 / 2 - 1), 0)

/-- Whether a value is a NaN. -/
def Val.isNan : Val → Bool
  | .nan _ => true
  | _ => false

/-- Whether a value is an infinity. -/
def Val.isInf : Val → Bool
  | .inf _ => true
  | _ => false

/-- The sign of a value, a NaN reading as positive. -/
def Val.sign : Val → Bool
  | .nan _ => false
  | .inf n => n
  | .fin n _ _ => n

/-- A finite value as a whole number of steps 2^q, q not above its exponent. -/
def Val.steps (q : Int) : Val → Int
  | .fin n m e => if n then -((m * 2 ^ (e - q).toNat : Nat) : Int) else ((m * 2 ^ (e - q).toNat : Nat) : Int)
  | _ => 0

/-- Whether a is less than b, NaNs excluded by the caller (R59). -/
def Val.lt (a b : Val) : Bool :=
  match a, b with
  | .nan _, _ => false
  | _, .nan _ => false
  | .inf n, .inf m => n && !m
  | .inf n, _ => n
  | _, .inf m => !m
  | .fin n m e, .fin n' m' e' =>
    let q := min e e'
    decide (Val.steps q (.fin n m e) < Val.steps q (.fin n' m' e'))

/-- Whether two values are equal as numbers, the zeros equal to each other (R59). -/
def Val.eq (a b : Val) : Bool := !a.isNan && !b.isNan && !Val.lt a b && !Val.lt b a

/-- The histogram bin of a value presented for conversion (R76). -/
def histBin : Val → Nat
  | .nan _ => 63
  | .inf _ => 63
  | .fin _ m e =>
    if m = 0 then 0
    else
      let x := magExp m e
      if x ≤ -40 then 1 else if x ≤ 20 then (x + 41).toNat else 62

/-- A magnitude rounded on a block format's element grid, exponent unbounded above (R66, R67): whole steps and the step's exponent. -/
def roundElem (f : NumFmt) (man : Nat) (exp : Int) : Nat × Int :=
  let q := max (magExp man exp - ((fmtPrec f : Int) - 1)) (fmtQmin f)
  ((roundSteps .rne false man exp q).1, q)

/-- Whether rounded steps exceed the largest element magnitude, which ends the binade below 2 (R66). -/
def elemOver (n : Nat) (q : Int) : Bool := n != 0 && decide (0 < magExp n q)

/-- The block exponent PER_BLOCK chooses for a block's values (R66). -/
def chooseBlockExponent (f : NumFmt) (xs : List Val) : Nat :=
  if xs.any Val.isNan then 0xFF
  else
    let mags := xs.filterMap (fun v => match v with
      | .fin _ m e => if m = 0 then none else some (Val.fin false m e)
      | _ => none)
    match mags with
    | [] => if xs.any Val.isInf then 254 else 0
    | v :: vs =>
      match vs.foldl (fun a b => if Val.lt a b then b else a) v with
      | .fin _ m e =>
        let x := magExp m e
        let r := roundElem f m (e - x)
        let b := x + 127 + (if elemOver r.1 r.2 then 1 else 0)
        (min (max b 0) 254).toNat
      | _ => 0

/-- One encoded block element: its code and whether it counted as saturated or flushed (R67). -/
structure ElemCode where
  code : Nat
  saturated : Bool
  flushed : Bool
  deriving DecidableEq, Repr

/-- One value encoded under block exponent b (R67). -/
def encodeElement (f : NumFmt) (flush : Bool) (b : Nat) (x : Val) : ElemCode :=
  if b = 0xFF then { code := 0, saturated := false, flushed := false }
  else match x with
    | .nan _ => { code := 0, saturated := false, flushed := false }
    | .inf neg => { code := maxBits f neg, saturated := true, flushed := false }
    | .fin neg m e =>
      let sgn := if neg then 2 ^ (fmtWidth f - 1) else 0
      if m = 0 then { code := sgn, saturated := false, flushed := false }
      else
        let r := roundElem f m (e - ((b : Int) - 127))
        if elemOver r.1 r.2 then { code := maxBits f neg, saturated := true, flushed := false }
        else if flush && r.1 != 0 && decide (magExp r.1 r.2 < fmtEmin f) then
          { code := sgn, saturated := false, flushed := true }
        else { code := packSteps f neg r.1 r.2, saturated := false, flushed := false }

/-- A numeric summary (R77): counts, flags, output format, scale used and the 64 bins. -/
structure Summary where
  saturated : Nat
  flushed : Nat
  nflags : Nat
  ofmt : Nat
  scaleUsed : Nat
  elements : Nat
  hist : List Nat
  deriving DecidableEq, Repr

/-- An empty summary of an output format and scale. -/
def Summary.empty (ofmt scale : Nat) : Summary :=
  { saturated := 0, flushed := 0, nflags := 0, ofmt := ofmt, scaleUsed := scale, elements := 0, hist := List.replicate 64 0 }

/-- The limit of a summary's counters (R79). -/
def summaryTop : Nat := 2 ^ 48 - 1

/-- A count raised within its limit, and whether an event found it at the limit (R79). -/
def capAdd (a b : Nat) : Nat × Bool := (satAdd summaryTop a b, decide (summaryTop < a + b))

/-- Events of one written element: its bin, and which sticky flags and counts it adds (R75 to R79). -/
def Summary.enter (s : Summary) (bin : Option Nat) (sat flush : Bool) (flags : Nat) : Summary :=
  let e := capAdd s.elements 1
  let a := capAdd s.saturated (if sat then 1 else 0)
  let f := capAdd s.flushed (if flush then 1 else 0)
  let h := bin.map (fun b => capAdd (nth 0 b s.hist) 1)
  let capped := e.2 || a.2 || f.2 || (h.map (·.2)).getD false
  { s with
    elements := e.1
    saturated := a.1
    flushed := f.1
    hist := match bin, h with
      | some b, some c => s.hist.set b c.1
      | _, _ => s.hist
    nflags := s.nflags ||| flags ||| (if sat then 32 else 0) ||| (if flush then 64 else 0) ||| (if capped then 2 ^ 30 else 0) }

/-- Two summaries of parts of one tensor merged: counters added within their limit, flags ORed (R80). -/
def Summary.merge (a b : Summary) : Summary :=
  let capped := decide (summaryTop < a.saturated + b.saturated) || decide (summaryTop < a.flushed + b.flushed)
    || decide (summaryTop < a.elements + b.elements)
    || (List.zip a.hist b.hist).any (fun p => decide (summaryTop < p.1 + p.2))
  { saturated := satAdd summaryTop a.saturated b.saturated
    flushed := satAdd summaryTop a.flushed b.flushed
    nflags := a.nflags ||| b.nflags ||| (if capped then 2 ^ 30 else 0)
    ofmt := a.ofmt
    scaleUsed := a.scaleUsed
    elements := satAdd summaryTop a.elements b.elements
    hist := List.zipWith (satAdd summaryTop) a.hist b.hist }

/-- The 544 bytes of a summary (R77). -/
def Summary.bytes (s : Summary) : List Byte :=
  leBytes 8 s.saturated ++ leBytes 8 s.flushed ++ leBytes 4 s.nflags ++ leBytes 1 s.ofmt ++ leBytes 1 s.scaleUsed
    ++ leBytes 2 0 ++ leBytes 8 s.elements ++ (s.hist.map (leBytes 8)).flatten

/-- A summary with PARTIAL set (R81). -/
def Summary.markPartial (s : Summary) : Summary := { s with nflags := s.nflags ||| 2 ^ 31 }

/-- The numeric control word's fields (R61). -/
structure NumCtl where
  scale : Nat
  scsrc : Nat
  subn : Bool
  rnd : Nat
  ofmt : Nat
  ifmtB : Nat
  ifmtA : Nat
  deriving DecidableEq, Repr

/-- The fields of a numeric control word (R61). -/
def numCtlOf (w : Nat) : NumCtl :=
  { scale := bits w 31 24, scsrc := bits w 23 22, subn := bit w 21, rnd := bits w 20 18
    ofmt := bits w 15 12, ifmtB := bits w 11 8, ifmtA := bits w 7 4 }

/-- Whether a numeric control word holds no value the format fields, RND, SCSRC or SCALE reject (R61 to R64). -/
def numCtlOk (w : Nat) : Bool :=
  let c := numCtlOf w
  c.scale != 0xFF && c.scsrc != 3 && decide (c.rnd ≤ 4) && decide (c.ofmt ≤ 5) && decide (c.ifmtB ≤ 5) && decide (c.ifmtA ≤ 5)

/-- The rounding direction a numeric control word holds. -/
def NumCtl.dir (c : NumCtl) : Rnd := (rndOfCode c.rnd).getD .rne

/-- One converted element: bits and the summary events of its writing (R69, R78). -/
structure Conv where
  bits : Nat
  sat : Bool
  flush : Bool
  flags : Nat
  deriving DecidableEq, Repr

/-- The written-value flags of NFLAGS for a non-block output: NANOUT and INFOUT (R78). -/
def writtenFlags (f : NumFmt) (b : Nat) : Nat :=
  match unpack f b with
  | .nan _ => 256
  | .inf _ => 128
  | .fin _ _ _ => 0

/-- One value converted to a format without blocks by rules E, L and S of R69; src is none where the value comes from arithmetic. -/
def convertElem (src : Option (NumFmt × Nat)) (dst : NumFmt) (rm : Rnd) (flush : Bool) (v : Val) : Conv :=
  let same := match src with
    | some (f, b) => if f = dst then some b else none
    | none => none
  match same with
  | some b => { bits := b, sat := false, flush := false, flags := if b = canonNan dst then 256 else writtenFlags dst b &&& 128 }
  | none =>
    let long := dst = .fp32 ∨ dst = .fp64
    let r := roundTo dst (if long then rm else .rne) flush v
    { bits := r.bits, sat := false, flush := r.flushed, flags := (if long then r.flags else 0) ||| writtenFlags dst r.bits }

/-- The block exponent of one block under SCSRC: FIXED takes SCALE, GOVERNED the governor's, PER_BLOCK its own; a NaN makes a NaN block (R57, R64, R66). -/
def blockExponent (f : NumFmt) (scsrc scale governed : Nat) (xs : List Val) : Nat :=
  if xs.any Val.isNan then 0xFF
  else if scsrc = 0 then scale
  else if scsrc = 1 then governed
  else chooseBlockExponent f xs

/-- The 2048-bit operand panel and stored words as element lists: elements of width w from a number, count of them (R48, R53). -/
def elems (w count n : Nat) : List Nat := (upTo count).map (fun i => n / 2 ^ (w * i) % 2 ^ w)

/-- Elements of width w packed in ascending order (R48). -/
def packElems (w : Nat) : List Nat → Nat
  | [] => 0
  | e :: es => e % 2 ^ w + 2 ^ w * packElems w es

/-- FP32 addition under roundTiesToEven with subnormals kept and no flags, as accumulators and merge adders add (R72). -/
def addFp32 (a b : Nat) : Nat :=
  (roundTo .fp32 .rne false (Val.add .rne (unpack .fp32 a) (unpack .fp32 b)).1).bits

/-- A stored value's 32-bit elements added in pairs. -/
def addFp32Lists (a b : List Nat) : List Nat := List.zipWith addFp32 a b

/-- The groups that a row of n elements occupies (R54). -/
def blockGroups (n : Nat) : Nat := ceilDiv n 256

end Sys2Proof.Machine
end

