-- ==== Sys2Proof/Machine/State.lean ====
section
/-! DEFINITION. Sys2Proof/Machine/State.lean: the state of the package as plain data, the faults and refusals, and the state after reset. -/

namespace Sys2Proof.Machine

/-- The state of a DRAM page (R230). -/
inductive PageState where
  | free
  | owned (job : Nat)
  | system
  | retired
  deriving DecidableEq, Repr

/-- A 2 MiB page of near or far DRAM (R230, R240, R453, R553). -/
structure Page where
  /-- Ownership (R230). -/
  st : PageState
  /-- The HOSTVIS bit of an OWNED page (R230). -/
  hostvis : Bool
  /-- The page has held an uncorrectable codeword (R240). -/
  uncorr : Bool
  /-- The page is being zeroed after it was freed (R453). -/
  zeroing : Bool
  /-- The dirty bit of a mirrored page (R553). -/
  dirty : Bool
  deriving DecidableEq, Repr

/-- A kettle with its last-signaller record (R348 to R350, R373). -/
structure Kettle where
  /-- The owning job, none when free (R349). -/
  owner : Option Nat
  /-- The value, 0 to 2^31 − 1 (R350). -/
  value : Nat
  /-- LAST_TIME (R373). -/
  lastTime : Nat
  /-- LAST_OP: 0x01, 0x04 or 0 (R373). -/
  lastOp : Nat
  /-- LAST_SRC (R373). -/
  lastSrc : Ep
  /-- LAST_ISSUER (R373). -/
  lastIssuer : Nat
  /-- LAST_FAULTED (R373). -/
  lastFaulted : Bool
  /-- The REL bit of the last signal, which the unit records (R352). -/
  lastRel : Bool
  deriving DecidableEq, Repr

/-- A registered wait (R355, R374). -/
structure Waiter where
  /-- Entry of the waiter table (R372). -/
  slot : Nat
  kettle : Nat
  /-- KIND: a WAIT_OBSERVE (R374). -/
  observe : Bool
  demand : Nat
  src : Ep
  issuer : Nat
  job : Nat
  /-- WARRIVAL, the operation number of the registration (R374). -/
  opnum : Nat
  /-- WTIME (R374). -/
  time : Nat
  deriving DecidableEq, Repr

/-- A die block's kettle unit (R348, R354, R355, R372). -/
structure KettleUnit where
  kettles : Tab Kettle
  /-- Registered waits in arrival order (R355). -/
  waiters : List Waiter
  /-- DBG_KT_OPNUM (R372). -/
  opnum : Nat
  /-- WITHDRAW requests that wait for the final replies of RELEASEs sent earlier (R368). -/
  withdrawing : List Msg
  deriving DecidableEq, Repr

/-- How an outstanding request stands at its source NI (R331, R335, R336). -/
inductive OutState where
  | queued
  | sent
  | refused (reason : Nat) (time : Nat)
  | held
  | withdrawing
  deriving DecidableEq, Repr

/-- A request with reserved reply room at its source NI (R331, R332, R335). -/
structure Outst where
  msg : Msg
  /-- Timestamp of the first attempt (R335). -/
  first : Nat
  /-- Timestamp of the first REGION_PARTED refusal (R335). -/
  partedSince : Option Nat
  st : OutState
  /-- The limit before MULL_TIMEOUT: 2 ms, or 50 ms for H0's HOST port (R335). -/
  limit : Nat
  /-- The order of issue at this NI, which tells what a release signal comes after (R45; the model's own). -/
  serial : Nat
  deriving DecidableEq, Repr

/-- How a buffered message stands at its destination NI (R333, R334, R336). -/
inductive RxStage where
  | partialMsg
  | waitOrder
  | delivered
  | held
  deriving DecidableEq, Repr

/-- A buffer for an arriving message (R333). -/
structure RxBuf where
  msg : Msg
  /-- INDEX values that have arrived (R320). -/
  have0 : Bool
  have1 : Bool
  /-- Packets of the message, 1 or 2 (R317). -/
  count : Nat
  /-- Timestamp of the first packet (R333). -/
  first : Nat
  stage : RxStage
  deriving DecidableEq, Repr

/-- A flow entry at a destination NI (R334). -/
structure Flow where
  src : Ep
  issuer : Nat
  dst : Ep
  last : Nat
  /-- Timestamp of the last application. -/
  time : Nat
  deriving DecidableEq, Repr

/-- The sequence number a source NI gives a flow's next message (R334). -/
structure TxFlow where
  src : Ep
  issuer : Nat
  dst : Ep
  next : Nat
  deriving DecidableEq, Repr

/-- A packet on the mull fabric: its message, its INDEX, and the router input port and VC that hold it (R313, R314, R317). -/
structure Packet where
  msg : Msg
  index : Nat
  count : Nat
  /-- Data flits of this packet. -/
  len : Nat
  die : Nat
  site : Nat
  port : Nat
  vc : Nat
  /-- The exit edge fixed on entering the die (R327). -/
  exit : Option Nat
  /-- Bit flips of the packet's header codeword and of its data codewords, found at the next decode (R339). -/
  headerFlip : Nat
  dataFlips : List Nat
  deriving DecidableEq, Repr

/-- A network interface (R332 to R336). -/
structure Ni where
  out : List Outst
  nextId : Nat
  /-- Requests issued so far (the model's own). -/
  issued : Nat
  rx : List RxBuf
  flows : List Flow
  txFlows : List TxFlow
  /-- Packets that have reached the LOCAL port and wait for ejection (R333). -/
  eject : List Packet
  /-- Replies that have arrived and wait for REPLY_RECEIVED or HELD. -/
  replies : List Msg
  deriving DecidableEq, Repr

/-- One port's occupancy telemetry (R342, R343): the running window, the last complete one, the 1 ms accumulator and FULL. -/
structure PortTel where
  wstart : Nat
  hist : List Nat
  acc : List Nat
  full : Bool
  deriving DecidableEq, Repr

/-- The fabric: NIs, packets, routes as last written, and telemetry (R313 to R347). -/
structure Net where
  /-- NIs by site key. -/
  nis : Tab Ni
  packets : List Packet
  /-- Hole sites, as they are (R28, R328). -/
  holes : List Nat
  /-- Hole sites known to the route tables as last written (R325, R328). -/
  tableHoles : List Nat
  /-- Dies fenced in the route tables as last written (R328, R347). -/
  tableFenced : List Nat
  /-- Edge lane groups lost, keyed die × 32 + 6 × edge + group (R304). -/
  lostGroups : List Nat
  /-- Lane groups lost in the route tables as last written (R328). -/
  tableLostGroups : List Nat
  /-- Timestamp of the oldest change not yet in the route tables (R328). -/
  rewriteDue : Option Nat
  /-- Port telemetry, keyed site key × 16 + port (R342). -/
  tel : Tab PortTel
  /-- Accumulators that arrived at the fabric manager in this period, same keys (R343). -/
  mapIn : Tab PortTel
  /-- MAP_SEQ of the next map with its sticky WRAP (R344). -/
  mapSeq : Nat
  mapWrap : Bool
  /-- Start of the next period whose map is to be written (R344). -/
  mapPeriod : Nat
  /-- The map ring: host address and number of buffers, none when none is set up (R344). -/
  mapRing : Option (Nat × Nat)
  /-- The input that last won each output of a router, keyed by the output (R314). -/
  turns : Tab Nat
  deriving DecidableEq, Repr

/-- A die block's waiting events (R586). -/
structure DieEvents where
  waiting : List Ev
  /-- Events dropped and not yet reported. -/
  dropped : Nat
  deriving DecidableEq, Repr

/-- The count of further CORRECTED events of one key in a period (R540). -/
structure Coalesce where
  code : Nat
  die : Nat
  ukind : Nat
  index : Nat
  /-- Start of the period. -/
  period : Nat
  count : Nat
  last : Ev
  deriving DecidableEq, Repr

/-- H0's event handling (R482, R537 to R540, R563, R564). -/
structure Events where
  dies : Tab DieEvents
  /-- NUMBER of the next record and NWRAP (R538). -/
  number : Nat
  nwrap : Bool
  /-- Records held while the ring has no room or the link is down, 32 bytes each (R482). -/
  held : List (List Byte)
  /-- HST_EVT_LOST with its WRAP in bit 63 (R482, R549). -/
  lost : Nat
  coalesce : List Coalesce
  /-- FATAL and FIRST_FATAL of DBG_PKG_STATUS (R563). -/
  fatal : Bool
  firstFatal : Nat
  /-- The fault signal FAULT_N is asserted (R536). -/
  faultN : Bool
  /-- Uncorrectable-class events of each site with the time of the last, for the second within 24 h (R544). -/
  siteFaults : Tab Nat
  deriving DecidableEq, Repr

/-- One range-table entry (R181). -/
structure SpRange where
  kind : Nat
  readers : Nat
  init : Nat
  base : Nat
  count : Nat
  deriving DecidableEq, Repr

/-- A quire (R192 to R194). -/
structure Quire where
  en : Bool
  range : Nat
  swapKettle : Nat
  base : Nat
  leafSlots : Nat
  sig : Bool
  rel : Bool
  gen : Nat
  genWrap : Bool
  /-- The write leaf, 0 or 1. -/
  wleaf : Nat
  /-- The pending LEAF_SWAP with WAIT (R194). -/
  pending : Option Msg
  full0 : Nat
  full1 : Nat
  deriving DecidableEq, Repr

/-- A grain access channel: its 64-byte descriptor and its position (R187, R191, R209). -/
structure Chan where
  desc : BitVec 512
  /-- Words of the current run delivered or written. -/
  pos : Nat
  runsLeft : Nat
  /-- The leaf base resolved at the run's first access (R195). -/
  leafBase : Option Nat
  /-- Reorder buffer of a read channel: word position and word (R178). -/
  rob : Tab Word
  /-- Words that wait for the circuit (read) or for their slot (write). -/
  fifo : List Word
  done : Bool
  faulted : Bool
  deriving DecidableEq, Repr

/-- An open gather entry (R202). -/
structure GatherEntry where
  slot : Nat
  bytes : Word
  mask : Nat
  counted : Bool
  tagMode : Nat
  /-- A RAW entry that is to be written back, by an eviction or a GATHER_FLUSH (R202, R203). -/
  writeBack : Bool
  deriving DecidableEq, Repr

/-- An S-tile command in progress (R198, R199, R208). -/
structure SpCmd where
  msg : Msg
  /-- Slots or words done. -/
  next : Nat
  /-- Words read so far. -/
  got : List Word
  /-- Timestamp at which a narrow write began to wait for an entry (R202). -/
  since : Nat
  /-- HELD has been sent (R336). -/
  heldSent : Bool
  deriving DecidableEq, Repr

/-- An access that waits for its bank: order of arrival and consecutive refusals (R177). -/
structure SpWait where
  since : Nat
  refused : Nat
  deriving DecidableEq, Repr

/-- An S-tile, plain or DP, apart from its data (R173 to R209). -/
structure STile where
  ranges : List SpRange
  /-- Tags of TAGGED slots by slot, 0 when unlisted (R182). -/
  tags : Tab Nat
  quires : Tab Quire
  chans : Tab Chan
  /-- Narrow-gather mode (R200). -/
  gatherMode : Bool
  gather : List GatherEntry
  cmds : List SpCmd
  waits : Tab SpWait
  /-- Order stamp of the next access that begins to wait. -/
  stamp : Nat
  /-- The bank row that the patrol scrub reads next, by bank (R206). -/
  patrol : Tab Nat
  deriving DecidableEq, Repr

/-- The bounds of a region (R34, R403, R404). -/
inductive Bounds where
  | columns (die c0 c1 : Nat)
  | dies (x0 y0 x1 y1 : Nat)
  deriving DecidableEq, Repr

/-- The states of an allocated region (R407). -/
inductive RState where
  | blank | running | parted | suspended | faulted
  deriving DecidableEq, Repr

/-- A signature's records, decoded (R411, R414). -/
structure Sig where
  region : Nat
  bounds : Bounds
  /-- FRAME records: die or 0x7F, column, frame index, 1 KiB. -/
  frames : List (Nat × Nat × Nat × BitVec 8192)
  /-- RANK records flattened: rank and 64-bit entry. -/
  ranks : List (Nat × Nat)
  /-- KETTLE_INIT records: kettle rank and value. -/
  kettleInit : List (Nat × Nat)
  /-- CLOCK_GATE records: die or 0x7F, column, row mask. -/
  gates : List (Nat × Nat × Nat)
  mflags : Nat
  seqDie : Nat
  timedBound : Nat
  /-- CORE_ASSIGN records: die or 0x7F, core mask. -/
  assigns : List (Nat × Nat)
  /-- CORE_PROGRAM records: die or 0x7F, core, descriptor. -/
  programs : List (Nat × Nat × BitVec 1024)
  /-- CMEM records: die or 0x7F, address, words. -/
  cmem : List (Nat × Nat × List Word)
  /-- The spine's DIGEST of the signature's bytes (R409). -/
  digest : List Byte
  /-- IMAGE_VERSION of the image that brought it (R410, R531). -/
  version : Nat
  /-- SHA-512 of that image's spine (R531, R552). -/
  spine : List Byte
  deriving DecidableEq, Repr

/-- An open timed run (R461). -/
structure TimedRun where
  k : Nat
  start : Nat
  thermal : Bool
  missed : Bool
  deriving DecidableEq, Repr

/-- A timed region's configuration and runs (R460 to R462). -/
structure Timed where
  startKettle : Nat
  doneKettle : Nat
  slots : Nat
  reportAddr : Nat
  next : Nat
  runs : List TimedRun
  deriving DecidableEq, Repr

/-- The thermal states of a near stack (R217). -/
inductive NearState where
  | normal | double | throttle | hold
  deriving DecidableEq, Repr

/-- The states of a far channel (R223, R243). -/
inductive FarState where
  | absent | training | good | trainFailed | unsupported | lost
  deriving DecidableEq, Repr

/-- A far channel of a hub (R223, R243). -/
structure FarCh where
  st : FarState
  vendor : Nat
  refreshRate : Nat
  deriving DecidableEq, Repr

/-- A logic die: its fencing, its near stack or far channels, and its thermal and power state (R210 to R224, R544, R578 to R581). -/
structure Die where
  /-- The die is fenced (R2, R544). -/
  fenced : Bool
  /-- DSTATE (R519). -/
  dstate : Nat
  /-- Sites whose tile is fenced (R28, R544). -/
  fencedSites : List Nat
  /-- The list good_channel, fixed at start (R212). -/
  goodCh : List Nat
  /-- Near channels lost in service (R216). -/
  lostCh : List Nat
  nearState : NearState
  /-- Timestamp at which HOLD was entered (R218). -/
  holdSince : Option Nat
  /-- Last readings of layers 0 to 3 (R217, R242). -/
  nearTemps : List Nat
  /-- Spare rows in use by channel (R219, R241). -/
  spares : Tab Nat
  far : Tab FarCh
  /-- The cause of a loss that H0 has not yet detected: 1 block, 2 clock, 3 rail, 4 trip (R586). -/
  dead : Option Nat
  /-- TSTATE: 0 NORMAL, 1 THROTTLE, 2 TRIPPED (R578). -/
  tstate : Nat
  /-- Latest junction readings (R578). -/
  tj : List Nat
  /-- Caps THERMAL and DIE_POWER (R579). -/
  capThermal : Nat
  capPower : Nat
  /-- PCAP as the die has received it (R580). -/
  capPackage : Nat
  /-- The issue level in force, the one of the last sample, and that sample's timestamp (R579). -/
  level : Nat
  levelNext : Nat
  levelAt : Nat
  /-- Control cores that failed their test or that a fence record names (R517). -/
  badCores : List Nat
  deriving DecidableEq, Repr

/-- The states of a task context (R104). -/
inductive CtxState where
  | off | waiting | ready | running | blocked | done | faulted
  deriving DecidableEq, Repr

/-- Where a context's kettle wait stands (R104, R353, R358). -/
inductive WaitPhase where
  | none | sent | registered | released
  deriving DecidableEq, Repr

/-- The position of an MMA sweep (R126). -/
structure Sweep where
  mb : Nat
  kb : Nat
  nb : Nat
  step : Nat
  deriving DecidableEq, Repr

/-- An M-tile task context (R104, R109, R121). -/
structure MCtx where
  desc : BitVec 512
  /-- The ring of a STATIC context. -/
  ring : List (BitVec 512)
  /-- The queue of an ISSUED context, at most 16. -/
  queue : List (BitVec 512)
  pos : Nat
  repeatsLeft : Nat
  st : CtxState
  wait : WaitPhase
  /-- Timestamp from which WAITED counts (R106, R130). -/
  waitedFrom : Nat
  /-- Words at the A port; a beat's words stay until its credits are returned (R87; log entry 93). -/
  aQueue : List Word
  /-- The sidecar beat held for the current group; its words still fill places of the A queue (R87; log entry 93). -/
  side : List Word
  sweep : Option Sweep
  /-- The panel word read on the first step of a beat for an output block, with its exponent word, held for the other three (R110). -/
  panel : BitVec 4096
  exps : Word
  /-- MMAs whose steps have all issued and whose completion is due, with the kettle of their tag (R100, R123). -/
  finished : List (BitVec 512 × Option Nat)
  /-- Words of the W circuit that the load engine holds for this context (R85, R286). -/
  wQueue : List Word
  /-- Words of the ACC circuit at the ACC port (R85, R101). -/
  accQueue : List Word
  deriving DecidableEq, Repr

/-- The states of a weight segment (R90). -/
inductive SegState where
  | empty | loading | ready | regen
  deriving DecidableEq, Repr

/-- The states of an accumulator block (R95). -/
inductive AccState where
  | accum
  | tagged (tag kettle : Nat)
  | draining
  deriving DecidableEq, Repr

/-- A WLOAD in the load engine: context, descriptor, words written (R93). -/
structure WJob where
  ctx : Nat
  desc : BitVec 512
  words : Nat
  deriving DecidableEq, Repr

/-- A DRAIN in the drain engine: context, descriptor, blocks converted, words credited, its summary (R98, R109). -/
structure DJob where
  ctx : Nat
  desc : BitVec 512
  blocks : Nat
  credited : Nat
  sum : Summary
  deriving DecidableEq, Repr

/-- An audit pair: row and column segment, of 16-bit elements or not (R117). -/
structure AuditPair where
  row : Nat
  col : Nat
  audited : Bool
  deriving DecidableEq, Repr

/-- An M-tile (R83 to R130). -/
structure MTile where
  site : Word
  ctxs : List MCtx
  running : Option Nat
  /-- Consecutive cycles in which the running context could not issue (R106). -/
  notReady : Nat
  /-- The context chosen at the second of them: the next cycle is the switch cycle (R106). -/
  switchTo : Option Nat
  row : Tab (BitVec 4096)
  col : Tab (BitVec 4096)
  rowExp : Tab Word
  colExp : Tab Word
  segRow : Tab SegState
  segCol : Tab SegState
  pairs : List AuditPair
  acc : Tab (BitVec 4096)
  accSt : Tab AccState
  loadQ : List WJob
  drainQ : List DJob
  /-- Words of the head drain at the D port (R85, R98). -/
  dOut : List Word
  /-- Flipped bits of stored codewords: weight copy × 4096 + panel × 16 + row, 8192 + block × 16 + word for accumulators, and 16384 + copy × 256 + panel for exponent words (R88, R120). -/
  flips : Tab Nat
  /-- Timestamp of the next audit pass (R118). -/
  auditAt : Nat
  /-- Segments under rebuild with their primary: column and row segment (R119). -/
  regen : List (Nat × Nat)
  /-- MAC counted below one unit of 2^24: BF16 and FP16, HB8, HB4 (R582). -/
  mac : List Nat
  deriving DecidableEq, Repr

/-- An input port of a V-tile context: queued words, element codes left of the word being used, and the sidecar word of its group (R53, R133, R135). -/
structure VPort where
  queue : List Word
  left : List Nat
  side : Word
  /-- Padding words of a group's end that are still to be taken and dropped (R54). -/
  skip : Nat
  deriving DecidableEq, Repr

/-- One output of a VOP: chain values or codes waiting for a whole word or group, its summary, and its words presented and credited (R135, R153 to R155). -/
structure VOut where
  part : List Nat
  /-- Elements of the row presented so far. -/
  pos : Nat
  sum : Summary
  words : Nat
  credited : Nat
  /-- The block exponent under GOVERNED, once known (R159). -/
  b : Option Nat
  deriving DecidableEq, Repr

/-- A VOP or TOUT that has issued and is not complete (R155, R164). -/
structure VTask where
  serial : Nat
  desc : BitVec 512
  /-- Row and vector that issue next. -/
  row : Nat
  vec : Nat
  /-- Every vector has issued. -/
  issued : Bool
  /-- Vectors still in the chain. -/
  inChain : Nat
  /-- Broadcast operand by port: PER_ROW and PER_TENSOR element bits, ROW_REUSE row (R137). -/
  held : Tab (List Nat)
  out : List VOut
  /-- IEEE flags raised by the stages and reductions (R155). -/
  flags : Nat
  /-- Results that its stages and reductions flushed (R65; log entry 102). -/
  flushed : Nat
  /-- Index among the governed VOPs of each output's pair (R159). -/
  gov : List Nat
  deriving DecidableEq, Repr

/-- A vector held in the chain by an FCALL stage (R150, R152). -/
structure VVec where
  ctx : Nat
  serial : Nat
  row : Nat
  vec : Nat
  /-- Active lanes. -/
  lanes : Nat
  ins : List (List Nat)
  /-- The tile register as latched at issue (R144). -/
  t : BitVec 8192
  results : List (List Nat)
  /-- Its FCALL requests have been sent. -/
  sent : Bool
  deriving DecidableEq, Repr

/-- A row's reduced lanes that wait for the lane tree and POST (R146, R147, R149). -/
structure RowRed where
  serial : Nat
  stage : Word
  elem : Nat
  rnd : Nat
  flush : Bool
  lanes : List (Option Nat)
  deriving DecidableEq, Repr

/-- A V-tile task context (R144, R145, R160, R163). -/
structure VCtx where
  desc : BitVec 512
  ring : List (BitVec 512)
  queue : List (BitVec 512)
  pos : Nat
  repeatsLeft : Nat
  st : CtxState
  wait : WaitPhase
  waitedFrom : Nat
  ports : List VPort
  /-- T: element (r, j) in bits 32(32r + j) up (R144). -/
  treg : BitVec 8192
  /-- Pending elements of T, 32r + j, once per pending write (R149). -/
  pend : List Nat
  /-- Reduction accumulators by stage number (R145). -/
  acc : Tab (List (Option Nat))
  rows : List RowRed
  tasks : List VTask
  serial : Nat
  deriving DecidableEq, Repr

/-- A word in an output buffer: port, context, task, word (R133). -/
structure VWord where
  port : Nat
  ctx : Nat
  serial : Nat
  word : Word
  deriving DecidableEq, Repr

/-- A collector entry's progress (R156, R158, R169). -/
structure Collector where
  count : Nat
  sum : Summary
  step : Nat
  wrap : Bool
  slot : Nat
  bLast : Option Nat
  deriving DecidableEq, Repr

/-- A governed pair that a V-tile tracks: governed VOPs issued, updates arrived, and the latest block exponent (R159). -/
structure GovPair where
  rank : Nat
  tag : Nat
  vops : Nat
  got : Nat
  b : Nat
  deriving DecidableEq, Repr

/-- A V-tile (R131 to R164). -/
structure VTile where
  /-- The site descriptor of 288 bytes (R163). -/
  site : BitVec 2304
  /-- Chain table: the 9 words of each chain (R138). -/
  chains : Tab (List Word)
  ctxs : List VCtx
  running : Option Nat
  notReady : Nat
  /-- The context chosen at the second not-ready cycle: the next cycle is the switch cycle (R106, R160). -/
  switchTo : Option Nat
  outBuf : List VWord
  /-- Words of each output buffer that are reserved or filled (R134). -/
  outRes : List Nat
  chain : List VVec
  fReq0 : List Word
  fReq1 : List Word
  fRet0 : List Word
  fRet1 : List Word
  coll : List Collector
  pairs : List GovPair
  deriving DecidableEq, Repr

/-- A link of an F-tile (R167, R168, R171). -/
structure FLink where
  desc : Word
  inQ : List Word
  outQ : List Word
  runsLeft : Nat
  /-- Elements of the current run done. -/
  pos : Nat
  left : List Nat
  side : Word
  part : List Nat
  skip : Nat
  /-- Words of the run presented and credited. -/
  words : Nat
  credited : Nat
  /-- LFLAGS_STICKY (R171). -/
  flags : Nat
  done : Bool
  faulted : Bool
  deriving DecidableEq, Repr

/-- An F-tile (R165 to R172). -/
structure FTile where
  links : List FLink
  /-- The link that was served last (R167). -/
  last : Nat
  deriving DecidableEq, Repr

/-- An endpoint entry of a grain switch (R299). -/
structure GrainEp where
  circuit : Nat
  /-- EKIND: 1 source, 2 sink. -/
  kind : Nat
  border : Bool
  stopped : Bool
  job : Nat
  rate : Nat
  capacity : Nat
  tport : Nat
  ctx : Nat
  /-- Credits held (source) or free places (sink). -/
  credits : Nat
  /-- Freed places whose credit has not been sent (R286). -/
  owed : Nat
  deriving DecidableEq, Repr

/-- A word on its way: its circuit, its job and the bits of its codeword flipped so far (R277, R307). -/
structure GrainWord where
  word : Word
  circuit : Nat
  job : Nat
  flip : Nat
  deriving DecidableEq, Repr

/-- An open sum of a merge adder: word index, inputs added, the sum (R295, R296). -/
structure MergeSum where
  index : Nat
  inputs : List Nat
  word : Word
  deriving DecidableEq, Repr

/-- A switch element (R289 to R298). -/
structure GrainEl where
  desc : BitVec 128
  /-- Input queues: fork 0; join 0, 1; steering D0, D1, T; merge 0 to 3. -/
  q : List (List Word)
  /-- Words ready at output or branch 0 and 1, with the input whose place each still holds. -/
  out0 : List (Word × Nat)
  out1 : List (Word × Nat)
  /-- Credits of the circuits of output 0 and 1. -/
  cred0 : Nat
  cred1 : Nat
  /-- Freed places whose credit has not been sent, by input. -/
  owed : List Nat
  /-- Steering: the token in use and its REPEAT left (R293, R294). -/
  token : Option (Nat × Nat)
  /-- Merge: words each input has contributed, and open sums (R295). -/
  taken : List Nat
  sums : List MergeSum
  /-- Merge: arrivals whose words are not yet added, in order of arrival: timestamp, slot, input (R295; log entry 109). -/
  arrivals : List (Nat × Nat × Nat)
  /-- Timestamp since which one port is full and the other empty (R292). -/
  skewSince : Option Nat
  faulted : Bool
  deriving DecidableEq, Repr

/-- A site's grain switch, and at an X-tile its edge link's lane group (R277 to R312). -/
structure GrainSite where
  /-- Slot-table entries by table × 16 + slot (R281, R282). -/
  slots : Tab Nat
  eps : Tab GrainEp
  els : Tab GrainEl
  /-- Words received on an input lane and not yet driven on, by (side × 8 + lane) × 16 + slot of arrival. -/
  links : Tab GrainWord
  /-- Credits that have come back on the sideband of an output lane and are not yet passed on, by table × 16 + slot of the word (R277, R285). -/
  backs : Tab Nat
  /-- Outbound and inbound edge slot tables (R302). -/
  xout : Tab Nat
  xin : Tab Nat
  /-- Words waiting for their outbound edge slot, and the edge-in buffer (R303). -/
  edgeOut : List GrainWord
  edgeIn : List GrainWord
  /-- Replays failed in a row (R304). -/
  fails : Nat
  deriving DecidableEq, Repr

/-- How a stream stands (R252, R265, R268 to R271). -/
inductive StPhase where
  /-- It waits on START_KETTLE before its pass. -/
  | trigger (p : WaitPhase)
  | running
  /-- It has stopped and settles its requests: RESULT, CAUSE, REFUSAL, faulting word, address, and timestamp of its fault. -/
  | ending (result cause refusal index addr time : Nat)
  /-- Its completion record is on its way; whether DONE_KETTLE follows, and the cause, address and timestamp of its own fault (R265, R268). -/
  | recording (signal : Bool) (fault : Option (Nat × Nat × Nat))
  /-- It has faulted and its record is written: the cause, address and timestamp wait for the task's event (R268 step 5). -/
  | faulted (cause addr time : Nat)
  deriving DecidableEq, Repr

/-- A request of a stream that has no final reply: its MSG_ID, its first word and its words; a request for both words of a host line may hold them in the reverse of stream order (R255, R261, R271). -/
structure StOut where
  id : Nat
  first : Nat
  count : Nat
  rev : Bool
  deriving DecidableEq, Repr

/-- A stream, queued or active (R245 to R272). -/
structure Strm where
  desc : BitVec 1280
  job : Nat
  /-- The issuer that enqueued it, none for a static stream (R247). -/
  owner : Option (Ep × Nat)
  /-- The order of issue of the request that enqueued it at its owner's NI (R45; the model's own). -/
  serial : Nat
  phase : StPhase
  passesDone : Nat
  /-- Next word to request (LOAD) or to read locally (STORE). -/
  issued : Nat
  /-- w of R261 for a LOAD, a for a STORE. -/
  pos : Nat
  /-- Staged words by index: a LOAD's that wait for their local write, a STORE's that wait for their remote write (R245, R261). -/
  staged : Tab Word
  /-- STORE words done beyond pos. -/
  done : List Nat
  outst : List StOut
  /-- Words an X-tile LOAD has put on its circuit and those credited. -/
  credited : Nat
  /-- Base of the leaf of the fill in progress, and the GEN seen at the last fill's first access (R258). -/
  leaf : Option Nat
  genSeen : Option Nat
  deriving DecidableEq, Repr

/-- What an engine receives: a final reply to one of its streams' requests. -/
structure StReply where
  id : Nat
  /-- TYPE and STATUS of the reply. -/
  typ : Nat
  status : Nat
  scode : Bool
  data : List Word
  /-- The position, within the request, of the word an error concerns (R266). -/
  word : Nat
  deriving DecidableEq, Repr

/-- A stream engine (R244 to R276). -/
structure Engine where
  queue : List Strm
  /-- Active slots 0 to 7. -/
  slots : Tab Strm
  inbox : List StReply
  /-- The slots last served on the remote and on the local side, from which the round-robin order goes on (R247). -/
  remoteTurn : Nat
  localTurn : Nat
  /-- X-tile: words taken from circuits, with the circuit number (R260). -/
  xIn : List (Nat × Word)
  /-- Requests that were held and have been withdrawn, to be sent again at scan-in (R271, R272). -/
  relist : List Msg
  deriving DecidableEq, Repr

/-- The states of a control core (R402). -/
inductive CoreState where
  | off | monitor | running | done | faulted | halted
  deriving DecidableEq, Repr

/-- What a stalled core waits for (R383, R391, R395, R396): the request's MSG_ID and the destination register. -/
inductive CoreWait where
  | none
  | kettle (id rd : Nat) (registered : Bool)
  | issue (id rd : Nat)
  /-- XSPCMD with a data reply: the data area's address. -/
  | data (id rd area : Nat)
  | cancel (rd task : Nat)
  | load (id rd addr size : Nat) (signed fp : Bool)
  | fence (streams mull host : Bool)
  /-- XKSIG.REL held: kettle rank and n. -/
  | hold (rank n : Nat)
  deriving DecidableEq, Repr

/-- A control core (R375 to R402). -/
structure Core where
  st : CoreState
  /-- M mode. -/
  mmode : Bool
  pc : BitVec 64
  /-- DBG_CC_PCn: the pc of the last retired instruction (R402). -/
  lastPc : BitVec 64
  x : List (BitVec 64)
  f : List (BitVec 64)
  /-- CSRs by address (R375, R384, R388). -/
  csrs : Tab Nat
  pmpcfg : List Nat
  pmpaddr : List Nat
  instret : Nat
  /-- What mcycle reads beyond the M-clock count since the package timestamp's start (R384). -/
  cycleOff : Nat
  /-- LR reservation: the 64-byte line (R379). -/
  resv : Option Nat
  wait : CoreWait
  /-- Bytes of the instruction that stalls the core. -/
  len : Nat
  /-- Timestamp from which the core stalls, for TEL_CC_XSTALL (R402). -/
  stallFrom : Nat
  mtimecmp : Nat
  msip : Bool
  /-- The headstock's halt request or notice (R389, R400). -/
  meip : Bool
  xenhid : Nat
  /-- DBG_CC_CAUSEn and DBG_CC_TVALn (R402). -/
  cause : BitVec 64
  tval : BitVec 64
  /-- Posted operations withdrawn at a halt, to be sent again (R400). -/
  relist : List Msg
  deriving DecidableEq, Repr

/-- For what H0 reads host memory (R255, R417, R485, R488, R557). -/
inductive ReadFor where
  /-- A MEM_READ that reached H0's HOST port. -/
  | msg (m : Msg)
  /-- A word of the image of the load in progress, at this byte offset. -/
  | image (off : Nat)
  /-- The submission entry of a queue with this ring index. -/
  | entry (q idx : Nat)
  /-- The parameter block of a command. -/
  | param (q seq : Nat)
  /-- The consumed word of an active's mirror (R555). -/
  | consumed
  /-- A firmware body. -/
  | firmware
  deriving DecidableEq, Repr

/-- A read of host memory outstanding at H0 (R255). -/
structure HostRead where
  id : Nat
  addr : Nat
  bytes : Nat
  use : ReadFor
  /-- Time counted toward the 50 ms while the link is up (R264). -/
  since : Nat
  deriving DecidableEq, Repr

/-- For what H0 writes host memory. -/
inductive WriteFor where
  /-- A MEM_WRITE that reached H0's HOST port. -/
  | msg (m : Msg)
  /-- A record write of a queue's command (R273, R488). -/
  | command (q seq : Nat)
  /-- A completion entry of a queue (R490). -/
  | cqEntry (q : Nat)
  /-- Event records of the ring, as many as given (R482). -/
  | evtEntry (count : Nat)
  /-- A congestion map (R344). -/
  | map
  /-- Report and other writes of the headstock. -/
  | headstock
  /-- A sub-write of a mirror record, and the shadow's consumed word (R555, R557). -/
  | mirror
  | consumed
  /-- A part of a job's capture; the header is the last (R457). -/
  | capture (job : Nat) (last : Bool)
  deriving DecidableEq, Repr

/-- A write of host memory whose GO has not arrived (R255). -/
structure HostWrite where
  id : Nat
  addr : Nat
  bytes : List Byte
  use : WriteFor
  since : Nat
  deriving DecidableEq, Repr

/-- H0's CXL.cache traffic (R255, R273). -/
structure HostPort where
  reads : List HostRead
  writes : List HostWrite
  nextId : Nat
  deriving DecidableEq, Repr

/-- What the package gives the outside. -/
inductive PkgOut where
  /-- An MSI-X message of a vector (R478). -/
  | msix (vector : Nat)
  /-- The answer to a host read of an HDM line: its bytes, or poison (R234). -/
  | hdm (addr : Nat) (data : Option (List Byte))
  /-- RspIHitI to a snoop (R475). -/
  | snoop (addr : Nat)
  /-- A back-invalidate snoop of a line (R233). -/
  | backInvalidate (addr : Nat)
  /-- A register read's value: BAR0 or BAR2 offset, or a management read (R479, R568). -/
  | reg (off : Nat) (value : Nat)
  /-- An SPDM response: its code and bytes (R531). -/
  | spdm (code : Nat) (data : List Byte)
  deriving DecidableEq, Repr

/-- A completion entry: a reply or a notice (R490, R492). -/
structure HEntry where
  notice : Bool
  seq : Nat
  status : Nat
  opcode : Nat
  job : Nat
  detail : Nat
  result : Nat
  time : Nat
  /-- Its vector is raised once it is visible. -/
  irq : Bool
  replayed : Bool
  /-- The entry answers REPLIES_EXPIRED in a replay and takes no notice number (R491). -/
  unnumbered : Bool
  deriving DecidableEq, Repr

/-- How far an accepted command has come (R488, R489). -/
inductive CmdStage where
  | accepted
  /-- Its parameter block is being read. -/
  | reading
  | ready
  /-- Its FENCE has completed (R489). -/
  | fenced
  | started
  /-- It waits for a release, a reply or the end of its work. -/
  | working
  | replied
  deriving DecidableEq, Repr

/-- An accepted command whose reply is not yet visible (R486 to R490). -/
structure HCmd where
  seq : Nat
  raw : BitVec 512
  params : List Byte
  stage : CmdStage
  reply : Option HEntry
  /-- MSG_ID of the mull request that it waits for (R493, R498). -/
  msg : Option Nat
  deriving DecidableEq, Repr

/-- A host queue (R483 to R492, R500). -/
structure HQueue where
  sqBase : Nat
  cqBase : Nat
  sqLog2 : Nat
  cqLog2 : Nat
  vector : Nat
  enable : Bool
  dups : Nat
  rdErr : Bool
  cfgErr : Bool
  dbErr : Bool
  seqErr : Bool
  /-- QSTATE but for WAIT and CQ_FULL, which follow from the rest: 0, 1, 4, 5, 6 or 7 (R483). -/
  qstate : Nat
  lastAccepted : Nat
  lastReplied : Nat
  lastNotice : Nat
  /-- Number of the next notice (R492). -/
  nextNotice : Nat
  sqHead : Nat
  sqTail : Nat
  cqHead : Nat
  cqTail : Nat
  phase : Bool
  /-- An armed replay: NOTICE_FROM and REPLY_FROM (R491). -/
  replay : Option (Nat × Nat)
  /-- A read of the entry at SQ_HEAD is outstanding. -/
  reading : Bool
  /-- The entry read and not yet treated, none within standing for poison or an error (R486). -/
  entry : Option (Option (BitVec 512))
  cmds : List HCmd
  /-- Entries made and not yet written, in the order they are to become visible. -/
  held : List HEntry
  /-- Entries whose write has no GO yet. -/
  writing : List HEntry
  /-- Retained replies and notices in the order they became visible (R491). -/
  kept : List HEntry
  /-- KTL_ERR: status of the last dropped write, and dropped writes (R500). -/
  ktlStatus : Nat
  ktlDropped : Nat
  deriving DecidableEq, Repr

/-- The CXL link and the detach grace period (R473, R481, R502 to R505). -/
structure Link where
  up : Bool
  width : Nat
  rate : Nat
  attaches : Nat
  downTime : Nat
  upTime : Nat
  /-- HST_GRACE.SECONDS. -/
  grace : Nat
  graceExpired : Bool
  /-- The grace period of the last loss still runs. -/
  graceRuns : Bool
  deriving DecidableEq, Repr

/-- An HDM decoder: base, committed, commit error (R233, R476). -/
structure HdmDecoder where
  base : Nat
  committed : Bool
  error : Bool
  deriving DecidableEq, Repr

/-- The event ring's registers (R481, R482). -/
structure EvtRing where
  base : Nat
  enable : Bool
  vector : Nat
  log2 : Nat
  tail : Nat
  head : Nat
  deriving DecidableEq, Repr

/-- A registered model (R468). -/
structure Model where
  source : Nat
  bytes : Nat
  pin : Bool
  deriving DecidableEq, Repr

/-- The state of a model slot (R469). -/
inductive SlotState where
  | empty
  | fetching (handle : Nat)
  | resident (handle : Nat)
  deriving DecidableEq, Repr

/-- A model slot (R469). -/
structure ModelSlot where
  st : SlotState
  lastUse : Nat
  deriving DecidableEq, Repr

/-- A model fetch in progress: handle, slot and step (R469). -/
structure Fetch where
  handle : Nat
  slot : Nat
  step : Nat
  deriving DecidableEq, Repr

/-- A sequence-table unit (R398, R463 to R471). -/
structure SeqUnit where
  /-- The serving region, 0 when none. -/
  region : Nat
  /-- Bytes of SERVING_CONFIG's block, none when no configuration stands. -/
  cfg : Option (BitVec 512)
  /-- Active entries by index, 64 bytes each (R464). -/
  table : Tab (BitVec 512)
  /-- Indices retired since the start of the latest build, not yet reusable (R464). -/
  retired : List Nat
  /-- The step number of the next build (R465). -/
  step : Nat
  /-- The unit's wait on BUILD_KETTLE is outstanding, and whether it has been released (R465). -/
  waiting : Bool
  released : Bool
  models : Tab Model
  slots : Tab ModelSlot
  fetch : Option Fetch
  /-- Handles whose fetch MODEL_PIN asked for at the next build (R470). -/
  pinFetch : List Nat
  deriving DecidableEq, Repr

/-- What scan-out captures of a region (R109, R162, R208, R272, R310, R400, R447), keyed by site key, core key or die. -/
structure Scan where
  sTiles : Tab STile
  mTiles : Tab MTile
  vTiles : Tab VTile
  fTiles : Tab FTile
  grain : Tab GrainSite
  engines : Tab Engine
  cores : Tab Core
  seq : Tab SeqUnit
  /-- Scratchpad and cluster-memory bytes of the region. -/
  cells : List Host.Cell
  /-- Requests of host reads dropped and of host writes listed at scan-out (R272). -/
  reads : List Msg
  writes : List Msg
  /-- COMPLETE of every scan header (R447). -/
  complete : Bool
  deriving DecidableEq, Repr

/-- An allocated region (R403, R407, R442, R446). -/
structure Region where
  job : Nat
  bounds : Bounds
  st : RState
  /-- The committed signature (R416, R421). -/
  sig : Option Sig
  /-- Whether a suspended region was RUNNING, so that it resumes RUNNING (R449). -/
  wasRunning : Bool
  /-- Scan areas: die, first near page, pages (R442). -/
  scanAreas : List (Nat × Nat × Nat)
  scan : Option Scan
  /-- The start timestamp T at which the region enters RUNNING (R424 step 8). -/
  startAt : Option Nat
  timed : Option Timed
  deriving DecidableEq, Repr

/-- The states of a job (R437). -/
inductive JState where
  | free | active | suspending | suspended | resuming | faulted | killing | captured
  deriving DecidableEq, Repr

/-- One allocation of ALLOC_MEM (R443). -/
structure Alloc where
  base : Nat
  space : Nat
  die : Nat
  pages : Nat
  deriving DecidableEq, Repr

/-- A job (R436 to R439, R472). -/
structure Job where
  st : JState
  ranks : Nat
  capture : Bool
  capData : Bool
  selfAlloc : Bool
  captureAddr : Nat
  captureSize : Nat
  /-- The rank table: 64-bit entries by rank (R321). -/
  rankTable : Tab Nat
  allocs : List Alloc
  /-- Counters of R472 by offset from JOB_STATEj, each with WRAP in bit 63. -/
  counters : Tab Nat
  /-- The TEL registers of its sites as last summed into the counters, by configuration key (R472). -/
  base : Tab Nat
  /-- Timestamp from which ACTIVE time is not yet counted (R472). -/
  activeFrom : Nat
  lastFault : Nat
  /-- Host windows by number: device address in host space, length, access bits R and W (R496). -/
  windows : Tab (Nat × Nat × Nat)
  /-- The capture waiting for delivery (R456, R457). -/
  captureData : List Byte
  /-- Whether the job was FAULTED when killed, for the capture header (R456). -/
  wasFaulted : Bool
  /-- Timestamp of step 2 of a kill, (R451, R456). -/
  killedAt : Nat
  /-- A suspension by the grace period is owed or runs, and posts a notice (R503). -/
  graceDue : Bool
  /-- The command that answers a suspension, resumption or kill in progress: queue and SEQ (R446, R449, R451). -/
  cmd : Option (Nat × Nat)
  deriving DecidableEq, Repr

/-- What one load staged on one die (R419, R420). -/
structure DieStage where
  enrolled : Bool
  frames : Nat
  fsum : Nat
  /-- Frames taken: die field, column, frame index, data (R420, R421). -/
  taken : List (Nat × Nat × Nat × BitVec 8192)
  deriving DecidableEq, Repr

/-- The phases of a load; parting is COMMIT after step 1 of R424 (R419). -/
inductive LoadPhase where
  | verify | stage | check | commit | parting
  deriving DecidableEq, Repr

/-- A LOAD_IMAGE in progress (R417 to R424). -/
structure Load where
  q : Nat
  cseq : Nat
  job : Nat
  id : Nat
  addr : Nat
  size : Nat
  dryrun : Bool
  phase : LoadPhase
  /-- Image bytes read so far from host space, by byte offset (R417). -/
  image : List Host.Cell
  /-- Bytes at the front of the image that have all been read. -/
  readTo : Nat
  version : Nat
  expectEpoch : Nat
  sigs : List Sig
  /-- Dies that were sent the load's frames a second time (R420). -/
  resent : List Nat
  /-- A fault, kill or suspension of the job has ended the load (R428). -/
  aborted : Bool
  /-- What the commit gives each region, none where a rollback returns it to BLANK; the commit of a rollback; the sites are written (R424, R431, R432). -/
  parts : List (Nat × Option Sig)
  rollback : Bool
  written : Bool
  deriving DecidableEq, Repr

/-- H0's configuration state (R418, R429 to R435). -/
structure ConfigState where
  epoch : Nat
  /-- The previous epoch kept, none when none is (R430). -/
  prevEpoch : Option Nat
  /-- Regions that the last load changed, with the signature each had before it (R430). -/
  prevSigs : Tab (Option Sig)
  loadCount : Nat
  imageVersion : Nat
  lastStatus : Nat
  lastSeq : Nat
  /-- Configuration commands in the order of their acceptance, the first in progress: queue, sequence number and load count (R418). -/
  waiting : List (Nat × Nat × Nat)
  load : Option Load
  /-- Staging areas of the dies' configuration controllers (R420, R421). -/
  dies : Tab DieStage
  deriving DecidableEq, Repr

/-- A flash write in progress: queue and SEQ of its FW_WRITE, and the source data once read, none within standing for poison or an error (R522). -/
structure FwJob where
  q : Nat
  seq : Nat
  data : Option (Option (List Byte))
  deriving DecidableEq, Repr

/-- The start, the firmware and the identity (R507 to R533). -/
structure Boot where
  /-- The board's flash programs and reads back what is written to it (R507, R522). -/
  flashOk : Bool
  /-- The converters run (R570). -/
  powered : Bool
  /-- A start is due, true where RESTART asked for the golden image (R513, R525). -/
  due : Option Bool
  /-- The RESTART whose reply must be visible before the start it asked for (R525). -/
  dueReply : Option (Nat × Nat)
  /-- The start watchdog runs (R514, R516). -/
  watchdog : Bool
  /-- DMODE: 0 STARTING, 1 NORMAL, 2 MINIMAL (R481). -/
  dmode : Nat
  /-- Fields of BOOT_STATUS, and the other registers of R533. -/
  phase : Nat
  reason : Nat
  failCount : Nat
  ident : Bool
  source : Nat
  recordSeq : Nat
  fwVersion : Nat
  doneTime : Nat
  /-- START_COUNT of the record in force (R519). -/
  startCount : Nat
  /-- BODY_DIGEST of the running image (R528, R531). -/
  digest : Nat
  /-- The image-key list in force: public keys with KFLAGS, its SEQ and its record's bytes as a number (R530). -/
  keys : List (Nat × Nat)
  keySeq : Nat
  keyRecord : Nat
  /-- CHANGES and TIMESTAMP of the good-unit map (R519). -/
  changes : Nat
  changeTime : Nat
  fw : Option FwJob
  /-- The SPDM state: 0 nothing negotiated, 1 version, 2 capabilities, 3 algorithms; and whether a session is open (R531). -/
  spdm : Nat
  session : Bool
  deriving DecidableEq, Repr

/-- Power and clocks of the package (R577 to R585). -/
structure Power where
  /-- PCAP (R580). -/
  pcap : Nat
  /-- PWR_LIMIT.WATTS. -/
  limit : Nat
  /-- Timestamp of the host's last write to PWR_LIMIT (R580). -/
  hostAt : Option Nat
  /-- Fields of PWR_INPUT (R584). -/
  voltage : Nat
  current : Nat
  power : Nat
  /-- POWER of each die in units of 0.1 W (R584). -/
  diePower : Tab Nat
  /-- Fields of CLK_STATUS (R584). -/
  alignMax : Nat
  refOk : Bool
  deriving DecidableEq, Repr

/-- A mirror record's payload as the package names it until it is written (R556). -/
inductive MPayload where
  | bytes (l : List Byte)
  /-- Bytes of a scan area: region, die, offset, length. -/
  | scan (region die off len : Nat)
  /-- Bytes of the checkpoint area: home address and length. -/
  | page (home len : Nat)
  deriving DecidableEq, Repr

/-- A mirror record to be written (R555, R556). -/
structure MRec where
  mtype : Nat
  ckpt : Nat
  target : Nat
  payload : MPayload
  deriving DecidableEq, Repr

/-- A staged record of the checkpoint that a shadow has open (R557). -/
structure MStaged where
  mtype : Nat
  target : Nat
  payload : List Byte
  deriving DecidableEq, Repr

/-- The checkpoint that a shadow has open (R557, R558). -/
structure OpenCkpt where
  ckpt : Nat
  last : Nat
  /-- Records of the checkpoint, BEGIN and END included. -/
  total : Nat
  recs : List MStaged
  deriving DecidableEq, Repr

/-- A mirror (R552 to R560). -/
structure Mirror where
  job : Nat
  ring : Nat
  slots : Nat
  consumedAddr : Nat
  area : Nat
  bases : List Nat
  /-- MSEQ of the next record written or expected. -/
  mseq : Nat
  /-- The number of the next checkpoint. -/
  ckpt : Nat
  /-- The consumed word as last read by the active or written by the shadow. -/
  consumed : Nat
  /-- Records that the active is to write, the first being written in sub-writes 1 to 4, 0 before the first (R555). -/
  queue : List MRec
  sub : Nat
  /-- Timestamp since which the active waits for a slot, and PAIR_MIRROR_STALLED raised for that wait (R559). -/
  waitFrom : Option Nat
  stalled : Bool
  /-- MIRROR_STOP, a suspension or a kill has ended it: it ends once its STOP record is written (R560). -/
  stopping : Bool
  /-- The shadow's open checkpoint; none until a BEGIN, and after a bad record (R557, R558). -/
  ckptOpen : Option OpenCkpt
  deriving DecidableEq, Repr

/-- A CHECKPOINT in progress: its command and CKPT_LAST; whether the regions have been scanned and its records queued (R554). -/
structure CkptRun where
  q : Nat
  seq : Nat
  last : Nat
  scanned : Bool
  deriving DecidableEq, Repr

/-- The redundant pair (R550 to R563). -/
structure Pair where
  /-- ROLE: 0 NONE, 1 ACTIVE, 2 SHADOW. -/
  role : Nat
  pairId : Nat
  mirror : Option Mirror
  /-- DBG_PAIR_CKPT. -/
  ckptDone : Nat
  run : Option CkptRun
  /-- The checkpoint committed on a shadow: job, number and CKPT_LAST. -/
  committed : Option (Nat × Nat × Nat)
  deriving DecidableEq, Repr

/-- The whole package: every register, memory, queue, counter and mode that the spec gives it, and the queue of commands that wait. -/
structure State where
  /-- The commands that wait, first in first out. -/
  pending : List Instr
  /-- The package timestamp in T-clock cycles of 1 ns (R10, R577). -/
  now : Nat
  /-- Counter that supplies free values; the model's own field (log entry 5). -/
  freeCtr : Nat
  /-- The device's bytes by device address (R226): near, far, scratchpad, cluster memory, and host memory as the package has written it. -/
  mem : List Host.Cell
  /-- Flipped bits of stored codewords, by codeword address (R235 to R238). -/
  flips : Tab Nat
  /-- The boot flash (R509). -/
  flash : List Host.Cell
  /-- Pages that differ from their start state, keyed by page key (R230). -/
  pages : Tab Page
  /-- The good compute dies at start, ascending (R229). -/
  goodDies : List Nat
  /-- The good far channels at start in package order, hub × 32 + channel (R224). -/
  goodFar : List Nat
  /-- The logic dies by die number (R16 to R18). -/
  dies : Tab Die
  /-- Kettle units by die (R348). -/
  kettles : Tab KettleUnit
  /-- The mull fabric (R313). -/
  net : Net
  /-- Events (R537). -/
  ev : Events
  /-- TEL registers with WRAP in bit 63, by configuration key (R130). -/
  tel : Tab Nat
  /-- LAST_FAULT of units by site key (R130). -/
  lastFault : Tab Nat
  /-- S-tiles by site key (R173). -/
  sTiles : Tab STile
  /-- M-tiles by site key (R83). -/
  mTiles : Tab MTile
  /-- Outstanding reads and writes of host memory (R255). -/
  host : HostPort
  /-- V-tiles by site key (R131). -/
  vTiles : Tab VTile
  /-- F-tiles by site key (R165). -/
  fTiles : Tab FTile
  /-- Grain switches by site key (R277). -/
  grain : Tab GrainSite
  /-- Stream engines by site key (R244). -/
  engines : Tab Engine
  /-- Host queues 0 to 64 by number (R483). -/
  queues : Tab HQueue
  /-- The CXL link (R481, R502). -/
  link : Link
  /-- HDM decoders 0 and 1 (R233). -/
  decoders : Tab HdmDecoder
  /-- The event ring (R482). -/
  evtRing : EvtRing
  /-- MSI-X table entries of 128 bits by vector (R478). -/
  msix : Tab Nat
  /-- Vectors whose message is pending (R478). -/
  msixPending : List Nat
  /-- What the package has given the outside, oldest first (R233, R234, R475, R478, R531, R568). -/
  out : List PkgOut
  /-- Lines of HDM memory that the host may hold, by home address (R233). -/
  biLines : List Nat
  /-- The bytes that the host still sees of a line written since it was given (R233). -/
  biOld : Tab (List Byte)
  /-- Vector raised after each map, 0xFFFF for none (R494). -/
  mapVector : Nat
  /-- The pair of a 64-bit register written by its halves and other plain RW registers of BAR0, by offset (R479). -/
  bar0 : Tab Nat
  /-- Control cores by die × 64 + core (R375). -/
  cores : Tab Core
  /-- Start, firmware and identity (R507 to R533). -/
  boot : Boot
  /-- Power and clocks (R577 to R585). -/
  pwr : Power
  /-- The redundant pair (R550). -/
  pair : Pair
  /-- Sequence-table units by die (R463). -/
  seqs : Tab SeqUnit
  /-- Regions by number (R403). -/
  regions : Tab Region
  /-- Jobs by number (R436). -/
  jobs : Tab Job
  /-- Configuration loading and epochs (R417 to R435). -/
  cfg : ConfigState
  deriving DecidableEq, Repr

/-- The one fault of the model. -/
inductive Fault where
  /-- Raised by a command that names a die, site or unit the package does not have (R16 to R20, R26); safe: the hardware has no such command. -/
  | noSuchUnit (die site : Nat)
  deriving DecidableEq, Repr

/-- The refusals of the model. -/
inductive Refusal where
  /-- Raised by the arm of a command that the model does not give its meaning; safe: nothing is claimed about it. -/
  | notModelled (mnemonic : String)
  deriving DecidableEq, Repr

/-- The package right after H0's reset is released at power good, before the start has run: every register at its reset value, memory and flash with nothing listed, no command waiting (R13, R513; log entries 4, 18 and 19). -/
def State.reset : State :=
  { pending := [], now := 0, freeCtr := 0, mem := [], flips := [], flash := [], pages := [], goodDies := [], goodFar := [], dies := [], kettles := []
    net := { nis := [], packets := [], holes := [], tableHoles := [], tableFenced := [], lostGroups := [], tableLostGroups := [], rewriteDue := none
             tel := [], mapIn := [], mapSeq := 0, mapWrap := false, mapPeriod := 0, mapRing := none, turns := [] }
    ev := { dies := [], number := 0, nwrap := false, held := [], lost := 0, coalesce := [], fatal := false, firstFatal := 0, faultN := false, siteFaults := [] }
    tel := [], lastFault := [], sTiles := [], mTiles := []
    host := { reads := [], writes := [], nextId := 0 }
    vTiles := [], fTiles := [], grain := [], engines := [], queues := []
    link := { up := false, width := 0, rate := 0, attaches := 0, downTime := 0, upTime := 0, grace := 10, graceExpired := false, graceRuns := false }
    decoders := [], evtRing := { base := 0, enable := false, vector := 0, log2 := 0, tail := 0, head := 0 }
    msix := [], msixPending := [], out := [], biLines := [], biOld := [], mapVector := 0xFFFF, bar0 := [], cores := [], seqs := [], regions := []
    jobs := [(0, { st := .active, ranks := 0, capture := false, capData := false, selfAlloc := false, captureAddr := 0, captureSize := 0, rankTable := []
                   allocs := [], counters := [], base := [], activeFrom := 0, lastFault := 0, windows := [], captureData := [], wasFaulted := false
                   killedAt := 0, graceDue := false, cmd := none })]
    cfg := { epoch := 0, prevEpoch := none, prevSigs := [], loadCount := 0, imageVersion := 0, lastStatus := 0, lastSeq := 0, waiting := [], load := none, dies := [] }
    boot := { flashOk := true, powered := true, due := some false, dueReply := none, watchdog := true, dmode := 0, phase := 0, reason := 0, failCount := 0, ident := false, source := 0
              recordSeq := 0, fwVersion := 0, doneTime := 0, startCount := 0, digest := 0, keys := [], keySeq := 0, keyRecord := 0, changes := 0, changeTime := 0
              fw := none, spdm := 0, session := false }
    pwr := { pcap := 16, limit := 17000, hostAt := none, voltage := 0, current := 0, power := 0, diePower := [], alignMax := 0, refOk := false }
    pair := { role := 0, pairId := 0, mirror := none, ckptDone := 0, run := none, committed := none } }

end Sys2Proof.Machine
end

