-- ==== Sys2Proof/Machine/Floor.lean ====
section
/-! DEFINITION. Sys2Proof/Machine/Floor.lean: die positions, the floor of tile sites, ordinals, keys and endpoints (R16 to R20, R26, R173, R319). -/

namespace Sys2Proof.Machine

/-- The rows of the floor from row 0, four bits per site with column 0 lowest: 1 S, 2 D, 3 M, 4 V, 5 F, 6 X, 7 C (R26). -/
def floorRows : List Nat :=
  [0x111111411666666111411111, 0x533433533433533433533433, 0x421111421111511121411121, 0x533433533433533433533433,
   0x121411121511111421111421, 0x533433533433533433533433, 0x121411121111111421111121, 0x633433334335533433334336,
   0x611111114117711411111116, 0x633433334337733433334336, 0x633433334337733433334336, 0x611111114117711411111116,
   0x633433334335533433334336, 0x121411121111111421111121, 0x533433533433533433533433, 0x121411121511111421111421,
   0x533433533433533433533433, 0x421111421111511121411121, 0x533433533433533433533433, 0x111111411666666111411111]

/-- The site kind that a digit of the floor names (R26). -/
def kindOfDigit : Nat → Option SiteKind
  | 1 => some .sTile
  | 2 => some .dpTile
  | 3 => some .mTile
  | 4 => some .vTile
  | 5 => some .fTile
  | 6 => some .xTile
  | 7 => some .cluster
  | _ => none

/-- The kind of a tile site of a compute die by its tile site index, row × 24 + column (R19, R26). -/
def siteKind (site : Nat) : Option SiteKind :=
  if site < 480 then kindOfDigit (nth 0 (site / 24) floorRows / 2 ^ (4 * (site % 24)) % 16) else none

/-- The die block's site value (R227, R317). -/
def blockSite : Nat := 0x3FF

/-- Compute dies are 0 to 95 (R17, R18). -/
def isCompute (die : Nat) : Bool := decide (die < 96)

/-- Hub dies are 0x60 to 0x63 (R18). -/
def isHub (die : Nat) : Bool := decide (0x60 ≤ die) && decide (die ≤ 0x63)

/-- A die that the package carries (R18). -/
def isDie (die : Nat) : Bool := isCompute die || isHub die

/-- The grid position of a die (R16, R17). -/
def dieXY (die : Nat) : Nat × Nat :=
  if die = 0x60 then (0, 0) else if die = 0x61 then (9, 0) else if die = 0x62 then (0, 9) else if die = 0x63 then (9, 9)
  else if die < 8 then (die + 1, 0)
  else if die < 88 then ((die - 8) % 10, (die - 8) / 10 + 1)
  else (die - 88 + 1, 9)

/-- The die at a grid position (R16, R17). -/
def dieAt (x y : Nat) : Option Nat :=
  if 9 < x ∨ 9 < y then none
  else if y = 0 then (if x = 0 then some 0x60 else if x = 9 then some 0x61 else some (x - 1))
  else if y = 9 then (if x = 0 then some 0x62 else if x = 9 then some 0x63 else some (88 + x - 1))
  else some (8 + (y - 1) * 10 + x)

/-- The neighbour of a die across an edge, 0 N, 1 E, 2 S, 3 W (R20, R23). -/
def dieNeighbour (die edge : Nat) : Option Nat :=
  let p := dieXY die
  match edge with
  | 0 => dieAt p.1 (p.2 + 1)
  | 1 => dieAt (p.1 + 1) p.2
  | 2 => if p.2 = 0 then none else dieAt p.1 (p.2 - 1)
  | 3 => if p.1 = 0 then none else dieAt (p.1 - 1) p.2
  | _ => none

/-- The neighbouring site within a die, 0 N, 1 E, 2 S, 3 W (R20, R313). -/
def siteNeighbour (site dir : Nat) : Option Nat :=
  match dir with
  | 0 => if site / 24 < 19 then some (site + 24) else none
  | 1 => if site % 24 < 23 then some (site + 1) else none
  | 2 => if site < 24 then none else some (site - 24)
  | 3 => if site % 24 = 0 then none else some (site - 1)
  | _ => none

/-- Whether a kind is an S-tile, plain or DP. -/
def isSp : Option SiteKind → Bool
  | some .sTile => true
  | some .dpTile => true
  | _ => false

/-- The ordinal of an S-tile, its rank among the S-tiles in increasing tile site index (R173). -/
def spOrdinal (site : Nat) : Nat := ((upTo site).filter (fun k => isSp (siteKind k))).length

/-- The S-tile site of an ordinal (R173). -/
def spSite (ordinal : Nat) : Option Nat := ((upTo 480).filter (fun k => isSp (siteKind k)))[ordinal]?

/-- The near channel of a DP S-tile, its rank among the DP S-tiles (R173). -/
def dpChannel (site : Nat) : Nat := ((upTo site).filter (fun k => siteKind k = some .dpTile)).length

/-- The DP S-tile site of a near channel (R173). -/
def dpSite (ch : Nat) : Option Nat := ((upTo 480).filter (fun k => siteKind k = some .dpTile))[ch]?

/-- The edge that an X-tile ends, 0 N, 1 E, 2 S, 3 W, and its lane group 0 to 5 on that edge (R26, R301). -/
def xEdge (site : Nat) : Nat × Nat :=
  let r := site / 24
  let c := site % 24
  if r = 19 then (0, c - 9) else if r = 0 then (2, c - 9) else if c = 23 then (1, r - 7) else (3, r - 7)

/-- The X-tile site of an edge and lane group (R26). -/
def xSite (edge group : Nat) : Nat :=
  match edge with
  | 0 => 19 * 24 + 9 + group
  | 1 => (7 + group) * 24 + 23
  | 2 => 9 + group
  | _ => (7 + group) * 24

/-- The edge opposite to an edge. -/
def opposite (edge : Nat) : Nat := (edge + 2) % 4

/-- The edge that number e of a record or event names, 0 W, 1 E, 2 S, 3 N, and the number that an edge has there (R518, R539). -/
def recordEdge (e : Nat) : Nat := nth 0 e [3, 1, 2, 0]

/-- The key of a die's site. -/
def siteKey (die site : Nat) : Nat := die * 1024 + site

/-- The key of a control core. -/
def coreKey (die core : Nat) : Nat := die * 64 + core

/-- The number of control cores of a die (R22, R375). -/
def coreCount (die : Nat) : Nat := if isCompute die then 32 else 16

/-- The number of kettles of a die (R348). -/
def kettleCount (die : Nat) : Nat := if isCompute die then 8192 else 1024

/-- The waiter-table entries of a die (R359). -/
def waiterRoom (die : Nat) : Nat := if isCompute die then 4096 else 1024

/-- The cluster sites in increasing index order (R319). -/
def clusterSites : List Nat := [203, 204, 227, 228, 251, 252, 275, 276]

/-- The router to which an endpoint attaches: its own site's, or the cluster site's of the die block and of a core group (R319). -/
def routerOf (e : Ep) : Nat :=
  if isHub e.die then blockSite
  else if e.site = blockSite then
    (if e.port = 5 ∧ e.index < 32 then nth 203 (e.index / 4) clusterSites else 203)
  else e.site

/-- The LOCAL input of a die's routers: 4 at a site, 12 at a hub (R313, R345). -/
def localPort (die : Nat) : Nat := if isHub die then 12 else 4

/-- Port values (R319). -/
def portTile : Nat := 0
def portStream : Nat := 1
def portNear : Nat := 2
def portCollector : Nat := 3
def portKettle : Nat := 4
def portCore : Nat := 5
def portConfig : Nat := 6
def portFar : Nat := 7
def portHost : Nat := 8
def portSeq : Nat := 9

/-- Whether an endpoint exists on the package (R319). -/
def epExists (e : Ep) : Bool :=
  if e.site = blockSite then
    isDie e.die && (
      (e.port == portKettle && decide (e.index < kettleCount e.die)) ||
      (e.port == portCore && (decide (e.index < coreCount e.die) || e.index == 0xFFFF)) ||
      (e.port == portConfig) || (e.port == portFar && isHub e.die && decide (e.index < 32)) ||
      (e.port == portHost && e.die == 0x60) || (e.port == portSeq && isCompute e.die))
  else isCompute e.die &&
    (match siteKind e.site with
    | some .cluster => false
    | some .dpTile => decide (e.port ≤ 2)
    | some .xTile => decide (e.port ≤ 1)
    | some .vTile => e.port == portTile || e.port == portCollector
    | some _ => e.port == portTile
    | none => false)

/-- The 64-bit rank-table entry of an endpoint (R321). -/
def rankEntry (e : Ep) : Nat := 2 ^ 63 + e.die * 2 ^ 48 + e.site * 2 ^ 38 + e.port * 2 ^ 34 + e.index

/-- The endpoint of a rank-table entry, none when VALID is clear (R321). -/
def entryEp (n : Nat) : Option Ep :=
  if bit n 63 then some { die := bits n 54 48, site := bits n 47 38, port := bits n 37 34, index := bits n 15 0 } else none

/-- An endpoint packed as LAST_SRC: die, site and port (R373). -/
def packEp (e : Ep) : Nat := e.die * 2 ^ 14 + e.site * 2 ^ 4 + e.port

/-- The endpoint of H0's die block at its HOST port. -/
def hostEp (q : Nat) : Ep := { die := 0x60, site := blockSite, port := portHost, index := q }

/-- The CONFIG port of a die's block. -/
def configEp (die : Nat) : Ep := { die := die, site := blockSite, port := portConfig, index := 0 }

/-- The KETTLE port of a kettle. -/
def kettleEp (die k : Nat) : Ep := { die := die, site := blockSite, port := portKettle, index := k }

/-- Whether a region's bounds hold a site of a die (R34, R404). -/
def Bounds.holds (b : Bounds) (die site : Nat) : Bool :=
  match b with
  | .columns d c0 c1 => die == d && decide (c0 ≤ site % 24) && decide (site % 24 ≤ c1) && decide (site < 480) && siteKind site != some .cluster
  | .dies x0 y0 x1 y1 =>
    isCompute die && (decide (x0 ≤ (dieXY die).1) && decide ((dieXY die).1 ≤ x1) && decide (y0 ≤ (dieXY die).2) && decide ((dieXY die).2 ≤ y1)
      && decide (site < 480) && siteKind site != some .cluster)

/-- The compute dies that bounds reach (R34, R404). -/
def Bounds.dieList (b : Bounds) : List Nat :=
  match b with
  | .columns d _ _ => [d]
  | .dies x0 y0 x1 y1 => (upTo 96).filter (fun d => decide (x0 ≤ (dieXY d).1) && decide ((dieXY d).1 ≤ x1) && decide (y0 ≤ (dieXY d).2) && decide ((dieXY d).2 ≤ y1))

/-- The sites of a die that bounds hold, in increasing index. -/
def Bounds.siteList (b : Bounds) (die : Nat) : List Nat := (upTo 480).filter (fun k => b.holds die k)

end Sys2Proof.Machine
end

