-- ==== Sys2Proof/Machine/Initial.lean ====
section
/-! DEFINITION. Sys2Proof/Machine/Initial.lean: what an entry that a table does not list holds. -/

namespace Sys2Proof.Machine

/-- The endpoint that names nothing. -/
def noEp : Ep := { die := 0, site := 0, port := 0, index := 0 }

/-- A free kettle at 0 with no signaller (R350, R373). -/
def kettleInitial : Kettle :=
  { owner := none, value := 0, lastTime := 0, lastOp := 0, lastSrc := noEp, lastIssuer := 0, lastFaulted := false, lastRel := false }

/-- A kettle unit after a start (R350). -/
def kettleUnitInitial : KettleUnit := { kettles := [], waiters := [], opnum := 0, withdrawing := [] }

/-- An idle network interface. -/
def niInitial : Ni := { out := [], nextId := 0, issued := 0, rx := [], flows := [], txFlows := [], eject := [], replies := [] }

/-- A die before a start: not fenced by a record, nothing tested (R219, R519). -/
def dieInitial : Die :=
  { fenced := false, dstate := 0, fencedSites := [], goodCh := [], lostCh := [], nearState := .normal, holdSince := none, nearTemps := [0, 0, 0, 0], spares := [], far := []
    dead := none, tstate := 0, tj := [0, 0, 0, 0, 0, 0, 0, 0], capThermal := 16, capPower := 16, capPackage := 16, level := 16, levelNext := 16, levelAt := 0, badCores := [] }

/-- A port's telemetry after a start (R346). -/
def portTelInitial : PortTel := { wstart := 0, hist := List.replicate 8 0, acc := List.replicate 8 0, full := false }

/-- A die block with no waiting event (R586). -/
def dieEventsInitial : DieEvents := { waiting := [], dropped := 0 }

/-- A blank S-tile (R406). -/
def sTileInitial : STile :=
  { ranges := [], tags := [], quires := [], chans := [], gatherMode := false, gather := [], cmds := [], waits := [], stamp := 0, patrol := [] }

/-- A channel that no descriptor has enabled (R406). -/
def chanInitial : Chan := { desc := 0, pos := 0, runsLeft := 0, leafBase := none, rob := [], fifo := [], done := false, faulted := false }

/-- A quire that no descriptor has enabled (R192, R406). -/
def quireInitial : Quire :=
  { en := false, range := 0, swapKettle := 0, base := 0, leafSlots := 0, sig := false, rel := false, gen := 0, genWrap := false, wleaf := 0, pending := none, full0 := 0, full1 := 0 }

/-- A page as a start leaves it, by its near page number on its die, far pages having none (R214, R215, R230). -/
def pageInitial (systemArea : Bool) : Page :=
  { st := if systemArea then .system else .free, hostvis := false, uncorr := false, zeroing := false, dirty := false }

/-- A blank M-tile context (R406). -/
def mCtxInitial : MCtx :=
  { desc := 0, ring := [], queue := [], pos := 0, repeatsLeft := 0, st := .off, wait := .none, waitedFrom := 0, aQueue := [], side := [], sweep := none, panel := 0, exps := 0, finished := [], wQueue := [], accQueue := [] }

/-- A blank M-tile (R406). -/
def mTileInitial : MTile :=
  { site := 0, ctxs := List.replicate 4 mCtxInitial, running := none, notReady := 0, switchTo := none, row := [], col := [], rowExp := [], colExp := []
    segRow := [], segCol := [], pairs := [], acc := [], accSt := [], loadQ := [], drainQ := [], dOut := [], flips := [], auditAt := 0, regen := [], mac := [0, 0, 0] }

/-- An input port of a V-tile with nothing queued. -/
def vPortInitial : VPort := { queue := [], left := [], side := 0, skip := 0 }

/-- A blank V-tile context (R406). -/
def vCtxInitial : VCtx :=
  { desc := 0, ring := [], queue := [], pos := 0, repeatsLeft := 0, st := .off, wait := .none, waitedFrom := 0
    ports := List.replicate 3 vPortInitial, treg := 0, pend := [], acc := [], rows := [], tasks := [], serial := 0 }

/-- A collector entry before its first summary. -/
def collectorInitial : Collector := { count := 0, sum := Summary.empty 0 0, step := 0, wrap := false, slot := 0, bLast := none }

/-- A blank V-tile (R406). -/
def vTileInitial : VTile :=
  { site := 0, chains := [], ctxs := List.replicate 4 vCtxInitial, running := none, notReady := 0, switchTo := none, outBuf := [], outRes := [0, 0], chain := []
    fReq0 := [], fReq1 := [], fRet0 := [], fRet1 := [], coll := List.replicate 8 collectorInitial, pairs := [] }

/-- A link that is OFF (R167). -/
def fLinkInitial : FLink :=
  { desc := 0, inQ := [], outQ := [], runsLeft := 0, pos := 0, left := [], side := 0, part := [], skip := 0, words := 0, credited := 0, flags := 0, done := false, faulted := false }

/-- A blank F-tile (R406). -/
def fTileInitial : FTile := { links := [fLinkInitial, fLinkInitial], last := 1 }

/-- A blank grain switch (R282, R299, R406). -/
def grainInitial : GrainSite := { slots := [], eps := [], els := [], links := [], backs := [], xout := [], xin := [], edgeOut := [], edgeIn := [], fails := 0 }

/-- An element that no descriptor enables (R298). -/
def grainElInitial : GrainEl :=
  { desc := 0, q := [[], [], [], []], out0 := [], out1 := [], cred0 := 0, cred1 := 0, owed := [0, 0, 0, 0], token := none, taken := [0, 0, 0, 0]
    sums := [], arrivals := [], skewSince := none, faulted := false }

/-- A stream engine with nothing queued or active (R276). -/
def engineInitial : Engine := { queue := [], slots := [], inbox := [], remoteTurn := 7, localTurn := 7, xIn := [], relist := [] }

/-- A queue after a start (R483). -/
def queueInitial : HQueue :=
  { sqBase := 0, cqBase := 0, sqLog2 := 0, cqLog2 := 0, vector := 0, enable := false, dups := 0, rdErr := false, cfgErr := false, dbErr := false, seqErr := false
    qstate := 0, lastAccepted := 0xFFFFFFFF, lastReplied := 0xFFFFFFFF, lastNotice := 0xFFFFFFFF, nextNotice := 0, sqHead := 0, sqTail := 0, cqHead := 0, cqTail := 0
    phase := true, replay := none, reading := false, entry := none, cmds := [], held := [], writing := [], kept := [], ktlStatus := 0, ktlDropped := 0 }

/-- A core after a start (R388, R402). -/
def coreInitial : Core :=
  { st := .off, mmode := true, pc := 0, lastPc := 0, x := List.replicate 32 0, f := List.replicate 32 0, csrs := [], pmpcfg := List.replicate 16 0
    pmpaddr := List.replicate 16 0, instret := 0, cycleOff := 0, resv := none, wait := .none, len := 0, stallFrom := 0, mtimecmp := 2 ^ 64 - 1, msip := false, meip := false, xenhid := 0
    cause := 0, tval := 0, relist := [] }

/-- A job number that no job holds (R437). -/
def jobInitial : Job :=
  { st := .free, ranks := 0, capture := false, capData := false, selfAlloc := false, captureAddr := 0, captureSize := 0, rankTable := []
    allocs := [], counters := [], base := [], activeFrom := 0, lastFault := 0, windows := [], captureData := [], wasFaulted := false, killedAt := 0, graceDue := false, cmd := none }

/-- A sequence-table unit that serves no region (R463). -/
def seqUnitInitial : SeqUnit :=
  { region := 0, cfg := none, table := [], retired := [], step := 1, waiting := false, released := false, models := [], slots := [], fetch := none, pinFetch := [] }

/-- A configuration controller with nothing staged (R420). -/
def dieStageInitial : DieStage := { enrolled := false, frames := 0, fsum := 0, taken := [] }

end Sys2Proof.Machine
end

