-- ==== Sys2Proof/Machine/Memory.lean ====
section
/-! DEFINITION. Sys2Proof/Machine/Memory.lean: bytes by device address, the word code, and the location and ownership of DRAM (R210 to R240). -/

namespace Sys2Proof.Machine

/-- The byte at an address; an unlisted one reads 0 (R215, R223; log entry 4). -/
def memByte : List Host.Cell → Nat → Byte
  | [], _ => 0
  | (k, b) :: t, a => if k = a then b else if a < k then 0 else memByte t a

/-- A byte written, the list kept rising with no entry equal to 0. -/
def memPut : List Host.Cell → Nat → Byte → List Host.Cell
  | [], a, v => if v = 0 then [] else [(a, v)]
  | (k, b) :: t, a, v =>
    if a < k then (if v = 0 then (k, b) :: t else (a, v) :: (k, b) :: t)
    else if k = a then (if v = 0 then t else (a, v) :: t)
    else (k, b) :: memPut t a v

/-- Bytes written from an address on. -/
def memPutList : List Host.Cell → Nat → List Byte → List Host.Cell
  | m, _, [] => m
  | m, a, b :: bs => memPutList (memPut m a b) (a + 1) bs

/-- count bytes read from an address on. -/
def memGetList (m : List Host.Cell) (a : Nat) : Nat → List Byte
  | 0 => []
  | n + 1 => memByte m a :: memGetList m (a + 1) n

/-- The bytes in a range cleared to 0, which unlists them. -/
def memClear (m : List Host.Cell) (a n : Nat) : List Host.Cell :=
  m.filter (fun c => !(decide (a ≤ c.1) && decide (c.1 < a + n)))

/-- The canonical form: addresses strictly rising and no entry equal to 0. -/
def memWf : List Host.Cell → Bool
  | [] => true
  | (_, b) :: [] => b != 0
  | (k, b) :: (j, c) :: t => b != 0 && decide (k < j) && memWf ((j, c) :: t)

/-- The boot flash's byte at an offset, the erased value where unlisted (R509). -/
def flashByte : List Host.Cell → Nat → Byte
  | [], _ => 0xFF
  | (k, b) :: t, a => if k = a then b else if a < k then 0xFF else flashByte t a

/-- A flash byte set, erased bytes unlisted. -/
def flashPut : List Host.Cell → Nat → Byte → List Host.Cell
  | [], a, v => if v = 0xFF then [] else [(a, v)]
  | (k, b) :: t, a, v =>
    if a < k then (if v = 0xFF then (k, b) :: t else (a, v) :: (k, b) :: t)
    else if k = a then (if v = 0xFF then t else (a, v) :: t)
    else (k, b) :: flashPut t a v

/-- Flash bytes set from an offset on. -/
def flashPutList : List Host.Cell → Nat → List Byte → List Host.Cell
  | m, _, [] => m
  | m, a, b :: bs => flashPutList (flashPut m a b) (a + 1) bs

/-- Flash bytes read from an offset on. -/
def flashGet (m : List Host.Cell) (a : Nat) : Nat → List Byte
  | 0 => []
  | n + 1 => flashByte m a :: flashGet m (a + 1) n

/-- Multiplication in GF(2^8) on the polynomial 0x11D (R235). -/
def gfMul (a b : Nat) : Nat :=
  (upTo 8).foldl (fun acc i =>
    let sh := a * 2 ^ i
    let red := (upTo 8).foldl (fun v j => if bit v (15 - j) then v ^^^ (0x11D * 2 ^ (7 - j)) else v) sh
    if bit b i then acc ^^^ red else acc) 0

/-- Powers of α = 0x02 (R235). -/
def alphaPow : Nat → Nat
  | 0 => 1
  | n + 1 => gfMul (alphaPow n) 2

/-- Syndrome i of a 288-bit pattern, byte k being the coefficient of x^(35 − k) (R236, R237). -/
def syndrome (i pattern : Nat) : Nat :=
  (upTo 36).foldl (fun acc k =>
    let c := pattern / 2 ^ (8 * k) % 256
    if c = 0 then acc else acc ^^^ gfMul c (alphaPow (i * (35 - k) % 255))) 0

/-- Outcome of decoding (R237). -/
inductive Decoded where
  | clean
  | corrected (residual : Nat)
  | uncorrectable
  deriving DecidableEq, Repr

/-- Decoding a codeword that differs from a codeword by a pattern of flipped bits; the code is linear, so the pattern alone decides (R237). -/
def decodePattern (pattern : Nat) : Decoded :=
  let s0 := syndrome 0 pattern
  let s1 := syndrome 1 pattern
  let s2 := syndrome 2 pattern
  let s3 := syndrome 3 pattern
  if s0 = 0 ∧ s1 = 0 ∧ s2 = 0 ∧ s3 = 0 then .clean
  else if s0 = 0 ∨ s1 = 0 ∨ s2 = 0 ∨ s3 = 0 then .uncorrectable
  else match (upTo 36).find? (fun p => gfMul (alphaPow p) s0 == s1 && gfMul (alphaPow p) s1 == s2 && gfMul (alphaPow p) s2 == s3) with
    | some p => .corrected (pattern ^^^ (s0 * 2 ^ (8 * (35 - p))))
    | none => .uncorrectable

/-- The check symbols of a data word, P_0 lowest (R236): the unique four bytes that make all syndromes 0, found one power at a time. -/
def checkSymbols (word : Nat) : Nat :=
  let r := (upTo 32).foldl (fun (r : Nat × Nat × Nat × Nat) k =>
    let f := (word / 2 ^ (8 * k) % 256) ^^^ r.1
    (r.2.1 ^^^ gfMul f 0x0F, r.2.2.1 ^^^ gfMul f 0x36, r.2.2.2 ^^^ gfMul f 0x78, gfMul f 0x40)) (0, 0, 0, 0)
  r.1 + 256 * r.2.1 + 65536 * r.2.2.1 + 16777216 * r.2.2.2

/-- A word of 32 bytes at an address. -/
def wordAt (m : List Host.Cell) (a : Nat) : Word := BitVec.ofNat 256 (leNat (memGetList m a 32))

/-- A word written at an address. -/
def putWord (m : List Host.Cell) (a : Nat) (w : Word) : List Host.Cell := memPutList m a (leBytes 32 w.toNat)

/-- The space code of a device address (R226). -/
def spaceOf (a : Nat) : Nat := a / 2 ^ 59 % 32

/-- A near-direct device address (R226). -/
def nearAddr (die off : Nat) : Nat := die * 2 ^ 36 + off

/-- A far device address (R226). -/
def farAddr (off : Nat) : Nat := 2 * 2 ^ 59 + off

/-- A scratchpad device address (R175, R226). -/
def spAddr (die ordinal off : Nat) : Nat := 3 * 2 ^ 59 + die * 2 ^ 29 + ordinal * 2 ^ 21 + off

/-- A cluster-memory device address (R226). -/
def clusterAddr (die off : Nat) : Nat := 4 * 2 ^ 59 + die * 2 ^ 29 + off

/-- A host-space device address (R226). -/
def hostAddr (hpa : Nat) : Nat := 8 * 2 ^ 59 + hpa

/-- The cluster memory size of a die: 8 MiB on a compute die, and on a hub the 4 MiB that its 16 cores share (R226, R375). -/
def clusterSize (die : Nat) : Nat := if isCompute die then 8388608 else 4194304

/-- The die's state, as before a start where unlisted. -/
def dieOf (s : State) (die : Nat) : Die := Tab.get dieInitial die s.dies

/-- Where a near-direct offset lies: channel and codeword within it, by the mapping fixed at start (R212). -/
def nearLocate (s : State) (die off : Nat) : Option (Nat × Nat) :=
  let good := (dieOf s die).goodCh
  let nc := good.length
  let g := off / 4096
  if nc = 0 ∨ min (2 ^ 24) (nc * 699051) ≤ g then none
  else some (nth 0 (g % nc) good, g / nc * 128 + off % 4096 / 32)

/-- Granules of each good die that near-interleaved space uses (R229). -/
def ilGranules (s : State) : Nat :=
  match s.goodDies.map (fun d => min (2 ^ 24) ((dieOf s d).goodCh.length * 699051)) with
  | [] => 0
  | x :: xs => xs.foldl min x - 2 ^ 18

/-- The die and near-direct offset of a near-interleaved offset (R229). -/
def ilLocate (s : State) (off : Nat) : Option (Nat × Nat) :=
  let n := s.goodDies.length
  let g := off / 4096
  if n = 0 ∨ n * ilGranules s ≤ g then none
  else some (nth 0 (g % n) s.goodDies, 2 ^ 30 + g / n * 4096 + off % 4096)

/-- The hub × 32 + channel and the channel offset of a far offset (R224). -/
def farLocate (s : State) (off : Nat) : Option (Nat × Nat) :=
  let nf := s.goodFar.length
  let g := off / 4096
  if nf = 0 ∨ nf * 2 ^ 23 ≤ g then none
  else some (nth 0 (g % nf) s.goodFar, g / nf * 4096 + off % 4096)

/-- Whether a device address is malformed (R175, R226 to R228). -/
def addrMalformed (a : Nat) : Bool :=
  match spaceOf a with
  | 0 => bits a 58 43 != 0 || !isCompute (bits a 42 36)
  | 1 => bits a 58 43 != 0
  | 2 => bits a 58 42 != 0
  | 3 => bits a 58 36 != 0 || !isCompute (bits a 35 29) || decide (192 ≤ bits a 28 21)
  | 4 => bits a 58 36 != 0 || !isDie (bits a 35 29) || bits a 28 23 != 0 || decide (clusterSize (bits a 35 29) ≤ bits a 22 0)
  | 5 => bits a 58 36 != 0 || !isDie (bits a 35 29) || bits a 28 16 != 0 || bits a 2 0 != 0 || decide (kettleCount (bits a 35 29) ≤ bits a 15 3)
  | 6 => bits a 58 36 != 0 || !isDie (bits a 35 29) || (bits a 28 19 != blockSite && !(isCompute (bits a 35 29) && decide (bits a 28 19 < 480)))
  | 7 => bits a 58 26 != 0
  | 8 => bits a 58 52 != 0
  | _ => true

/-- Where a DRAM address leads. -/
inductive Place where
  /-- Near DRAM: die, near-direct offset, channel. -/
  | near (die off ch : Nat)
  /-- Far DRAM: hub × 32 + channel, far offset. -/
  | far (hc off : Nat)
  | unbacked
  /-- Another space than near or far. -/
  | other
  deriving DecidableEq, Repr

/-- Where a well-formed address leads; channels lost in service and dies fenced since start leave their granules unbacked (R212, R216, R223, R224, R229, R547). -/
def placeOf (s : State) (a : Nat) : Place :=
  let near (d o : Nat) : Place :=
    match nearLocate s d o with
    | none => .unbacked
    | some (c, _) => if (dieOf s d).fenced || (dieOf s d).lostCh.contains c then .unbacked else .near d o c
  match spaceOf a with
  | 0 => near (bits a 42 36) (bits a 35 0)
  | 1 =>
    match ilLocate s (bits a 42 0) with
    | none => .unbacked
    | some (d, o) => near d o
  | 2 =>
    match farLocate s (bits a 41 0) with
    | none => .unbacked
    | some (hc, _) =>
      if (dieOf s (0x60 + hc / 32)).fenced || decide ((Tab.find? (hc % 32) (dieOf s (0x60 + hc / 32)).far).map FarCh.st = some .lost)
      then .unbacked else .far hc (bits a 41 0)
  | _ => .other

/-- The device address under which a place's bytes are held. -/
def Place.home : Place → Nat
  | .near d o _ => nearAddr d o
  | .far _ o => farAddr o
  | _ => 0

/-- The key of a page: near pages by die and number, far pages after them (R230). -/
def Place.page : Place → Nat
  | .near d o _ => d * 2 ^ 15 + o / 2 ^ 21
  | .far _ o => 2 ^ 22 + o / 2 ^ 21
  | _ => 2 ^ 24

/-- A page's state (R214, R230). -/
def pageOf (s : State) (key : Nat) : Page :=
  Tab.get (pageInitial (decide (key < 2 ^ 22) && decide (key % 2 ^ 15 < 512))) key s.pages

/-- A page set. -/
def setPage (s : State) (key : Nat) (p : Page) : State := { s with pages := Tab.set key p s.pages }

/-- Whether a job may access a page (R231). -/
def pageAdmits (p : Page) (job : Nat) : Bool :=
  match p.st with
  | .owned j => j == job
  | .system => job == 0
  | _ => false

/-- The endpoint that serves a DRAM place: the channel's DP S-tile, or the hub of the far channel (R213, R224). -/
def Place.server : Place → Option Ep
  | .near d _ ch => (dpSite ch).map (fun k => { die := d, site := k, port := portNear, index := 0 })
  | .far hc _ => some { die := 0x60 + hc / 32, site := blockSite, port := portFar, index := hc % 32 }
  | _ => none

/-- Stored flips with upsets added, an entry that cancels dropped (R235). -/
def addUpsets (f : Tab Nat) (u : Upset) : Tab Nat :=
  u.foldl (fun f e => let p := (Tab.get 0 e.1 f ^^^ e.2) % 2 ^ 288; if p = 0 then Tab.erase e.1 f else Tab.set e.1 p f) f

/-- Decoding the stored codeword at a home address: the state with a corrected word written back, and the word unless it is uncorrectable (R237, R238, R205). -/
def decodeAt (s : State) (a : Nat) : State × Option Word × Bool :=
  match Tab.find? a s.flips with
  | none => (s, some (wordAt s.mem a), false)
  | some p =>
    match decodePattern p with
    | .uncorrectable => (s, none, false)
    | .clean =>
      let w := wordAt s.mem a ^^^ BitVec.ofNat 256 p
      (s, some w, false)
    | .corrected r =>
      let w := wordAt s.mem a ^^^ BitVec.ofNat 256 r
      ({ s with mem := putWord s.mem a w, flips := Tab.erase a s.flips }, some w, true)

/-- A whole word written, its check symbols with it (R236, R238). -/
def storeWord (s : State) (a : Nat) (w : Word) : State :=
  { s with mem := putWord s.mem a w, flips := Tab.erase a s.flips }

/-- Words written from an address on. -/
def storeWords : State → Nat → List Word → State
  | s, _, [] => s
  | s, a, w :: ws => storeWords (storeWord s a w) (a + 32) ws

/-- Bytes written from an address on, each codeword read, merged and written back (R211). -/
def storeBytes (s : State) (a : Nat) (bs : List Byte) : State :=
  { s with mem := memPutList s.mem a bs, flips := s.flips.filter (fun e => !(decide (e.1 ≤ a + bs.length - 1) && decide (a < e.1 + 32) && !bs.isEmpty)) }

/-- A write of bytes in lines that the host may hold: a back-invalidate snoop is sent for each, and the host's view stays as it was until the answer (R233). -/
def biNote (s : State) (a n : Nat) : State :=
  (s.biLines.filter (fun l => decide (a < l + 64) && decide (l < a + n))).foldl (fun s l =>
    if (Tab.find? l s.biOld).isSome then s
    else { s with biOld := Tab.set l (memGetList s.mem l 64) s.biOld, out := s.out ++ [.backInvalidate l] }) s

/-- Bytes cleared to zero with valid check symbols (R215, R453). -/
def clearBytes (s : State) (a n : Nat) : State :=
  { s with mem := memClear s.mem a n, flips := s.flips.filter (fun e => !(decide (a ≤ e.1) && decide (e.1 < a + n))) }

/-- Consecutive words read from a home address on; none where one of them is uncorrectable, with that address (R238). -/
def loadWords : Nat → State → Nat → List Word → State × List Word × Option Nat × Nat
  | 0, s, _, acc => (s, acc, none, 0)
  | n + 1, s, a, acc =>
    match decodeAt s a with
    | (s', none, _) => (s', acc, some a, 0)
    | (s', some w, c) =>
      let r := loadWords n s' (a + 32) (acc ++ [w])
      (r.1, r.2.1, r.2.2.1, r.2.2.2 + (if c then 1 else 0))

/-- Whether a page exists: all its 512 granules are backed at start (R230). -/
def pageExists (s : State) (key : Nat) : Bool :=
  if key < 2 ^ 22 then
    let d := key / 2 ^ 15
    decide ((key % 2 ^ 15 + 1) * 512 ≤ min (2 ^ 24) ((dieOf s d).goodCh.length * 699051))
  else decide ((key - 2 ^ 22 + 1) * 512 ≤ s.goodFar.length * 2 ^ 23)

/-- Whether a page lies whole on channels that serve: it exists, and its die is not fenced and has lost no channel, or no far channel in use is lost or at a fenced hub (R212, R216, R224). -/
def pageServed (s : State) (key : Nat) : Bool :=
  pageExists s key && (if key < 2 ^ 22 then !(dieOf s (key / 2 ^ 15)).fenced && (dieOf s (key / 2 ^ 15)).lostCh.isEmpty
    else s.goodFar.all (fun hc => !(dieOf s (0x60 + hc / 32)).fenced && decide ((Tab.find? (hc % 32) (dieOf s (0x60 + hc / 32)).far).map FarCh.st ≠ some .lost)))

/-- Whether a page has a granule on a channel lost in service (R216, R453). -/
def pageOnLost (s : State) (key : Nat) : Bool :=
  !pageServed s key && (upTo 512).any (fun g =>
    let a := if key < 2 ^ 22 then nearAddr (key / 2 ^ 15) (key % 2 ^ 15 * 2 ^ 21 + g * 4096) else farAddr ((key - 2 ^ 22) * 2 ^ 21 + g * 4096)
    decide (placeOf s a = .unbacked))

/-- The device address at which a page's bytes are held. -/
def pageHome (key : Nat) : Nat :=
  if key < 2 ^ 22 then nearAddr (key / 2 ^ 15) (key % 2 ^ 15 * 2 ^ 21) else farAddr ((key - 2 ^ 22) * 2 ^ 21)

end Sys2Proof.Machine
end

