-- ==== Sys2Proof/Machine/Ops.lean ====
section
/-! DEFINITION. Sys2Proof/Machine/Ops.lean: the operations that the meanings share: counters, events, regions, and requests and replies on the mull fabric. -/

namespace Sys2Proof.Machine

/-- A TEL register raised by n: 48 bits, wrapping to 0 with the sticky WRAP in bit 63 (R130). -/
def telRaise (r n : Nat) : Nat :=
  let c := r % 2 ^ 48 + n
  (if bit r 63 || decide (2 ^ 48 ≤ c) then 2 ^ 63 else 0) + c % 2 ^ 48

/-- The key of a register of a configuration window (R226, R227). -/
def cfgKey (die site off : Nat) : Nat := siteKey die site * 2 ^ 19 + off

/-- A TEL register of a window raised by n. -/
def telAdd (s : State) (die site off n : Nat) : State :=
  if n = 0 then s else { s with tel := Tab.modify 0 (cfgKey die site off) (fun r => telRaise r n) s.tel }

/-- A TEL register's value. -/
def telGet (s : State) (die site off : Nat) : Nat := Tab.get 0 (cfgKey die site off) s.tel

/-- The region that holds a site, with its number; SUSPENDED regions hold none (R403, R446). -/
def regionAt (s : State) (die site : Nat) : Option (Nat × Region) :=
  List.find? (fun (e : Nat × Region) => e.2.st != .suspended && e.2.bounds.holds die site && !(dieOf s die).fenced) s.regions

/-- The cores of a die that a region's committed signature assigns (R377, R414, R415). -/
def Region.coreMask (r : Region) (die : Nat) : Nat :=
  match r.sig with
  | some g => g.assigns.foldl (fun m a => if a.1 = die ∨ a.1 = 0x7F then m ||| a.2 else m) 0
  | none => 0

/-- The region to which a core is assigned (R377). -/
def regionOfCore (s : State) (die core : Nat) : Option (Nat × Region) :=
  List.find? (fun (e : Nat × Region) => e.2.st != .suspended && e.2.bounds.dieList.contains die && bit (e.2.coreMask die) core) s.regions

/-- A region's part is parted while its border is closed or its job is faulted (R337, R407). -/
def Region.isParted (r : Region) : Bool :=
  match r.st with
  | .parted => true
  | .faulted => true
  | _ => false

/-- The job that owns a tile site, 0 when no region holds it. -/
def siteJob (s : State) (die site : Nat) : Nat := ((regionAt s die site).map (fun e => e.2.job)).getD 0

/-- The region number of a tile site, 0 when none. -/
def siteRegion (s : State) (die site : Nat) : Nat := ((regionAt s die site).map (·.1)).getD 0

/-- Whether the region of a tile site is parted (R207, R425). -/
def siteParted (s : State) (die site : Nat) : Bool := ((regionAt s die site).map (fun e => e.2.isParted)).getD false

/-- Whether a tile site is clock-gated by its region's signature (R414). -/
def siteGated (s : State) (die site : Nat) : Bool :=
  match regionAt s die site with
  | some (_, r) =>
    match r.sig with
    | some g =>
      let own := g.gates.filter (fun e => e.1 == die && e.2.1 == site % 24)
      let all := g.gates.filter (fun e => e.1 == 0x7F && e.2.1 == site % 24)
      (if own.isEmpty then all else own).any (fun e => bit e.2.2 (site / 24))
    | none => false
  | none => false

/-- The job table's entry. -/
def jobOf (s : State) (j : Nat) : Job := Tab.get jobInitial j s.jobs

/-- A job's entry updated. -/
def modJob (s : State) (j : Nat) (f : Job → Job) : State := { s with jobs := Tab.modify jobInitial j f s.jobs }

/-- The endpoint that a job's rank names (R321). -/
def rankEp (s : State) (job rank : Nat) : Option Ep :=
  if rank < (jobOf s job).ranks then (Tab.find? rank (jobOf s job).rankTable).bind entryEp else none

/-- The status that a rank earns where it must name an endpoint at one of some ports, none where it does (R324, R493). -/
def rankStatus (s : State) (job rank : Nat) (ports : List Nat) : Option Nat :=
  match rankEp s job rank with
  | none => some 0x0502
  | some e => if ports.contains e.port then none else some 0x0106

/-- The kettle unit of a die. -/
def ktOf (s : State) (die : Nat) : KettleUnit := Tab.get kettleUnitInitial die s.kettles

/-- A kettle of a unit. -/
def KettleUnit.kettle (u : KettleUnit) (k : Nat) : Kettle := Tab.get kettleInitial k u.kettles

/-- A kettle unit replaced. -/
def setKt (s : State) (die : Nat) (u : KettleUnit) : State := { s with kettles := Tab.set die u s.kettles }

/-- The job that owns an endpoint, none where the comparison of R324 is not made. -/
def epOwner (s : State) (e : Ep) : Option Nat :=
  if e.site = blockSite then
    if e.port = portKettle then some (((ktOf s e.die).kettle e.index).owner.getD 64)
    else if e.port = portCore ∧ e.index ≠ 0xFFFF then some (((regionOfCore s e.die e.index).map (fun r => r.2.job)).getD 0)
    else if e.port = portSeq then
      some (((Tab.find? ((Tab.get seqUnitInitial e.die s.seqs).region) s.regions).map Region.job).getD 0)
    else if e.port = portConfig then some 0
    else none
  else if e.port = portNear then none
  else some (siteJob s e.die e.site)

/-- LAST_FAULT of a site: the first contained fault since configuration (R130). -/
def noteFault (s : State) (die site code : Nat) : State :=
  match Tab.find? (siteKey die site) s.lastFault with
  | some _ => s
  | none => { s with lastFault := Tab.set (siteKey die site) code s.lastFault }

/-- The register group whose LAST_FAULT a contained event goes to: the tile, the stream engine, the grain switch, the router, the cores, the kettle unit or the configuration controller (R130, R209, R276, R311, R346, R372, R402, R434). -/
def faultKey (e : Ev) : Option Nat :=
  let site := if e.ukind = 1 then e.index else blockSite
  if e.cls ≠ 1 then none
  else match e.code / 256 with
    | 1 => if e.ukind = 1 then some site else some (2 ^ 21 + blockSite)
    | 3 => some (2 ^ 22 + site)
    | 4 => some (2 ^ 20 + site)
    | 5 => some (2 ^ 23 + site)
    | 6 => some blockSite
    | 7 => some (2 ^ 24 + blockSite)
    | _ => none

/-- LAST_FAULT kept for an event. -/
def noteEvent (s : State) (e : Ev) : State :=
  match faultKey e with
  | some k => noteFault s e.die k e.code
  | none => s

/-- An event handed to its die block: at most 64 wait, a further one is dropped and counted, a fenced die raises none (R586). -/
def raise (s : State) (e : Ev) : State :=
  let s := noteEvent s e
  let s := if e.cls = 2 then { s with ev := { s.ev with faultN := true } } else s
  if (dieOf s e.die).fenced && e.die != 0x60 then s
  else
    let b := Tab.get dieEventsInitial e.die s.ev.dies
    let b' := if b.waiting.length < 64 then { b with waiting := b.waiting ++ [{ e with time := s.now }] } else { b with dropped := b.dropped + 1 }
    { s with ev := { s.ev with dies := Tab.set e.die b' s.ev.dies } }

/-- A corrected-class event (R534). -/
def raiseCorrected (s : State) (code job die ukind index detail : Nat) : State :=
  raise s { code := code, cls := 0, job := if job = 0 then 0xFF else job, die := die, ukind := ukind, index := index, time := s.now, detail := detail, region := 0, ext := none, defers := false }

/-- A contained error of a job; of job 0, or of no job, it is a corrected record (R535). -/
def raiseContained (s : State) (code job die ukind index detail : Nat) : State :=
  if job = 0 ∨ 63 < job then raiseCorrected s code 0 die ukind index detail
  else raise s { code := code, cls := 1, job := job, die := die, ukind := ukind, index := index, time := s.now, detail := detail, region := 0, ext := none, defers := false }

/-- The contained error of a stream's bad word: raised at once, its job faulted only when the task abort ends (R205, R231, R238, R268). -/
def raiseWord (s : State) (code job die ukind index detail : Nat) : State :=
  if job = 0 ∨ 63 < job then raiseCorrected s code 0 die ukind index detail
  else raise s { code := code, cls := 1, job := job, die := die, ukind := ukind, index := index, time := s.now, detail := detail, region := 0, ext := none, defers := true }

/-- A fatal error (R536). -/
def raiseFatal (s : State) (code die : Nat) : State :=
  raise s { code := code, cls := 2, job := 0xFF, die := die, ukind := 0, index := 0, time := s.now, detail := 0, region := 0, ext := none, defers := false }

/-- A contained error that a tile site raises against its owner; one that defers comes from a stream's word (R130, R205, R534). -/
def raiseSiteFor (defers : Bool) (s : State) (code die site detail : Nat) : State :=
  let j := siteJob s die site
  let s := raise s { code := code, cls := if j = 0 then 0 else 1, job := if j = 0 then 0xFF else j, die := die, ukind := 1, index := site,
                     time := s.now, detail := detail, region := siteRegion s die site, ext := none, defers := defers }
  noteFault s die site code

/-- A contained error that a tile site raises against its owner at once (R130, R534). -/
def raiseSite (s : State) (code die site detail : Nat) : State := raiseSiteFor false s code die site detail

/-- The network interface of a site or die block. -/
def niOf (s : State) (die site : Nat) : Ni := Tab.get niInitial (siteKey die site) s.net.nis

/-- A network interface updated. -/
def modNi (s : State) (die site : Nat) (f : Ni → Ni) : State :=
  { s with net := { s.net with nis := Tab.modify niInitial (siteKey die site) f s.net.nis } }

/-- A stream engine. -/
def enOf (s : State) (die site : Nat) : Engine := Tab.get engineInitial (siteKey die site) s.engines

/-- PREFETCH of a stream: the staging words it reserves (R246, R248). -/
def Strm.prefetch (x : Strm) : Nat := fld x.desc.toNat 20 2

/-- Staging words that the active streams of an engine reserve (R246). -/
def Engine.reserved (e : Engine) : Nat := e.slots.foldl (fun n x => n + x.2.prefetch) 0

/-- The outstanding requests that an NI has reply room for (R332). -/
def niRoom (s : State) (die site : Nat) : Nat := if site = blockSite then 256 else 64 + (enOf s die site).reserved / 16

/-- The buffers for arriving messages at an endpoint's NI (R332). -/
def rxRoom (e : Ep) : Nat :=
  if e.site = blockSite then (if isHub e.die then 256 else 64) else if e.port = portNear then 64 else 8

/-- The flow entries of an endpoint's NI (R332). -/
def flowRoom (e : Ep) : Nat :=
  if e.site = blockSite then (if isHub e.die then 256 else 128) else if e.port = portNear then 64 else 32

/-- Whether two messages belong to one flow: issuer and destination endpoint (R334). -/
def sameFlow (a b : Msg) : Bool := a.src == b.src && a.issuer == b.issuer && a.dst == b.dst

/-- Requests are the TYPE values below 0x80 (R318). -/
def isRequest (m : Msg) : Bool := decide (m.typ < 0x80)

/-- The packets of a message at its first router: one, or two for a FRAME or SUMMARY, requests on REQ_A and replies on RSP_A (R314, R317, R318). -/
def packetsOf (m : Msg) (vc : Nat) : List Packet :=
  let two := decide (16 < m.data.length)
  let p (i n : Nat) : Packet :=
    { msg := m, index := i, count := if two then 2 else 1, len := n, die := m.src.die, site := routerOf m.src, port := localPort m.src.die, vc := vc, exit := none, headerFlip := 0, dataFlips := [] }
  if two then [p 0 16, p 1 (m.data.length - 16)] else [p 0 m.data.length]

/-- One layer of a breadth-first search: the unseen neighbours of a frontier, each at the given distance. -/
def bfsLayer (nbrs : Nat → List Nat) (d : Nat) : List Nat → Tab Nat → List Nat → Tab Nat × List Nat
  | [], seen, acc => (seen, acc)
  | n :: ns, seen, acc =>
    let new := (nbrs n).filter (fun k => (Tab.find? k seen).isNone)
    bfsLayer nbrs d ns (new.foldl (fun t k => Tab.set k d t) seen) (acc ++ new)

/-- Distances from a start by breadth-first search, the fuel bounding the layers. -/
def bfs (nbrs : Nat → List Nat) : Nat → Nat → Tab Nat → List Nat → Tab Nat
  | 0, _, seen, _ => seen
  | f + 1, d, seen, frontier =>
    if frontier.isEmpty then seen
    else
      let r := bfsLayer nbrs d frontier seen []
      bfs nbrs f (d + 1) r.1 r.2

/-- Absolute difference. -/
def absDiff (a b : Nat) : Nat := (a - b) + (b - a)

/-- Distances on a die from a site over routers that the tables know as usable (R325): the grid distance when the die has no hole. -/
def siteDistance (s : State) (die a b : Nat) : Option Nat :=
  if s.net.tableHoles.any (fun k => k / 1024 == die) then
    Tab.find? b (bfs (fun n => (upTo 4).filterMap (fun dir => (siteNeighbour n dir).bind (fun k =>
      if s.net.tableHoles.contains (siteKey die k) then none else some k))) 480 1 [(a, 0)] [a])
  else some (absDiff (a / 24) (b / 24) + absDiff (a % 24) (b % 24))

/-- The key of a lane group at one end. -/
def groupKey (die edge group : Nat) : Nat := die * 32 + 6 * edge + group

/-- Whether the router at the far end of a lane group is one of the given holes: the X-tile that faces it, never a hub's router (R28, R304, R328). -/
def farHole (holes : List Nat) (die edge group : Nat) : Bool :=
  match dieNeighbour die edge with
  | some n => !(isHub n) && holes.contains (siteKey n (xSite (opposite edge) group))
  | none => false

/-- Whether a die-level edge has a lane group that the tables know as good, with no hole at either end (R325). -/
def edgeUsable (s : State) (die edge : Nat) : Bool :=
  match dieNeighbour die edge with
  | some n => !(s.net.tableFenced.contains n) && (upTo 6).any (fun g => !(s.net.tableLostGroups.contains (groupKey die edge g)) && !(farHole s.net.tableHoles die edge g)
      && (isHub die || !(s.net.tableHoles.contains (siteKey die (xSite edge g)))))
  | none => false

/-- Distance between dies over usable edges (R325). -/
def dieDistance (s : State) (a b : Nat) : Option Nat :=
  if s.net.tableFenced.isEmpty && s.net.tableLostGroups.isEmpty && s.net.tableHoles.isEmpty then
    some (absDiff (dieXY a).1 (dieXY b).1 + absDiff (dieXY a).2 (dieXY b).2)
  else Tab.find? b (bfs (fun n => (upTo 4).filterMap (fun e => if edgeUsable s n e then dieNeighbour n e else none)) 100 1 [(a, 0)] [a])

/-- Whether the route tables of a source's router lead to a destination: over dies, or over the sites of one die (R325, R347). -/
def routable (s : State) (src dst : Ep) : Bool :=
  isDie dst.die && (if src.die = dst.die then isHub src.die || (siteDistance s src.die (routerOf src) (routerOf dst)).isSome else (dieDistance s src.die dst.die).isSome)

/-- How the route tables as last written stand to a destination: FENCED, unreachable or reachable (R328, R347). -/
def routeStatus (s : State) (src dst : Ep) : Nat :=
  if s.net.tableFenced.contains dst.die || s.net.tableHoles.contains (siteKey dst.die (routerOf dst)) then 0x0508
  else if !routable s src dst then 0x0506 else 0

/-- A final reply made at the source NI itself (R338, R347). -/
def localReply (m : Msg) (code : Nat) : Msg :=
  { m with typ := 0x83, dst := m.src, src := m.dst, status := code, scode := false, data := [], dep := false, seq := 0, arg := 0 }

/-- Whether a request names an endpoint of a SUSPENDED region of its job (R450). -/
def toSuspended (s : State) (m : Msg) : Bool :=
  m.dst.site != blockSite && m.dst.port != portNear
    && List.any s.regions (fun (e : Nat × Region) => e.2.job == m.job && e.2.st == .suspended && e.2.bounds.holds m.dst.die m.dst.site)

/-- What a source NI answers itself to a request that does not leave: an error where its target is not VALID, REGION_PARTED where its region is SUSPENDED (R338, R347, R450). -/
def sourceReply (s : State) (m : Msg) : Option Msg :=
  if routeStatus s m.src m.dst ≠ 0 then some (localReply m (routeStatus s m.src m.dst))
  else if toSuspended s m then some { localReply m 3 with typ := 0x82 } else none

/-- Whether a stream has ended: it is complete, or stopped with its requests settled, and at most its record and its task's event are still to come (R265, R268, R273). -/
def Strm.over (x : Strm) : Bool :=
  match x.phase with
  | .recording _ _ => true
  | .faulted _ _ _ => true
  | _ => false

/-- Whether every stream that an issuer enqueued before its request of a given order has ended, none still on its way to its engine; a suspension ends the wait for those it scans out (R273, R274; log entry 88). -/
def streamsBefore (s : State) (e : Ep) (issuer n : Nat) : Bool :=
  let mine (x : Strm) : Bool := x.owner == some (e, issuer) && decide (x.serial < n) && !x.over
  List.all s.engines (fun (g : Nat × Engine) => !g.2.queue.any mine && !List.any g.2.slots (fun (x : Nat × Strm) => mine x.2))
    && (niOf s e.die e.site).out.all (fun o => !(o.msg.src == e && o.msg.issuer == issuer && o.msg.typ == 5 && o.msg.dst.port == portStream && decide (o.serial < n)))

/-- Whether the record writes of a queue's commands before the one that sent a message are visible (R273, R488). -/
def recordsBefore (s : State) (q msgId : Nat) : Bool :=
  ((Tab.get queueInitial q s.queues).cmds.takeWhile (fun c => c.msg != some msgId)).all (fun c => s.host.writes.all (fun w => w.use != .command q c.seq))

/-- Whether a request is a mull write to one of the spaces 0x00 to 0x06 or a kettle operation, which a MULL_FENCE covers (R273; DEDUCED, log entry 115). -/
def mullWrite (m : Msg) : Bool :=
  match m.typ with
  | 1 => [2, 4, 5, 6, 9].contains (fld (nth 0 0 (m.data.map BitVec.toNat)) 0 1)
  | 3 => m.dst.port != portHost
  | 4 => true
  | 8 => fld m.arg.toNat 0 1 != 1
  | 0x0A => !m.data.isEmpty && !(m.dst.port == portHost && m.dst.site == blockSite)
  | _ => false

/-- Whether a request is a write to host space, which a HOST_FENCE covers (R273). -/
def hostSpaceWrite (m : Msg) : Bool := m.typ == 3 && m.dst.port == portHost

/-- Whether a kettle signal with the release attribute may leave: every earlier operation of its issuer that a FULL_FENCE covers is done. No fence covers a stream engine's own operations, so its signals leave at once (R45, R258, R273). -/
def relReady (s : State) (die site : Nat) (o : Outst) : Bool :=
  let rel := o.msg.typ == 4 && bit o.msg.arg.toNat 8 && !(o.msg.src.port == portStream && o.msg.src.site != blockSite)
  !rel || (((niOf s die site).out.takeWhile (fun p => p.msg.msgId != o.msg.msgId)).all (fun p => !(p.msg.src == o.msg.src && p.msg.issuer == o.msg.issuer && (mullWrite p.msg || hostSpaceWrite p.msg)))
    && streamsBefore s o.msg.src o.msg.issuer o.serial && (o.msg.src.port != portHost || recordsBefore s o.msg.issuer o.msg.msgId))

/-- Whether a request of an NI is the oldest of its flow that has not left (R43, R334). -/
def nextOfFlow (ni : Ni) (o : Outst) : Bool :=
  (ni.out.takeWhile (fun p => p.msg.msgId != o.msg.msgId)).all (fun p => !(p.st == .queued && sameFlow p.msg o.msg))

/-- The first queued request of an NI that can be sent: the next of its flow, with room in the NI and fewer than 16 unacknowledged in its flow (R43, R332, R334). -/
def pumpStep (s : State) (die site : Nat) : State :=
  let ni := niOf s die site
  let sent := ni.out.filter (fun o => o.st != .queued)
  match ni.out.find? (fun o => o.st == .queued && nextOfFlow ni o && relReady s die site o && decide (sent.length < niRoom s die site)
      && decide ((sent.filter (fun p => sameFlow p.msg o.msg)).length < 16)) with
  | none => s
  | some o =>
    let fl := ni.txFlows.find? (fun f => f.src == o.msg.src && f.issuer == o.msg.issuer && f.dst == o.msg.dst)
    let seq := (fl.map TxFlow.next).getD 0
    let dep := sent.any (fun p => sameFlow p.msg o.msg)
    let m := { o.msg with seq := seq, dep := dep, attempt := 0 }
    let back := sourceReply s m
    let flows := { src := m.src, issuer := m.issuer, dst := m.dst, next := (seq + 1) % 65536 }
      :: ni.txFlows.filter (fun f => !(f.src == m.src && f.issuer == m.issuer && f.dst == m.dst))
    let s := modNi s die site (fun n => { n with
      txFlows := flows
      out := n.out.map (fun p => if p.msg.msgId = o.msg.msgId then { p with msg := m, st := .sent, first := s.now } else p)
      replies := n.replies ++ back.toList })
    if back.isNone then { s with net := { s.net with packets := s.net.packets ++ packetsOf m (if m.cfgm then 4 else 0) } } else s

/-- Queued requests of an NI sent as far as its room allows. -/
def pump : Nat → State → Nat → Nat → State
  | 0, s, _, _ => s
  | n + 1, s, die, site => pump n (pumpStep s die site) die site

/-- The MSG_ID that an NI's next request takes: the first from its counter on that no outstanding request has (R317). -/
def Ni.freeId (n : Ni) : Nat :=
  (((List.range (n.out.length + 1)).map (fun k => (n.nextId + k) % 65536)).find? (fun i => n.out.all (fun o => o.msg.msgId != i))).getD n.nextId

/-- A request given to its source NI, which numbers it and sends it when it has room (R317, R331, R334). -/
def sendReq (s : State) (src : Ep) (issuer job typ : Nat) (dst : Ep) (arg : BitVec 64) (data : List Word) : State :=
  let ni := niOf s src.die src.site
  let m : Msg :=
    { typ := typ, dst := dst, src := src, issuer := issuer, msgId := ni.freeId, seq := 0, attempt := 0, job := job, status := 0
      arg := arg, dep := false, cfgm := false, scode := false, data := data }
  let s := modNi s src.die src.site (fun n => { n with
    nextId := (n.freeId + 1) % 65536
    issued := n.issued + 1
    out := n.out ++ [{ msg := m, serial := ni.issued, first := s.now, partedSince := none, st := .queued, limit := if dst.port = portHost ∧ dst.site = blockSite then 50000000 else 2000000 }] })
  pump 1 s src.die src.site

/-- The MSG_ID that the next request of an endpoint's NI takes. -/
def nextMsgId (s : State) (src : Ep) : Nat := (niOf s src.die src.site).freeId

/-- The key of a message at its destination NI: source, ISSUER, MSG_ID (R320). -/
def sameMsg (a b : Msg) : Bool := a.src == b.src && a.issuer == b.issuer && a.msgId == b.msgId

/-- A reply sent from the destination of a request to its source, with its ARG; a broadcast request has none (R331, R341). -/
def emitReplyArg (s : State) (m : Msg) (typ status : Nat) (scode : Bool) (data : List Word) (arg : BitVec 64) : State :=
  if m.cfgm then s
  else
    let r : Msg := { m with typ := typ, dst := m.src, src := m.dst, seq := 0, status := status, scode := scode, dep := false, data := data, arg := arg }
    let s := if typ = 0x82 then telAdd s m.dst.die m.dst.site 0x50010 1 else s
    { s with net := { s.net with packets := s.net.packets ++ packetsOf r 2 } }

/-- A reply whose ARG is 0 (R331). -/
def emitReply (s : State) (m : Msg) (typ status : Nat) (scode : Bool) (data : List Word) : State := emitReplyArg s m typ status scode data 0

/-- A final reply: the request's buffer is freed and the reply leaves (R331, R333). -/
def reply (s : State) (m : Msg) (typ status : Nat) (scode : Bool) (data : List Word) : State :=
  let s := modNi s m.dst.die m.dst.site (fun n => { n with rx := n.rx.filter (fun b => !sameMsg b.msg m) })
  emitReply s m typ status scode data

/-- ACK (R318). -/
def ack (s : State) (m : Msg) : State := reply s m 0x80 0 false []

/-- DATA with words (R318). -/
def answer (s : State) (m : Msg) (data : List Word) : State := reply s m 0x81 0 false data

/-- ERROR with an event code (R331). -/
def errorEvent (s : State) (m : Msg) (code : Nat) : State := reply s m 0x83 code false []

/-- ERROR with an event code and the position of the word it concerns in its ARG (R266, R317, R331; DESIGN CHOICE, log entry 89). -/
def errorAt (s : State) (m : Msg) (code k : Nat) : State :=
  let s := modNi s m.dst.die m.dst.site (fun n => { n with rx := n.rx.filter (fun b => !sameMsg b.msg m) })
  emitReplyArg s m 0x83 code false [] (BitVec.ofNat 64 k)

/-- ERROR with a status of R499, SCODE set (R331). -/
def errorStatus (s : State) (m : Msg) (status : Nat) : State := reply s m 0x83 status true []

/-- REFUSED with its reason, the buffer freed (R331, R333). -/
def refuse (s : State) (m : Msg) (reason : Nat) : State := reply s m 0x82 reason false []

/-- HELD: the message keeps its buffer (R336). -/
def hold (s : State) (m : Msg) : State :=
  let s := modNi s m.dst.die m.dst.site (fun n => { n with rx := n.rx.map (fun b => if sameMsg b.msg m then { b with stage := .held } else b) })
  emitReply s m 0x84 0 false []

/-- Whether a request is a RELEASE, which a parted region still takes: it left before the region's parting could begin (R352, R369; DEDUCED, log entry 118). -/
def isReleaseMsg (m : Msg) : Bool := m.typ == 4 && bits m.arg.toNat 7 0 == 5

/-- Whether a request to a site is refused because its region is parted (R337, R369). -/
def partRefuses (s : State) (m : Msg) : Bool := m.dst.site != blockSite && m.dst.port != portNear && siteParted s m.dst.die m.dst.site && !isReleaseMsg m

/-- A message applied at its destination unit: a fenced tile answers UNIT_FENCED, a parted region refuses, another job's endpoint or a free kettle is a mismatch, and otherwise the unit acts (R324, R337, R338, R362). -/
def applyMsg (s : State) (m : Msg) (f : State → State) : Host.Outcome State Fault Refusal :=
  if !epExists m.dst then .fault (.noSuchUnit m.dst.die m.dst.site)
  else .next (
    if m.dst.site ≠ blockSite ∧ (dieOf s m.dst.die).fencedSites.contains m.dst.site then errorEvent s m 0x0508
    else if partRefuses s m then refuse s m 3
    else match epOwner s m.dst with
      | some j =>
        if j = m.job ∨ (m.job = 0 ∧ j ≠ 64) then f s
        else raiseContained (errorEvent s m 0x0503) 0x0503 m.job m.dst.die (if m.dst.site = blockSite then 2 else 1)
          (if m.dst.site = blockSite then 0 else m.dst.site) 0
      | none => f s)

/-- An operation of a unit at a site of the given kind, none other existing (R26). -/
def onSite (die site : Nat) (kinds : List SiteKind) (r : State) : Host.Outcome State Fault Refusal :=
  match siteKind site with
  | some k => if isCompute die && kinds.contains k then .next r else .fault (.noSuchUnit die site)
  | none => .fault (.noSuchUnit die site)

/-- An operation of a die's block. -/
def onDie (die : Nat) (r : State) : Host.Outcome State Fault Refusal :=
  if isDie die then .next r else .fault (.noSuchUnit die blockSite)

/-- The next free value, with the counter advanced (log entry 5). -/
def takeFree (s : State) : State × BitVec 64 := ({ s with freeCtr := s.freeCtr + 1 }, Config.freeValue s.freeCtr)

/-- Whether the CXL link is up (R504). -/
def linkIsUp (s : State) : Bool := s.link.up

/-- A write of host memory begun; its bytes take effect when its GO arrives (R255). -/
def hostWrite (s : State) (a : Nat) (bs : List Byte) (use : WriteFor) : State :=
  { s with host := { s.host with writes := s.host.writes ++ [{ id := s.host.nextId, addr := a, bytes := bs, use := use, since := s.now }], nextId := s.host.nextId + 1 } }

/-- A read of host memory begun (R255). -/
def hostRead (s : State) (a n : Nat) (use : ReadFor) : State :=
  { s with host := { s.host with reads := s.host.reads ++ [{ id := s.host.nextId, addr := a, bytes := n, use := use, since := s.now }], nextId := s.host.nextId + 1 } }

/-- Bytes written by the headstock or an engine to a device address of DRAM, scratchpad or host space (R226). -/
def writeDeviceFor (s : State) (a : Nat) (bs : List Byte) (use : WriteFor) : State :=
  match placeOf s a with
  | .near d o c => storeBytes (biNote s (Place.near d o c).home bs.length) (Place.near d o c).home bs
  | .far hc o => storeBytes (biNote s (Place.far hc o).home bs.length) (Place.far hc o).home bs
  | .unbacked => s
  | .other => if spaceOf a = 8 then hostWrite s a bs use else storeBytes s a bs

/-- Bytes written by the headstock. -/
def writeDevice (s : State) (a : Nat) (bs : List Byte) : State := writeDeviceFor s a bs .headstock

/-- Whether a single host window of a job holds a range with the access asked for: bit 0 R, bit 1 W (R251, R496). -/
def inHostWindow (s : State) (job a n : Nat) (write : Bool) : Bool :=
  (jobOf s job).windows.any (fun e => decide (e.2.1 ≤ a) && decide (a + n ≤ e.2.1 + e.2.2.1) && bit e.2.2.2 (if write then 1 else 0))

/-- Whether an access to host space is admitted: job 0's is, another job's within one of its windows (R231, R496). -/
def windowHolds (s : State) (job a n : Nat) (write : Bool) : Bool := job == 0 || inHostWindow s job a n write

/-- The ARG of a kettle operation (R352). -/
def kettleArg (kop : Nat) (rel : Bool) (operand : Nat) : BitVec 64 :=
  BitVec.ofNat 64 (kop + (if rel then 256 else 0) + operand % 2 ^ 32 * 2 ^ 32)

/-- A kettle operation sent by an issuer to the kettle that a rank names; a rank that names none is not sent (R324, R352). -/
def sendKettle (s : State) (src : Ep) (issuer job rank kop : Nat) (rel : Bool) (operand : Nat) : State :=
  match rankEp s job rank with
  | some e => if e.port = portKettle then sendReq s src issuer job 4 e (kettleArg kop rel operand) [] else s
  | none => s

/-- A tile site's endpoint. -/
def tileEp (die site ctx : Nat) : Ep := { die := die, site := site, port := portTile, index := ctx }

/-- A signal of +1 by a tile site's unit on a kettle rank of its job (R351). -/
def siteSignal (s : State) (die site issuer rank : Nat) (rel : Bool) : State :=
  sendKettle s (tileEp die site issuer) issuer (siteJob s die site) rank 1 rel 1

/-- Whether a tile works: its region runs and neither the tile nor its die is fenced, nor its site clock-gated (R407, R414, R544). -/
def siteRuns (s : State) (die site : Nat) : Bool :=
  (match regionAt s die site with
  | some (_, r) => r.st == .running
  | none => false) && !(dieOf s die).fencedSites.contains site && !(dieOf s die).fenced && !siteGated s die site

/-- A sink's freed places, owed to its circuit's source (R286). -/
def freePlaces (s : State) (die site tport ctx n : Nat) : State :=
  { s with grain := match Tab.find? (siteKey die site) s.grain with
    | none => s.grain
    | some g => Tab.set (siteKey die site) { g with eps := g.eps.map (fun (e : Nat × GrainEp) =>
        if e.2.kind = 2 ∧ e.2.tport = tport ∧ e.2.ctx = ctx then (e.1, { e.2 with credits := e.2.credits + n, owed := e.2.owed + n }) else e) } s.grain }

/-- The issue level of a die in an A-clock cycle of the given slot: a new one applies from the first slot 0 after its sample (R579). -/
def dieLevel (s : State) (die slot : Nat) : Nat :=
  let d := dieOf s die
  if slot = 0 ∨ d.levelAt + 6 ≤ s.now then d.levelNext else d.level

/-- Whether M-, V- and F-tiles issue in an A-clock cycle of the given slot (R579). -/
def issueOpen (s : State) (die slot : Nat) : Bool :=
  decide (slot < 16) && decide (slot * dieLevel s die slot / 16 < (slot + 1) * dieLevel s die slot / 16)

/-- The key of a package register among the TEL registers, by its offset in BAR0. -/
def pkgKey (off : Nat) : Nat := 2 ^ 40 + off

/-- A package counter raised by n (R549, R582). -/
def pkgAdd (s : State) (off n : Nat) : State :=
  if n = 0 then s else { s with tel := Tab.modify 0 (pkgKey off) (fun r => telRaise r n) s.tel }

/-- Codewords decoded one by one: whether all can be used, how many were corrected, and the flips that remain in each word's data (R237). -/
def dataDecodeList (flips : List Nat) : Bool × Nat × List Nat :=
  flips.foldl (fun r f => match decodePattern f with
    | .clean => (r.1, r.2.1, r.2.2 ++ [f % 2 ^ 256])
    | .corrected q => (r.1, r.2.1 + 1, r.2.2 ++ [q % 2 ^ 256])
    | .uncorrectable => (false, r.2.1, r.2.2 ++ [0])) (true, 0, [])

end Sys2Proof.Machine
end

