-- ==== Sys2Proof/Machine/Flash.lean ====
section
/-! DEFINITION. Sys2Proof/Machine/Flash.lean: the boot flash: its records, boot record copies, unit log, firmware images and identity record, and what fencing a unit in service writes (R507 to R511, R518, R519, R521, R529, R530, R545). -/

namespace Sys2Proof.Machine

/-- Offsets of the areas of the flash (R508). -/
def slotBase (slot : Nat) : Nat := 0x01000000 + slot * 0x04000000
def unitLogBase : Nat := 0x0D000000
def identityBase : Nat := 0x0D800000
def keyLogBase : Nat := 0x0D900000

/-- Positions of an area, by number, that hold a byte other than 0xFF, ascending; positions are size bytes long. -/
def usedPositions (flash : List Host.Cell) (base size count : Nat) : List Nat :=
  (flash.filterMap (fun c => if base ≤ c.1 ∧ c.1 < base + size * count then some ((c.1 - base) / size) else none)).eraseDups

/-- The lowest position of an area whose bytes all read 0xFF (R509). -/
def erasedPosition (flash : List Host.Cell) (base size count : Nat) : Option Nat :=
  let used := usedPositions flash base size count
  (upTo count).find? (fun p => !used.contains p)

/-- Whether 64 bytes are a record that exists: COMMIT is 0, and MAGIC and CRC match (R509). -/
def recordExists (r : List Byte) : Bool :=
  let n := leNat r
  fld n 60 4 == 0 && fld n 0 4 == 0x4B524C48 && fld n 56 4 == crc32 (r.take 56)

/-- Whether 64 bytes have COMMIT set and fail their CRC (R509). -/
def recordCorrupt (r : List Byte) : Bool :=
  let n := leNat r
  fld n 60 4 == 0 && fld n 0 4 == 0x4B524C48 && fld n 56 4 != crc32 (r.take 56)

/-- The records of an area of 64-byte positions that exist, as numbers, in address order (R509). -/
def areaRecords (flash : List Host.Cell) (base count : Nat) : List Nat :=
  (usedPositions flash base 64 count).filterMap (fun p =>
    let r := flashGet flash (base + 64 * p) 64
    if recordExists r then some (leNat r) else none)

/-- A record's 64 bytes, committed (R509). -/
def recordOf (typ seq body : Nat) : List Byte :=
  let r := leBytes 4 0x4B524C48 ++ leBytes 1 typ ++ leBytes 1 1 ++ leBytes 2 0 ++ leBytes 8 seq ++ leBytes 40 body
  r ++ leBytes 4 (crc32 r) ++ leBytes 4 0

/-- Bytes of flash erased (R507). -/
def flashErase (flash : List Host.Cell) (base n : Nat) : List Host.Cell := flash.filter (fun c => !(decide (base ≤ c.1) && decide (c.1 < base + n)))

/-- The latest record of a boot record copy (R510). -/
def latestBoot (flash : List Host.Cell) (copy : Nat) : Option Nat :=
  ((areaRecords flash (0x10000 * copy) 1024).filter (fun r => fld r 4 1 == 1)).foldl (fun best r =>
    match best with
    | some b => if fld b 8 8 < fld r 8 8 then some r else best
    | none => some r) none

/-- The boot record in force: the latest of the copies with the higher SEQ, copy 0 on a tie (R510). -/
def bootInForce (flash : List Host.Cell) : Option Nat :=
  match latestBoot flash 0, latestBoot flash 1 with
  | some a, some b => if fld a 8 8 < fld b 8 8 then some b else some a
  | some a, none => some a
  | none, b => b

/-- Body of a boot record (R511). -/
def bootBody (active fail reason starts : Nat) : Nat := active + 2 ^ 8 * min 255 fail + 2 ^ 16 * reason + 2 ^ 32 * min (2 ^ 32 - 1) starts

/-- A boot record written into the copy whose latest record has the lower SEQ, whose block is erased first when full; its SEQ (R510). -/
def putBoot (flash : List Host.Cell) (body : Nat) : List Host.Cell × Nat :=
  let seqOf (c : Nat) : Option Nat := (latestBoot flash c).map (fun r => fld r 8 8)
  let copy := match seqOf 0, seqOf 1 with
    | some a, some b => if b < a then 1 else 0
    | some _, none => 1
    | none, _ => 0
  let seq := match seqOf 0, seqOf 1 with
    | some a, some b => max a b + 1
    | some a, none => a + 1
    | none, some b => b + 1
    | none, none => 0
  let base := 0x10000 * copy
  match erasedPosition flash base 64 1024 with
  | some p => (flashPutList flash (base + 64 * p) (recordOf 1 seq body), seq)
  | none => (flashPutList (flashErase flash base 0x10000) base (recordOf 1 seq body), seq)

/-- FLASH_WRITE_FAILED at an offset (R522). -/
def flashFailed (s : State) (off : Nat) : State := raiseCorrected s 0x001B 0 0x60 9 0 off

/-- A boot record written, or the failure reported where the flash does not program; whether it was written, and its SEQ. -/
def writeBoot (s : State) (body : Nat) : State × Option Nat :=
  if s.boot.flashOk then
    let p := putBoot s.flash body
    ({ s with flash := p.1 }, some p.2)
  else (flashFailed s 0, none)

/-- Positions of the unit log (R518). -/
def unitLogSize : Nat := 131072

/-- The records of the unit log (R518). -/
def unitLog (flash : List Host.Cell) : List Nat := areaRecords flash unitLogBase unitLogSize

/-- The fence records of a log (R518). -/
def fenceRecords (log : List Nat) : List Nat := log.filter (fun r => fld r 4 1 == 3)

/-- Whether a fence record names a unit. -/
def fencedByRecord (log : List Nat) (die unit index : Nat) : Bool :=
  (fenceRecords log).any (fun r => fld r 16 1 == die && fld r 17 1 == unit && fld r 18 2 == index)

/-- A record appended to the unit log; a repair record only while the reserve of fence records stays whole (R518). -/
def appendUnit (s : State) (typ body : Nat) : State :=
  let used := (usedPositions s.flash unitLogBase 64 unitLogSize).length
  let fences := (fenceRecords (unitLog s.flash)).length
  let full := if typ = 2 then decide (unitLogSize - used ≤ 100352 - fences) else decide (unitLogSize ≤ used)
  if full then raiseCorrected s 0x001C 0 0x60 9 0 0
  else
    match erasedPosition s.flash unitLogBase 64 unitLogSize with
    | none => s
    | some p =>
      if s.boot.flashOk then { s with flash := flashPutList s.flash (unitLogBase + 64 * p) (recordOf typ ((unitLog s.flash).length) body) }
      else flashFailed s (unitLogBase + 64 * p)

/-- A repair record (R218, R240, R518). -/
def appendRepair (s : State) (die ch bank row : Nat) : State := appendUnit s 2 (die + 2 ^ 8 * ch + 2 ^ 16 * bank + 2 ^ 32 * row)

/-- A unit fenced in service: the map has changed, and a fence record is appended unless the fence is thermal or one names the unit (R518, R519, R545). -/
def unitFenced (s : State) (die unit index : Nat) (thermal : Bool) : State :=
  let s := { s with boot := { s.boot with changes := s.boot.changes + 1, changeTime := s.now } }
  if thermal || fencedByRecord (unitLog s.flash) die unit index then s
  else appendUnit s 3 (die + 2 ^ 8 * unit + 2 ^ 16 * index + 2 ^ 32)

/-- The check of an image's header, key and body (R521): none when it checks, else the reason code; a COMMIT that is erased passes where it may. -/
def slotCheck (flash : List Host.Cell) (base : Nat) (erasedToo : Bool) : Option Nat :=
  let hb := flashGet flash base 256
  let h := leNat hb
  let size := fld h 16 8
  let pub := (hb.drop 24).take 32
  if fld h 0 4 ≠ 0x4B545348 ∨ fld h 4 2 ≠ 1 ∨ fld h 6 2 ≠ 0 ∨ size < 65536 ∨ 67043328 < size ∨ size % 65536 ≠ 0 ∨ fld h 184 64 ≠ 0
      ∨ (fld h 248 8 ≠ 0 ∧ !(erasedToo && fld h 248 8 == 2 ^ 64 - 1)) then some 2
  else if !((upTo 4).any (fun k => (Config.sha512 pub).toNat == Config.romKey k)) || !Config.ed25519 pub (hb.take 120) ((hb.drop 120).take 64) then some 3
  else if (Config.sha512 (flashGet flash (base + 0x10000) size)).toNat ≠ fld h 56 64 then some 4
  else none

/-- VERSION and BODY_DIGEST of an image (R521). -/
def slotVersion (flash : List Host.Cell) (base : Nat) : Nat := leNat (flashGet flash (base + 8) 8)
def slotDigest (flash : List Host.Cell) (base : Nat) : Nat := leNat (flashGet flash (base + 56) 64)

/-- Whether the identity record exists (R529). -/
def identityOk (flash : List Host.Cell) : Bool :=
  let h := leNat (flashGet flash identityBase 64)
  let helper := fld h 8 4
  let chain := fld h 12 4
  fld h 0 4 == 0x54444948 && fld h 4 2 == 1 && fld h 60 4 == 0 && decide (helper ≤ 16384) && decide (chain ≤ 65536)
    && fld h 56 4 == crc32 (flashGet flash identityBase 56 ++ flashGet flash (identityBase + 64) (192 + helper + chain))

/-- SERIAL and the DER chain of the identity record (R529). -/
def packageSerial (s : State) : Nat := leNat (flashGet s.flash (identityBase + 48) 8)
def identityChain (flash : List Host.Cell) : List Byte :=
  flashGet flash (identityBase + 256 + leNat (flashGet flash (identityBase + 8) 4)) (leNat (flashGet flash (identityBase + 12) 4))

/-- The signature of an image-key record verifies under its signer (R530). -/
def keyRecordSigned (r : List Byte) : Bool :=
  Config.ed25519 ((r.drop 832).take 32) (r.take 56 ++ (r.drop 64).take 800) ((r.drop 864).take 64)

/-- The keys of an image-key record with their KFLAGS (R530). -/
def keyEntries (r : List Byte) : List (Nat × Nat) :=
  (upTo (leNat ((r.drop 16).take 1))).map (fun i => (leNat ((r.drop (64 + 48 * i)).take 32), leNat ((r.drop (96 + 48 * i)).take 1)))

/-- Whether an image-key record may come into force after a list: COUNT and signature good, its signer a ROM firmware key or an OWNER of the list (R530). -/
def keyRecordOk (keys : List (Nat × Nat)) (r : List Byte) : Bool :=
  let n := leNat (r.take 64)
  let pub := (r.drop 832).take 32
  fld n 0 4 == 0x4B524C48 && fld n 4 1 == 0x10 && fld n 5 1 == 1 && decide (1 ≤ fld n 16 1) && decide (fld n 16 1 ≤ 16) && fld n 56 4 == crc32 (r.take 56)
    && ((upTo 4).any (fun k => (Config.sha512 pub).toNat == Config.romKey k) || keys.any (fun k => k.1 == leNat pub && bit k.2 1))
    && keyRecordSigned r

/-- The image-key records of the flash that exist, in increasing SEQ (R530). -/
def keyRecords (flash : List Host.Cell) : List (List Byte) :=
  let rs := (usedPositions flash keyLogBase 4096 256).map (fun p => flashGet flash (keyLogBase + 4096 * p) 4096)
  let rs := rs.filter (fun r => recordExists (r.take 64))
  let seq (r : List Byte) : Nat := leNat ((r.drop 8).take 8)
  rs.foldr (fun r l => (l.takeWhile (fun x => decide (seq x < seq r))) ++ r :: l.dropWhile (fun x => decide (seq x < seq r))) []

/-- The key list in force after taking records in turn: keys, SEQ and the record as a number (R530). -/
def keysInForce (rs : List (List Byte)) : List (Nat × Nat) × Nat × Nat :=
  rs.foldl (fun cur r => if keyRecordOk cur.1 r then (keyEntries r, leNat ((r.drop 8).take 8), leNat r) else cur) ([], 0, 0)

end Sys2Proof.Machine
end

