-- ==== Sys2Proof/Machine/Scratch.lean ====
section
/-! DEFINITION. Sys2Proof/Machine/Scratch.lean: S-tiles: tags, quires, commands, grain access channels, the gather buffer and bank grants (R173 to R209). -/

namespace Sys2Proof.Machine

/-- Status values (R499). -/
def stBadField : Nat := 0x0102
def stWrongState : Nat := 0x0301

/-- An S-tile. -/
def spOf (s : State) (die site : Nat) : STile := Tab.get sTileInitial (siteKey die site) s.sTiles

/-- An S-tile replaced. -/
def setSp (s : State) (die site : Nat) (t : STile) : State := { s with sTiles := Tab.set (siteKey die site) t s.sTiles }

/-- The device address of a slot of an S-tile (R174, R175). -/
def slotAddr (die site slot : Nat) : Nat := spAddr die (spOrdinal site) (32 * slot)

/-- The used range that holds a slot (R181). -/
def STile.rangeAt (t : STile) (slot : Nat) : Option SpRange :=
  t.ranges.find? (fun r => (r.kind == 1 || r.kind == 2) && decide (r.base ≤ slot) && decide (slot < r.base + r.count))

/-- Whether a slot lies in a TAGGED range (R182). -/
def STile.tagged (t : STile) (slot : Nat) : Bool := ((t.rangeAt slot).map (fun r => r.kind == 1)).getD false

/-- A slot's tag, 0 being EMPTY and k being FULL(k); a slot of no TAGGED range reads as 0 (R182). -/
def STile.tag (t : STile) (slot : Nat) : Nat := if t.tagged slot then Tab.get 0 slot t.tags else 0

/-- A quire's FULL counts moved when a slot of one of its leaves fills or empties (R193). -/
def Quire.recount (q : Quire) (slot : Nat) (wasFull isFull : Bool) : Quire :=
  let move (n : Nat) : Nat := if isFull && !wasFull then n + 1 else if wasFull && !isFull then n - 1 else n
  if !q.en then q
  else if q.base ≤ slot ∧ slot < q.base + q.leafSlots then { q with full0 := move q.full0 }
  else if q.base + q.leafSlots ≤ slot ∧ slot < q.base + 2 * q.leafSlots then { q with full1 := move q.full1 }
  else q

/-- A tag set, with the FULL counts of the quires that hold the slot (R184, R193). -/
def STile.setTag (t : STile) (slot k : Nat) : STile :=
  let was := decide (0 < Tab.get 0 slot t.tags)
  { t with
    tags := if k = 0 then Tab.erase slot t.tags else Tab.set slot k t.tags
    quires := if t.tagged slot then t.quires.map (fun e => (e.1, e.2.recount slot was (decide (0 < k)))) else t.quires }

/-- The tag after a read under a mode, none where the read waits: 0 COUNTED, 1 OBSERVE, 2 RAW (R183, R184). -/
def readTag (mode k : Nat) : Option Nat :=
  match mode with
  | 0 => if k = 0 then none else some (k - 1)
  | 1 => if k = 0 then none else some k
  | _ => some k

/-- The tag after a write under a mode, none where the write waits: 0 COUNTED, 1 SET_EMPTY, 2 RAW, 3 SET_FULL (R183, R184). -/
def writeTag (mode readers k : Nat) : Option Nat :=
  match mode with
  | 0 => if k = 0 then some readers else none
  | 1 => some 0
  | 2 => some k
  | _ => some readers

/-- Words granted to the narrow sources of an S-tile counted (R176, R209). -/
def narrowWords (s : State) (die site n : Nat) : State := telAdd s die site 0x188 n

/-- Whether a read of a slot is eligible (R184, R185). -/
def STile.readReady (t : STile) (slot mode : Nat) : Bool := !t.tagged slot || (readTag mode (t.tag slot)).isSome

/-- Whether a write of a slot is eligible (R184, R185). -/
def STile.writeReady (t : STile) (slot mode : Nat) : Bool :=
  !t.tagged slot || (writeTag mode (((t.rangeAt slot).map SpRange.readers).getD 0) (t.tag slot)).isSome

/-- Bytes of b where a mask's bit is set, else of a. -/
def mergeMask (a b : Word) (mask : Nat) : Word :=
  BitVec.ofNat 256 (leNat ((upTo 32).map (fun i => BitVec.ofNat 8 (if bit mask i then b.toNat / 2 ^ (8 * i) else a.toNat / 2 ^ (8 * i)))))

/-- A granted read: its tag change, the word with an open RAW gather entry merged in, and SP_UNCORRECTABLE where the word cannot be corrected (R184, R203, R205). -/
def spReadFor (defers : Bool) (s : State) (die site slot mode : Nat) : State × Option Word :=
  let t := spOf s die site
  let r := decodeAt s (slotAddr die site slot)
  let s := if r.2.2 then telAdd r.1 die site 0x1A8 1 else r.1
  match r.2.1 with
  | none => (raiseSiteFor defers s 0x0120 die site (slotAddr die site slot), none)
  | some w =>
    let s := if t.tagged slot then setSp s die site (t.setTag slot ((readTag mode (t.tag slot)).getD 0)) else s
    match t.gather.find? (fun g => g.slot == slot && !g.counted) with
    | some g => (s, some (mergeMask w g.bytes g.mask))
    | none => (s, some w)

/-- A granted read of a circuit, a context or a command of the job's own (R205). -/
def spRead (s : State) (die site slot mode : Nat) : State × Option Word := spReadFor false s die site slot mode

/-- A granted full-word write: the word, its tag change, and any open gather entry of the slot discarded (R184, R203). -/
def spWrite (s : State) (die site slot mode : Nat) (w : Word) : State :=
  let t := spOf s die site
  let t := { t with gather := t.gather.filter (fun g => g.slot != slot) }
  let t := if t.tagged slot then t.setTag slot ((writeTag mode (((t.rangeAt slot).map SpRange.readers).getD 0) (t.tag slot)).getD 0) else t
  storeWord (setSp s die site t) (slotAddr die site slot) w

/-- A raw read, merge and write of bytes of a slot, its tag unchanged; a word that cannot be corrected is reported and stays (R201, R205). -/
def spMerge (s : State) (die site slot : Nat) (bytes : Word) (mask : Nat) : State :=
  let r := decodeAt (narrowWords s die site 2) (slotAddr die site slot)
  match r.2.1 with
  | none => raiseSite r.1 0x0120 die site (slotAddr die site slot)
  | some w => storeWord (if r.2.2 then telAdd r.1 die site 0x1A8 1 else r.1) (slotAddr die site slot) (mergeMask w bytes mask)

/-- Fields of an S-tile command word (R196). -/
def spWord (m : Msg) : Nat := (nth 0 0 (m.data.map BitVec.toNat))
def spOp (m : Msg) : Nat := fld (spWord m) 0 1
def spFlags (m : Msg) : Nat := fld (spWord m) 1 1
def spMode (m : Msg) : Nat := bits (spFlags m) 3 2
def spSrcMode (m : Msg) : Nat := bits (spFlags m) 5 4
def spKettle (m : Msg) : Nat := fld (spWord m) 2 2
def spSlot (m : Msg) : Nat := fld (spWord m) 4 4
def spCount (m : Msg) : Nat := fld (spWord m) 8 4
def spSrcSlot (m : Msg) : Nat := fld (spWord m) 12 4
def spGen (m : Msg) : Nat := fld (spWord m) 16 4
def spByteOff (m : Msg) : Nat := fld (spWord m) 20 1
def spBytes (m : Msg) : Nat := fld (spWord m) 21 1
def spPattern (m : Msg) : Nat := fld (spWord m) 24 8

/-- An S-tile command word (R196). -/
def spCommand (op mode slot count : Nat) : Word :=
  BitVec.ofNat 256 (op + (mode % 4) * 4 * 2 ^ 8 + slot * 2 ^ 32 + count * 2 ^ 64)

/-- The byte mask of a narrow operation. -/
def narrowMask (m : Msg) : Nat := (2 ^ spBytes m - 1) * 2 ^ spByteOff m

/-- Whether every slot of a run lies in a used range; job 0 is not held to it (R181). -/
def slotsAdmitted (t : STile) (job first count : Nat) : Bool :=
  job == 0 || (upTo count).all (fun i => (t.rangeAt (first + i)).isSome)

/-- The checks that make a command malformed; a LEAF_SWAP or QUIRE_QUERY of a quire that is not enabled is one (R181, R197 to R202; DESIGN CHOICE, log entry 113). -/
def spMalformed (s : State) (m : Msg) : Bool :=
  let t := spOf s m.dst.die m.dst.site
  let run (n : Nat) : Bool := decide (spSlot m + n ≤ 65536) && slotsAdmitted t m.job (spSlot m) n
  let narrow : Bool := [1, 2, 4, 8, 16].contains (spBytes m) && spByteOff m % (max 1 (spBytes m)) == 0 && decide (spByteOff m + spBytes m ≤ 32) && run 1
  bit (spFlags m) 7 || fld (spWord m) 22 2 != 0 ||
  (match spOp m with
  | 1 => !(decide (1 ≤ spCount m) && decide (spCount m ≤ 16) && run (spCount m) && spMode m != 3)
  | 2 => !(decide (1 ≤ spCount m) && decide (spCount m ≤ 15) && run (spCount m) && m.data.length == spCount m + 1)
  | 3 => !(narrow && (spMode m == 1 || spMode m == 2))
  | 4 => !(narrow && m.data.length == 2 && (t.gatherMode || spMode m == 2))
  | 5 => !(decide (1 ≤ spCount m) && decide (spCount m ≤ 65536) && run (spCount m))
  | 6 => !(decide (1 ≤ spCount m) && decide (spCount m ≤ 65536) && run (spCount m) && spSrcMode m != 3
      && decide (spSrcSlot m + spCount m ≤ 65536) && slotsAdmitted t m.job (spSrcSlot m) (spCount m)
      && (decide (spSrcSlot m + spCount m ≤ spSlot m) || decide (spSlot m + spCount m ≤ spSrcSlot m)))
  | 7 => !(decide (spSlot m < 16) && (Tab.get quireInitial (spSlot m) t.quires).en)
  | 8 => !(decide (spSlot m < 16) && (Tab.get quireInitial (spSlot m) t.quires).en)
  | 9 => false
  | _ => true)

/-- A quire's entry. -/
def STile.quire (t : STile) (q : Nat) : Quire := Tab.get quireInitial q t.quires

/-- Slots FULL in the read leaf (R193, R194). -/
def Quire.readFull (q : Quire) : Nat := if q.wleaf = 0 then q.full1 else q.full0

/-- A stream engine replaced. -/
def setEn (s : State) (die site : Nat) (e : Engine) : State := { s with engines := Tab.set (siteKey die site) e s.engines }

/-- Whether a site holds a stream engine (R244). -/
def hasEngine (die site : Nat) : Bool := isCompute die && (siteKind site == some .dpTile || siteKind site == some .xTile)

/-- Whether a site's engine is an X-tile's. -/
def engineX (site : Nat) : Bool := siteKind site == some .xTile

/-- A field of a stream descriptor (R248). -/
def Strm.f (x : Strm) (off size : Nat) : Nat := fld x.desc.toNat off size
def Strm.isLoad (x : Strm) : Bool := x.f 0 1 == 1
def Strm.task (x : Strm) : Nat := x.f 8 2

/-- A dimension's stride, start and count (R249). -/
def dimStride (d : BitVec 1280) (k : Nat) : Int := toSigned 64 (fld d.toNat (64 + 16 * k) 8)
def dimStart (d : BitVec 1280) (k : Nat) : Nat := fld d.toNat (72 + 16 * k) 4
def dimCount (d : BitVec 1280) (k : Nat) : Nat := fld d.toNat (76 + 16 * k) 4

/-- Words in a pass (R251). -/
def passWords (d : BitVec 1280) : Nat := (upTo 6).foldl (fun n k => n * dimCount d k) 1

/-- Whether an engine works: its site's region runs, or the stream is of a job that holds no region there. -/
def engineRuns (s : State) (die site : Nat) : Bool :=
  !siteParted s die site && !(dieOf s die).fenced && !(dieOf s die).fencedSites.contains site

/-- An active stream. -/
def slotOf (s : State) (die site slot : Nat) : Option Strm := Tab.find? slot (enOf s die site).slots

/-- An active stream updated. -/
def modSlot (s : State) (die site slot : Nat) (f : Strm → Strm) : State :=
  let e := enOf s die site
  match Tab.find? slot e.slots with
  | some x => setEn s die site { e with slots := Tab.set slot (f x) e.slots }
  | none => s

/-- The local slot of word n of a DP stream (R257). -/
def localSlot (x : Strm) (base n : Nat) : Nat := base + x.f 12 4 + n % max 1 (x.f 16 4)

/-- Whether the local access of word n may be made, with the leaf base it uses and whether it begins a fill (R257, R258). -/
def fillReady (t : STile) (x : Strm) (n : Nat) : Option (Nat × Bool) :=
  if x.f 10 1 = 0xFF then some (0, false)
  else
    let q := t.quire (x.f 10 1)
    match x.leaf with
    | some b => some (b, false)
    | none =>
      let leaf := if x.isLoad then q.wleaf else 1 - q.wleaf
      if n % max 1 (x.f 16 4) = 0 ∧ x.genSeen = some q.gen then none else some (q.base + leaf * q.leafSlots, true)

/-- Fields of a channel descriptor (R187). -/
def Chan.f (c : Chan) (off size : Nat) : Nat := fld c.desc.toNat off size

/-- Whether a channel is enabled and neither done nor faulted. -/
def Chan.live (c : Chan) : Bool := bit (c.f 0 1) 0 && !c.done && !c.faulted

/-- Whether a channel writes. -/
def Chan.writes (c : Chan) : Bool := bit (c.f 0 1) 1

/-- Rows of a transpose block: 16, 8, or 0 for STRIDED (R189). -/
def Chan.blockRows (c : Chan) : Nat := if c.f 1 1 = 1 then 16 else if c.f 1 1 = 2 then 8 else 0

/-- Words of one run (R187). -/
def Chan.runWords (c : Chan) : Nat := c.f 20 4 * c.f 28 4 * max 1 c.blockRows

/-- The first slot of the leaf that a channel's run addresses, resolved at its first access (R195). -/
def chanBase (t : STile) (c : Chan) : Nat :=
  match c.leafBase with
  | some b => b
  | none =>
    if c.f 4 1 = 0xFF then 0
    else
      let q := t.quire (c.f 4 1)
      let leaf := if c.writes then q.wleaf else 1 - q.wleaf
      q.base + leaf * q.leafSlots

/-- The slot of word p of a STRIDED run (R188). -/
def stridedSlot (t : STile) (c : Chan) (p : Nat) : Nat :=
  chanBase t c + c.f 12 4 + p / max 1 (c.f 20 4) * c.f 24 4 + p % max 1 (c.f 20 4) * c.f 16 4

/-- The slot of row r of transpose block b (R189). -/
def transSlot (t : STile) (c : Chan) (b r : Nat) : Nat :=
  chanBase t c + c.f 12 4 + b / max 1 (c.f 20 4) * c.f 24 4 + b % max 1 (c.f 20 4) + r * c.f 16 4

/-- An access that wants a bank (R176): its source, an identity, its slot, the word of a write, its mode, and its class. -/
structure SpAcc where
  src : Nat
  id : Nat
  slot : Nat
  write : Option Word
  mode : Nat
  wide : Bool
  deriving DecidableEq, Repr

/-- The accesses of a channel: the words that wait of a write, up to 4 and each on its own, or the reads within the 8-word reorder buffer (R176, R178, R187). -/
def chanAccs (t : STile) (n : Nat) (c : Chan) : List SpAcc :=
  if !c.live || decide (c.runWords ≤ c.pos) then []
  else if c.writes then
    let want (k : Nat) : Bool := decide (c.pos + k < c.runWords) && decide (k < c.fifo.length)
    (upTo 4).filterMap (fun k =>
      if want k ∧ (Tab.find? (c.pos + k) c.rob).isNone
        ∧ (upTo k).all (fun j => (Tab.find? (c.pos + j) c.rob).isSome || stridedSlot t c (c.pos + j) != stridedSlot t c (c.pos + k)) then
        some { src := n, id := c.pos + k, slot := stridedSlot t c (c.pos + k), write := c.fifo[k]?, mode := bits (c.f 5 1) 1 0, wide := true }
      else none)
  else if c.blockRows = 0 then
    if c.f 16 4 = 0 then
      (if c.fifo.length < 8 then [{ src := n, id := c.pos, slot := stridedSlot t c c.pos, write := none, mode := bits (c.f 5 1) 1 0, wide := true }] else [])
    else ((upTo 8).map (c.pos + ·)).filterMap (fun p =>
      if p < c.runWords ∧ (Tab.find? p c.rob).isNone ∧ c.rob.length + c.fifo.length < 8 then
        some { src := n, id := p, slot := stridedSlot t c p, write := none, mode := bits (c.f 5 1) 1 0, wide := true } else none)
  else if c.fifo.isEmpty then
    (upTo c.blockRows).filterMap (fun r => if (Tab.find? r c.rob).isNone then
      some { src := n, id := c.pos + r, slot := transSlot t c (c.pos / c.blockRows) r, write := none, mode := bits (c.f 5 1) 1 0, wide := true } else none)
  else []

/-- The next access of a command in progress: a narrow write in normal mode reads its slot, then writes it merged, and one in narrow-gather mode makes none itself (R176, R198, R201, R202). -/
def cmdAcc (t : STile) (c : SpCmd) : List SpAcc :=
  let m := c.msg
  let base := { src := 9, id := ((packEp m.src * 2 ^ 16 + m.issuer) * 2 ^ 16 + m.msgId) * 2 ^ 20 + c.next, slot := spSlot m + c.next, write := none, mode := spMode m, wide := false : SpAcc }
  match spOp m with
  | 1 => [base]
  | 2 => [{ base with write := some (nth 0 (c.next + 1) m.data) }]
  | 3 => [base]
  | 4 =>
    if t.gatherMode then []
    else match c.got with
    | [] => [{ base with mode := 2 }]
    | w :: _ => [{ base with mode := 2, write := some (mergeMask w (nth 0 1 m.data) (narrowMask m)) }]
  | 5 => [{ base with src := 10, write := some 0 }]
  | 6 =>
    match c.got with
    | [] => [{ base with src := 10, slot := spSrcSlot m + c.next, mode := spSrcMode m }]
    | w :: _ => [{ base with src := 10, write := some w }]
  | _ => []

/-- The access of the gather writer for an open entry: a whole word under the entry's tag mode, or the write-back of a RAW entry (R176, R202, R203). -/
def gatherAcc (g : GatherEntry) : Option SpAcc :=
  if g.mask = 2 ^ 32 - 1 then some { src := 11, id := g.slot, slot := g.slot, write := some g.bytes, mode := g.tagMode, wide := false }
  else if g.writeBack then some { src := 11, id := g.slot, slot := g.slot, write := some g.bytes, mode := 2, wide := false }
  else none

/-- The next local access of an active DP stream: the oldest word not yet written of a LOAD once it is staged, the next word of a STORE within its window (R257, R258, R261). -/
def Strm.localAcc (t : STile) (slot : Nat) (x : Strm) : Option SpAcc :=
  let n := if x.isLoad then x.pos else x.issued
  let w := if x.isLoad then Tab.find? n x.staged else none
  if x.phase ≠ .running ∨ (x.isLoad && w.isNone) ∨ (!x.isLoad && decide (min (passWords x.desc) (x.pos + x.prefetch) ≤ n)) then none
  else (fillReady t x n).map (fun b =>
    { src := 8, id := slot * 2 ^ 33 + n, slot := localSlot x b.1 n, write := w, mode := bits (x.f 11 1) 1 0, wide := false })

/-- The local accesses that the active streams of a DP S-tile want, by stream slot (R176, R204). -/
def engineAccs (s : State) (die site : Nat) : List (Nat × SpAcc) :=
  if engineX site || !engineRuns s die site then []
  else (upTo 8).filterMap (fun k => (slotOf s die site k).bind (fun x => (x.localAcc (spOf s die site) k).map (fun a => (k, a))))

/-- The key of a waiting access. -/
def accKey (a : SpAcc) : Nat := a.id * 16 + a.src

/-- Whether an access is eligible (R177, R185). -/
def STile.accReady (t : STile) (a : SpAcc) : Bool :=
  match a.write with
  | some _ => t.writeReady a.slot a.mode
  | none => t.readReady a.slot a.mode

/-- The next of a rising list of slots in round-robin order after the one last served (R247). -/
def nextTurn (last : Nat) (l : List Nat) : Option Nat :=
  match l.find? (fun k => decide (last < k)) with
  | some k => some k
  | none => l.head?

/-- The stream whose turn it is on the local side, one whose next word cannot proceed being skipped (R247). -/
def localNext (s : State) (die site : Nat) : Option Nat :=
  nextTurn (enOf s die site).localTurn (((engineAccs s die site).filter (fun a => (spOf s die site).accReady a.2)).map Prod.fst)

/-- Every access that wants a bank, the patrol's apart (R176). -/
def bankAccs (s : State) (die site bank : Nat) : List SpAcc :=
  let t := spOf s die site
  let chans : List SpAcc := List.flatMap (fun (e : Nat × Chan) => chanAccs t e.1 e.2) t.chans
  (chans ++ t.cmds.flatMap (cmdAcc t) ++ t.gather.filterMap gatherAcc ++ (engineAccs s die site).map Prod.snd).filter (fun a => a.slot % 16 == bank)

/-- The eligible accesses of a bank: their tags allow them, and a stream's is that of the stream whose turn it is (R177, R185, R247). -/
def eligible (s : State) (die site bank : Nat) : List SpAcc :=
  let mine := (localNext s die site).bind (fun k => ((engineAccs s die site).find? (fun a => a.1 == k)).map (fun a => a.2.id))
  (bankAccs s die site bank).filter (fun a => (spOf s die site).accReady a && (a.src != 8 || mine == some a.id))

/-- The access before another in waiting: the earlier stamp. -/
def waitedSince (t : STile) (a : SpAcc) : Nat := ((Tab.find? (accKey a) t.waits).map SpWait.since).getD t.stamp

/-- The first of a list by waiting longest, ties to the lower source number (R177). -/
def longest (t : STile) : List SpAcc → Option SpAcc
  | [] => none
  | a :: as =>
    match longest t as with
    | some b => if waitedSince t b < waitedSince t a ∨ (waitedSince t b = waitedSince t a ∧ b.src < a.src) then some b else some a
    | none => some a

/-- The access that a bank grants (R177). -/
def grantChoice (t : STile) (c : List SpAcc) : Option SpAcc :=
  let aged := c.filter (fun a => !a.wide && decide (16 ≤ ((Tab.find? (accKey a) t.waits).map SpWait.refused).getD 0))
  let p := if aged.isEmpty then
      (if (c.filter SpAcc.wide).isEmpty then longest t c else longest t (c.filter SpAcc.wide))
    else longest t aged
  p.bind (fun p =>
    if p.write.isSome then
      match longest t (c.filter (fun a => a.write.isNone && a.slot == p.slot)) with
      | some r => some r
      | none => some p
    else some p)

/-- Whether an access that its tag allows is the one its bank grants among all that want it (R177, R180, R185). -/
def spWins (s : State) (die site : Nat) (a : SpAcc) : Bool :=
  let c := eligible s die site (a.slot % 16)
  (spOf s die site).accReady a && grantChoice (spOf s die site) (if c.contains a then c else c ++ [a]) == some a

/-- A command's completion: its reply, then KETTLE signalled if SIG is set (R198). -/
def spFinish (s : State) (m : Msg) (data : Option (List Word)) : State :=
  let s := match data with
    | some ws => answer s m ws
    | none => ack s m
  if bit (spFlags m) 0 then
    sendKettle s { m.dst with port := portTile, index := 0 } 0 m.job (spKettle m) 1 (bit (spFlags m) 1) 1
  else s

/-- Outcome of one access of a command. -/
inductive SpStep where
  | wait (s : State)
  | more (s : State) (c : SpCmd)
  | done (s : State)

/-- Whether a command belongs to a stream, whose job is faulted by its task abort (R205, R268). -/
def spDefers (m : Msg) : Bool := m.src.port == portStream

/-- A command stopped by an uncorrectable word, the k-th of its slots (R205, R266). -/
def spFail (s : State) (m : Msg) (k : Nat) : SpStep := .done (errorAt s m 0x0120 k)

/-- The gather writer's access for an entry made: a whole word written, or a RAW entry merged into its slot and freed; a slot that cannot be read stops a GATHER_FLUSH in progress (R202, R203, R205). -/
def gatherGrant (s : State) (die site slot : Nat) : State :=
  let t := spOf s die site
  match t.gather.find? (fun g => g.slot == slot) with
  | none => s
  | some g =>
    if g.mask = 2 ^ 32 - 1 then spWrite (narrowWords s die site 1) die site g.slot g.tagMode g.bytes
    else
      let lost := (decodeAt s (slotAddr die site g.slot)).2.1.isNone
      let s := spMerge (setSp s die site { t with gather := t.gather.filter (fun x => x.slot != g.slot) }) die site g.slot g.bytes g.mask
      if !lost then s
      else
        let t := spOf s die site
        (t.cmds.filter (fun c => spOp c.msg == 9)).foldl (fun s c => errorEvent s c.msg 0x0120) (setSp s die site { t with cmds := t.cmds.filter (fun c => spOp c.msg != 9) })

/-- The gather writer at work: its entries written while their banks grant them (R176, R202). -/
def gatherWriter : Nat → State → Nat → Nat → State
  | 0, s, _, _ => s
  | n + 1, s, die, site =>
    match (spOf s die site).gather.find? (fun g => (gatherAcc g).any (spWins s die site)) with
    | some g => gatherWriter n (gatherGrant s die site g.slot) die site
    | none => s

/-- The oldest RAW entry of a full gather buffer marked for its write-back, unless one is under way (R202). -/
def gatherEvict (s : State) (die site : Nat) : State :=
  let t := spOf s die site
  if t.gather.any GatherEntry.writeBack then s
  else match t.gather.find? (fun g => !g.counted) with
    | some g => setSp s die site { t with gather := t.gather.map (fun x => if x.slot = g.slot then { x with writeBack := true } else x) }
    | none => s

/-- A narrow write entered into the gather buffer: merged into its open entry, or into a free one, for which the oldest RAW entry is written back where needed; false while it waits for one. Only entries whose mode is RAW count as RAW (R202; DESIGN CHOICE, log entry 112). -/
def gatherEnter (s : State) (m : Msg) : State × Bool :=
  let die := m.dst.die
  let site := m.dst.site
  let t := spOf s die site
  let bytes := nth 0 1 m.data
  match t.gather.find? (fun g => g.slot == spSlot m) with
  | some g =>
    let g' := { g with bytes := mergeMask g.bytes bytes (narrowMask m), mask := g.mask ||| narrowMask m }
    (setSp s die site { t with gather := t.gather.map (fun x => if x.slot = g.slot then g' else x) }, true)
  | none =>
    let s := if t.gather.length < 16 then s else gatherWriter 1 (gatherEvict s die site) die site
    let t := spOf s die site
    if t.gather.length < 16 then
      let e : GatherEntry := { slot := spSlot m, bytes := mergeMask 0 bytes (narrowMask m), mask := narrowMask m, counted := spMode m != 2, tagMode := spMode m, writeBack := false }
      (setSp s die site { t with gather := t.gather ++ [e] }, true)
    else (s, false)

/-- One access of a command in progress, which its tag and its bank allow (R197 to R203). -/
def spStep (s : State) (c : SpCmd) : SpStep :=
  let m := c.msg
  let die := m.dst.die
  let site := m.dst.site
  let slot := spSlot m + c.next
  match spOp m with
  | 1 =>
    match spReadFor (spDefers m) s die site slot (spMode m) with
    | (s, none) => spFail s m c.next
    | (s, some w) =>
      let got := c.got ++ [w]
      if c.next + 1 = spCount m then .done (spFinish s m (some got)) else .more s { c with next := c.next + 1, got := got }
  | 2 =>
    let s := spWrite s die site slot (spMode m) (nth 0 (c.next + 1) m.data)
    if c.next + 1 = spCount m then .done (spFinish s m none) else .more s { c with next := c.next + 1 }
  | 3 =>
    match spReadFor (spDefers m) s die site slot (spMode m) with
    | (s, none) => spFail s m c.next
    | (s, some w) => .done (spFinish s m (some [mergeMask 0 w (narrowMask m)]))
  | 4 =>
    if (spOf s die site).gatherMode then
      if (spOf s die site).gather.any (fun g => g.slot == spSlot m && g.tagMode != spMode m) then .done (errorStatus s m stBadField)
      else
        let r := gatherEnter s m
        if r.2 then .done (spFinish (gatherWriter 1 r.1 die site) m none) else .wait r.1
    else match c.got with
    | [] =>
      match spReadFor (spDefers m) s die site slot 2 with
      | (s, none) => spFail s m c.next
      | (s, some w) => .more s { c with got := [w] }
    | w :: _ => .done (spFinish (spWrite s die site slot 2 (mergeMask w (nth 0 1 m.data) (narrowMask m))) m none)
  | 5 =>
    let p := spPattern m
    let s := spWrite s die site slot (spMode m) (BitVec.ofNat 256 (packElems 64 [p, p, p, p]))
    if c.next + 1 = spCount m then .done (spFinish s m none) else .more s { c with next := c.next + 1 }
  | 6 =>
    match c.got with
    | [] =>
      match spReadFor (spDefers m) s die site (spSrcSlot m + c.next) (spSrcMode m) with
      | (s, none) => spFail s m c.next
      | (s, some w) => .more s { c with got := [w] }
    | w :: _ =>
      let s := spWrite s die site slot (spMode m) w
      if c.next + 1 = spCount m then .done (spFinish s m none) else .more s { c with next := c.next + 1, got := [] }
  | _ => .wait s

/-- A command that stays in progress. -/
def keepCmd (s : State) (c : SpCmd) : State :=
  let t := spOf s c.msg.dst.die c.msg.dst.site
  setSp s c.msg.dst.die c.msg.dst.site { t with cmds := t.cmds ++ [c] }

/-- A command's accesses made in order while its tags allow them and its banks grant them; what is left stays in progress (R180, R198, R199). -/
def spRun : Nat → State → SpCmd → State
  | 0, s, c => keepCmd s c
  | n + 1, s, c =>
    let die := c.msg.dst.die
    let site := c.msg.dst.site
    let accs := cmdAcc (spOf s die site) c
    if !accs.all (spWins s die site) then keepCmd s c
    else match spStep (narrowWords s die site accs.length) c with
      | .done s => s
      | .more s c => spRun n s c
      | .wait s => keepCmd s c

/-- Narrow writes that wait for a gather entry tried again in order of arrival (R202). -/
def gatherRetry (s : State) (die site : Nat) : State :=
  if !(spOf s die site).gatherMode then s
  else ((spOf s die site).cmds.filter (fun c => spOp c.msg == 4)).foldl (fun s c =>
    match spStep s c with
    | .done s => setSp s die site { spOf s die site with cmds := (spOf s die site).cmds.filter (fun x => !sameMsg x.msg c.msg) }
    | .more s _ => s
    | .wait s => s) s

/-- A GATHER_FLUSH in progress completes once no RAW entry is left to be written back (R203). -/
def flushDone (s : State) (die site : Nat) : State :=
  let t := spOf s die site
  if t.gather.any GatherEntry.writeBack then s
  else (t.cmds.filter (fun c => spOp c.msg == 9)).foldl (fun s c => spFinish s c.msg none) (setSp s die site { t with cmds := t.cmds.filter (fun c => spOp c.msg != 9) })

/-- Commands whose next slot is not eligible under its tag mode are HELD, each once (R199, R336). -/
def holdBlocked (s : State) (die site : Nat) : State :=
  let t := spOf s die site
  let stuck (c : SpCmd) : Bool := !c.heldSent && (cmdAcc t c).any (fun a => !t.accReady a)
  (t.cmds.filter stuck).foldl (fun s c => hold s c.msg) (setSp s die site { t with cmds := t.cmds.map (fun c => if stuck c then { c with heldSent := true } else c) })

/-- What follows the accesses of a step at an S-tile: waiting narrow writes, flushes and held commands. -/
def spSettle (s : State) (die site : Nat) : State := holdBlocked (flushDone (gatherRetry s die site) die site) die site

/-- Accesses that a command can make at most. -/
def spFuel (m : Msg) : Nat := 2 * spCount m + 2

/-- The status that a command's KETTLE earns under SIG, 0 where it can be signalled (R196, R324). -/
def spSignal (s : State) (m : Msg) : Nat := if bit (spFlags m) 0 then (rankStatus s m.job (spKettle m) [portKettle]).getD 0 else 0

/-- Whether a command row answers a message's operation code; a reserved code is refused by the first row. -/
def rowTakes (op top o : Nat) : Bool := o == op || (op == 1 && (o == 0 || decide (top < o)))

/-- A command row of an S-tile: a malformed one is refused with BAD_FIELD and writes nothing; upsets strike the stored words first (R181, R196, R199). -/
def spRow (s : State) (m : Msg) (op : Nat) (u : Upset) (f : State → State) : Host.Outcome State Fault Refusal :=
  applyMsg s m (fun s =>
    if m.typ ≠ 1 ∨ m.dst.port ≠ portTile ∨ !isSp (siteKind m.dst.site) ∨ !rowTakes op 9 (spOp m) then s
    else if spMalformed s m then errorStatus s m stBadField
    else if spSignal s m ≠ 0 then errorStatus s m (spSignal s m)
    else f { s with flips := addUpsets s.flips u })

/-- A fresh command in progress: it makes the accesses that it can at once, and waits with the rest (R180, R198). -/
def spStart (s : State) (m : Msg) : State :=
  spSettle (spRun (spFuel m) s { msg := m, next := 0, got := [], since := s.now, heldSent := false }) m.dst.die m.dst.site

def execRead (m : Msg) (u : Upset) (s : State) : Host.Outcome State Fault Refusal := spRow s m 1 u (fun s => spStart s m)

def execWrite (m : Msg) (u : Upset) (s : State) : Host.Outcome State Fault Refusal := spRow s m 2 u (fun s => spStart s m)

def execReadNarrow (m : Msg) (u : Upset) (s : State) : Host.Outcome State Fault Refusal := spRow s m 3 u (fun s => spStart s m)

/-- WRITE_NARROW: its bytes are merged into the slot, or enter the gather buffer in narrow-gather mode, where a tag mode that differs from the open entry's is malformed (R201, R202). -/
def execWriteNarrow (m : Msg) (u : Upset) (s : State) : Host.Outcome State Fault Refusal := spRow s m 4 u (fun s => spStart s m)

def execFill (m : Msg) (u : Upset) (s : State) : Host.Outcome State Fault Refusal := spRow s m 5 u (fun s => spStart s m)

def execCopy (m : Msg) (u : Upset) (s : State) : Host.Outcome State Fault Refusal := spRow s m 6 u (fun s => spStart s m)

/-- A swap takes effect: the roles exchange, GEN rises with its wrap, the issuer is answered and SWAP_KETTLE signalled (R194). -/
def swapEffect (s : State) (die site q : Nat) (m : Msg) : State :=
  let t := spOf s die site
  let qu := t.quire q
  let s := setSp s die site { t with quires := Tab.set q { qu with wleaf := 1 - qu.wleaf, gen := (qu.gen + 1) % 2 ^ 32, genWrap := qu.genWrap || decide (qu.gen + 1 = 2 ^ 32), pending := none } t.quires }
  let s := spFinish s m none
  if qu.sig then siteSignal s die site 0 qu.swapKettle qu.rel else s

/-- LEAF_SWAP: refused with a state status when GEN differs or a swap is pending, at once without WAIT or with an empty read leaf, else pending and HELD (R194, R336). -/
def execLeafSwap (m : Msg) (s : State) : Host.Outcome State Fault Refusal :=
  spRow s m 7 [] (fun s =>
    let t := spOf s m.dst.die m.dst.site
    let q := t.quire (spSlot m)
    if q.gen ≠ spGen m ∨ q.pending.isSome then errorStatus s m stWrongState
    else if !bit (spFlags m) 6 || q.readFull == 0 then swapEffect s m.dst.die m.dst.site (spSlot m) m
    else hold (setSp s m.dst.die m.dst.site { t with quires := Tab.set (spSlot m) { q with pending := some m } t.quires }) m)

/-- A pending swap takes effect once the read leaf's FULL_COUNT is 0 (R194). -/
def execLeafSwapEffect (die site quire : Nat) (s : State) : Host.Outcome State Fault Refusal :=
  onSite die site [.sTile, .dpTile] (
    let q := (spOf s die site).quire quire
    match q.pending with
    | some m => if q.readFull = 0 ∧ !siteParted s die site then swapEffect s die site quire m else s
    | none => s)

/-- DBG_SP_QGEN of a quire (R209). -/
def qgenReg (q : Quire) : Nat :=
  q.gen * 2 ^ 32 + (if q.genWrap then 4 else 0) + (if q.pending.isSome then 2 else 0) + q.wleaf % 2

/-- DBG_SP_QFULL of a quire (R209). -/
def qfullReg (q : Quire) : Nat := q.full1 * 2 ^ 16 + q.full0

/-- QUIRE_QUERY: one word holding the two registers of the quire (R197; log entry 10). -/
def execQuireQuery (m : Msg) (s : State) : Host.Outcome State Fault Refusal :=
  spRow s m 8 [] (fun s =>
    let q := (spOf s m.dst.die m.dst.site).quire (spSlot m)
    spFinish s m (some [BitVec.ofNat 256 (qgenReg q + qfullReg q * 2 ^ 64)]))

/-- GATHER_FLUSH: every RAW entry is marked and written back as its bank grants it, COUNTED entries stay open; it completes with the last write-back, and a slot that cannot be read stops it (R203, R205). -/
def execGatherFlush (m : Msg) (s : State) : Host.Outcome State Fault Refusal :=
  spRow s m 9 [] (fun s =>
    let t := spOf s m.dst.die m.dst.site
    let s := setSp s m.dst.die m.dst.site { t with gather := t.gather.map (fun g => if g.counted then g else { g with writeBack := true }) }
    let s := keepCmd s { msg := m, next := 0, got := [], since := s.now, heldSent := false }
    spSettle (gatherWriter 16 s m.dst.die m.dst.site) m.dst.die m.dst.site)

/-- A narrow write that has waited 100 µs for an entry raises GATHER_STALL (R202). -/
def execGatherStall (die site : Nat) (s : State) : Host.Outcome State Fault Refusal :=
  onSite die site [.sTile, .dpTile] (
    let t := spOf s die site
    match t.cmds.find? (fun c => t.gatherMode && spOp c.msg == 4 && decide (c.since + 100000 ≤ s.now)) with
    | some c =>
      let s := setSp s die site { t with cmds := t.cmds.filter (fun x => !sameMsg x.msg c.msg) }
      raiseSite (errorEvent s c.msg 0x0122) 0x0122 die site 0
    | none => s)

/-- A read channel's words moved in order from the reorder buffer to the circuit (R178, R189). -/
def chanDeliver (fuel : Nat) (c : Chan) : Chan :=
  match fuel with
  | 0 => c
  | n + 1 =>
    if c.blockRows = 0 then
      match Tab.find? c.pos c.rob with
      | some w => chanDeliver n { c with pos := c.pos + 1, fifo := c.fifo ++ [w], rob := Tab.erase c.pos c.rob }
      | none => c
    else if c.rob.length = c.blockRows then
      let w := 256 / c.blockRows
      let rows := (upTo c.blockRows).map (fun r => (Tab.get 0 r c.rob).toNat)
      let out := (upTo c.blockRows).map (fun j => BitVec.ofNat 256 (packElems w (rows.map (fun r => r / 2 ^ (w * j) % 2 ^ w))))
      { c with pos := c.pos + c.blockRows, fifo := c.fifo ++ out, rob := [] }
    else c

/-- Written words of a write channel leave its queue in pattern order (R178). -/
def chanSettle : Nat → Chan → Chan
  | 0, c => c
  | n + 1, c =>
    match Tab.find? c.pos c.rob with
    | some _ => chanSettle n { c with pos := c.pos + 1, fifo := c.fifo.drop 1, rob := Tab.erase c.pos c.rob }
    | none => c

/-- A granted access of a channel: a read enters the reorder buffer, a write's word leaves the queue in pattern order; an uncorrectable word stops the channel (R178, R187, R188, R205). -/
def chanGrant (s : State) (die site : Nat) (a : SpAcc) : State :=
  let t := spOf s die site
  let c := Tab.get chanInitial a.src t.chans
  let lb := some (chanBase t c)
  let set (s : State) (c : Chan) : State := setSp s die site { spOf s die site with chans := Tab.set a.src c (spOf s die site).chans }
  match a.write with
  | some w => freePlaces (set (spWrite s die site a.slot a.mode w) (chanSettle 8 { c with rob := Tab.set a.id w c.rob, leafBase := lb })) die site a.src 0 1
  | none =>
    match spRead s die site a.slot a.mode with
    | (s, none) => set s { c with faulted := true }
    | (s, some w) =>
      if c.blockRows = 0 ∧ c.f 16 4 = 0 then
        set s { c with pos := c.pos + c.f 20 4, fifo := c.fifo ++ List.replicate (c.f 20 4) w, leafBase := lb }
      else
        let key := if c.blockRows = 0 then a.id else a.id - c.pos
        set s (chanDeliver 8 { c with rob := Tab.set key w c.rob, leafBase := lb })

/-- A granted access of a command: one step of it. -/
def cmdGrant (s : State) (die site : Nat) (a : SpAcc) : State :=
  let t := spOf s die site
  match t.cmds.find? (fun c => (cmdAcc t c).any (fun x => accKey x == accKey a)) with
  | some c =>
    let s := setSp s die site { t with cmds := t.cmds.filter (fun x => !sameMsg x.msg c.msg) }
    match spStep s c with
    | .done s => s
    | .more s c => keepCmd s c
    | .wait s => keepCmd s c
  | none => s

/-- Upsets of tag groups carry 2^64 plus the group number: one flipped bit is corrected, two are not (R186). -/
def tagUpsets (s : State) (die site : Nat) (u : Upset) : State :=
  u.foldl (fun s e =>
    if e.1 < 2 ^ 64 then s
    else
      let n := ((upTo 72).filter (fun k => bit e.2 k)).length
      if n = 0 then s else if n = 1 then telAdd s die site 0x1A8 1 else raiseSite s 0x0121 die site 0) s

/-- Whether every word that a read channel has sent is credited (R191, R286). -/
def chanCredited (s : State) (die site ch : Nat) : Bool :=
  match Tab.find? (siteKey die site) s.grain with
  | some g => g.eps.all (fun e => e.2.kind != 1 || e.2.tport != ch || e.2.credits == e.2.capacity)
  | none => true

/-- A run ends when its last word has been sent or written: RUN_KETTLE is signalled if SIG is set, and the next run begins from BASE (R191). -/
def execChannelRunEnd (die site ch : Nat) (s : State) : Host.Outcome State Fault Refusal :=
  onSite die site [.sTile, .dpTile] (
    let t := spOf s die site
    let c := Tab.get chanInitial ch t.chans
    if c.live && decide (0 < c.runWords) && c.pos == c.runWords && (c.writes || c.fifo.isEmpty) && c.rob.isEmpty && (c.writes || chanCredited s die site ch) && !siteParted s die site then
      let forever := c.f 32 4 == 0
      let c' := { c with pos := 0, leafBase := none, runsLeft := c.runsLeft - 1, done := !forever && decide (c.runsLeft ≤ 1) }
      let s := setSp s die site { t with chans := Tab.set ch c' t.chans }
      if bit (c.f 8 1) 0 then siteSignal s die site 0 (c.f 6 2) (bit (c.f 8 1) 1) else s
    else s)

end Sys2Proof.Machine
end

