-- ==== Sys2Proof/Machine/Dram.lean ====
section
/-! DEFINITION. Sys2Proof/Machine/Dram.lean: reads and writes of near, far and host memory as messages, patrol scrub, lost channels, stack temperature and refresh (R210 to R243). -/

namespace Sys2Proof.Machine

/-- The words that a memory request moves: the data flits of a MEM_WRITE, and byte 0 of a MEM_READ's one data flit (log entry 11). -/
def memCount (m : Msg) : Nat := if m.typ = 3 then m.data.length else (nth 0 0 (m.data.map BitVec.toNat)) % 256

/-- The bytes of a write narrower than a word, which bits [58:52] of ARG carry, 0 for whole words (R211; log entry 16). -/
def memBytes (m : Msg) : Nat := if m.typ = 3 then bits m.arg.toNat 58 52 else 0

/-- The device address of a memory request. -/
def memAddr (m : Msg) : Nat := if m.typ = 3 then setBits m.arg.toNat 58 52 0 else m.arg.toNat

/-- The TEL registers of the channel that serves a place: corrected and uncorrectable (R241, R243). -/
def placeTel (s : State) (p : Place) (uncorr : Bool) (n : Nat) : State :=
  match p with
  | .near d _ ch => telAdd s d ((dpSite ch).getD 0) (if uncorr then 0x210 else 0x208) n
  | .far hc _ => telAdd s (0x60 + hc / 32) blockSite ((if uncorr then 0x40010 else 0x40008) + 0x100 * (hc % 32)) n
  | _ => s

/-- The owner of a page, 0 when no job owns it. -/
def pageOwner (p : Page) : Nat :=
  match p.st with
  | .owned j => j
  | _ => 0

/-- The bank and row of a word of a near channel, bank + 32 × row, which the spec does not state (R210, R240; log entry 46). -/
opaque Config.nearRow : Nat → Nat

/-- The repair record for the near row of an uncorrectable codeword, once for each row (R240). -/
def repairNoted (s : State) (p : Place) : State :=
  match p with
  | .near d o ch =>
    let r := Config.nearRow (((nearLocate s d o).map (·.2)).getD 0)
    let bank := r % 32
    let row := r / 32 % 2 ^ 32
    if (unitLog s.flash).any (fun x => fld x 4 1 == 2 && fld x 16 1 == d && fld x 17 1 == ch && fld x 18 2 == bank && fld x 20 4 == row) then s
    else appendRepair s d ch bank row
  | _ => s

/-- An uncorrectable codeword: counted, its page marked, the event naming the address and faulting the job, a stream's by its task abort (R238, R239, R240, R268). -/
def uncorrectableAt (s : State) (p : Place) (addr job : Nat) (stream : Bool) : State :=
  let s := repairNoted (placeTel s p true 1) p
  let pg := pageOf s p.page
  let s := setPage s p.page { pg with uncorr := true, st := if pg.st = .free then .retired else pg.st }
  let (code, die, kind, idx) := match p with
    | .near d _ ch => (0x0201, d, 3, ch)
    | .far hc _ => (0x0210, 0x60 + hc / 32, 4, hc % 32)
    | _ => (0x0201, 0x7F, 0, 0)
  if stream then raiseWord s code job die kind idx addr else raiseContained s code job die kind idx addr

/-- The check of one word of a request: its place, or the code of the failure (R229, R231). -/
def wordCheck (s : State) (a job : Nat) : Sum Nat Place :=
  match placeOf s a with
  | .unbacked => .inl 0x0220
  | .other => .inl 0x0220
  | p => if pageAdmits (pageOf s p.page) job then .inr p else .inl 0x0221

/-- Whether a request is a stream's for its words, whose faults the task abort reports; a completion record's is not (R238, R265, R268; log entry 111). -/
def wordRequest (m : Msg) : Bool := m.src.port == portStream && decide (m.issuer < 8)

/-- A request that fails its ownership or backing check: nothing is read or written, and the job is faulted, a stream's by its task abort (R229, R231, R256, R268). -/
def accessFail (s : State) (m : Msg) (code a : Nat) : State :=
  let s := errorEvent s m code
  let kind := if m.dst.site = blockSite then 2 else 1
  let index := if m.dst.site = blockSite then 0 else m.dst.site
  if wordRequest m then raiseWord s code m.job m.dst.die kind index a else raiseContained s code m.job m.dst.die kind index a

/-- Words of a read request gathered one by one (R213, R237, R238). -/
def memReadWords : Nat → State → Msg → Nat → List Word → State × Option (List Word)
  | 0, s, _, _, acc => (s, some acc)
  | n + 1, s, m, a, acc =>
    match wordCheck s a m.job with
    | .inl code => (accessFail s m code a, none)
    | .inr p =>
      let r := decodeAt s p.home
      match r.2.1 with
      | some w => memReadWords n (if r.2.2 then placeTel r.1 p false 1 else r.1) m (a + 32) (acc ++ [w])
      | none => (uncorrectableAt (errorEvent r.1 m (match p with | .far _ _ => 0x0210 | _ => 0x0201)) p a m.job (wordRequest m), none)

/-- Dirty bits of mirrored pages are set by the unit that applies a write (R553). -/
def markDirty (s : State) (p : Place) : State :=
  let pg := pageOf s p.page
  setPage s p.page { pg with dirty := true }

/-- A word written to a DRAM place. -/
def dramWord (s : State) (p : Place) (w : Word) : State := markDirty (storeWord (biNote s p.home 32) p.home w) p

/-- Bytes written within a codeword of a DRAM place. -/
def dramBytes (s : State) (p : Place) (bs : List Byte) : State := markDirty (storeBytes (biNote s p.home bs.length) p.home bs) p

/-- Words of a write request applied one by one, each whole (R213, R232). -/
def memWriteWords : State → Msg → Nat → List Word → State × Bool
  | s, _, _, [] => (s, true)
  | s, m, a, w :: ws =>
    match wordCheck s a m.job with
    | .inl code => (accessFail s m code a, false)
    | .inr p => memWriteWords (dramWord s p w) m (a + 32) ws

/-- Whether a request's address and word count are well formed at its port (R228, R318). -/
def memMalformed (m : Msg) : Bool :=
  let a := memAddr m
  addrMalformed a || (if memBytes m = 0 then a % 32 != 0 else !([1, 2, 4, 8].contains (memBytes m)) || a % max 1 (memBytes m) != 0 || m.data.length != 1)
    || memCount m == 0 || decide (16 < memCount m) || (memBytes m == 0 && addrMalformed (a + 32 * memCount m - 1))
    || (match m.dst.port with
      | 2 => !(spaceOf a == 0 || spaceOf a == 1)
      | 7 => spaceOf a != 2
      | 8 => spaceOf a != 8
      | _ => true)

/-- Whether a place lies on a near stack in HOLD, which admits no access (R217). -/
def placeHeld (s : State) (p : Place) : Bool :=
  match p with
  | .near d _ _ => (dieOf s d).nearState == .hold
  | _ => false

/-- A near stack in HOLD admits no access: requests wait at the DP S-tile (R217). -/
def memHeld (s : State) (m : Msg) : Bool := m.dst.port == portNear && (dieOf s m.dst.die).nearState == .hold

/-- MEM_READ: a DP S-tile or hub reads its words, and H0's HOST port reads host memory within the job's windows (R213, R224, R231, R255). -/
def execMemRead (m : Msg) (u : Upset) (s : State) : Host.Outcome State Fault Refusal :=
  applyMsg s m (fun s =>
    let s := { s with flips := addUpsets s.flips u }
    if m.typ ≠ 2 ∨ memHeld s m then s
    else if memMalformed m then errorStatus s m 0x0103
    else if m.dst.port = portHost then
      if s.host.reads.any (fun h => h.use == .msg m) then s
      else if windowHolds s m.job m.arg.toNat (32 * memCount m) false then hostRead s m.arg.toNat (32 * memCount m) (.msg m) else errorStatus s m 0x0503
    else match memReadWords (memCount m) s m m.arg.toNat [] with
      | (s, some ws) => answer s m ws
      | (s, none) => s)

/-- A write narrower than a word: read, merge and write inside the channel controller (R211). -/
def memWriteNarrow (s : State) (m : Msg) (a n : Nat) (w : Word) : State × Bool :=
  match wordCheck s a m.job with
  | .inl code => (accessFail s m code a, false)
  | .inr p =>
    let r := decodeAt s (p.home / 32 * 32)
    match r.2.1 with
    | some _ => (dramBytes (if r.2.2 then placeTel r.1 p false 1 else r.1) p (leBytes n (fld w.toNat (a % 32) n)), true)
    | none => (uncorrectableAt (errorEvent r.1 m (match p with | .far _ _ => 0x0210 | _ => 0x0201)) p a m.job (wordRequest m), false)

/-- MEM_WRITE: the words or bytes are applied in order, and a host write is answered when its GO arrives (R211, R213, R224, R231, R232, R255). -/
def execMemWrite (m : Msg) (u : Upset) (s : State) : Host.Outcome State Fault Refusal :=
  applyMsg s m (fun s =>
    let s := { s with flips := addUpsets s.flips u }
    let a := memAddr m
    let n := memBytes m
    if m.typ ≠ 3 ∨ memHeld s m then s
    else if memMalformed m then errorStatus s m 0x0103
    else if m.dst.port = portHost then
      if s.host.writes.any (fun h => h.use == .msg m) then s
      else if windowHolds s m.job a (if n = 0 then 32 * memCount m else n) true then
        hostWrite s a (if n = 0 then m.data.flatMap (fun w => leBytes 32 w.toNat) else leBytes n (fld (m.data.headD 0).toNat (a % 32) n)) (.msg m)
      else errorStatus s m 0x0503
    else match if n = 0 then memWriteWords s m a m.data else memWriteNarrow s m a n (m.data.headD 0) with
      | (s, true) => ack s m
      | (s, false) => s)

/-- What the patrol scrub finds in a codeword: treated as a read would be, nothing delivered (R238, R239). -/
def patrolled (s : State) (p : Place) (addr : Nat) : State :=
  let r := decodeAt s p.home
  match r.2.1 with
  | some _ => if r.2.2 then placeTel r.1 p false 1 else r.1
  | none => uncorrectableAt r.1 p addr (pageOwner (pageOf r.1 p.page)) false

/-- The patrol scrub reads one backed codeword of DRAM; a stack in HOLD has no command slot for it (R217, R239). -/
def execPatrolScrubDram (addr : Nat) (u : Upset) (s : State) : Host.Outcome State Fault Refusal :=
  .next (
    let s := { s with flips := addUpsets s.flips u }
    if addrMalformed addr then s
    else match placeOf s addr with
      | .near d o ch => if placeHeld s (.near d o ch) then s else patrolled s (.near d (o / 32 * 32) ch) addr
      | .far hc o => patrolled s (.far hc (o / 32 * 32)) addr
      | _ => s)

/-- A die's entry updated. -/
def modDie (s : State) (die : Nat) (f : Die → Die) : State := { s with dies := Tab.modify dieInitial die f s.dies }

/-- FREE pages with a granule on a lost channel become RETIRED at once; those listed are the only ones that differ from the start state (R216). -/
def retireFree (s : State) : State :=
  { s with pages := s.pages.map (fun e => if e.2.st = .free ∧ pageOnLost s e.1 then (e.1, { e.2 with st := .retired }) else e) }

/-- A near channel lost: LOST, its granules unbacked, its free pages retired, the event raised (R216, R544). -/
def loseNear (s : State) (die ch : Nat) : State :=
  let d := dieOf s die
  if d.lostCh.contains ch || !(d.goodCh.contains ch) then s
  else raiseCorrected (unitFenced (retireFree (modDie s die (fun d => { d with lostCh := d.lostCh ++ [ch] }))) die 3 ch false) 0x0202 0 die 3 ch 0

def execNearChannelLost (die ch : Nat) (s : State) : Host.Outcome State Fault Refusal :=
  if isCompute die && decide (ch < 24) then .next (loseNear s die ch) else .fault (.noSuchUnit die blockSite)

/-- A far channel lost (R223). -/
def loseFar (s : State) (hub ch : Nat) : State :=
  match Tab.find? ch (dieOf s hub).far with
  | some c =>
    if c.st = .good then
      raiseCorrected (unitFenced (retireFree (modDie s hub (fun d => { d with far := Tab.set ch { c with st := .lost } d.far }))) hub 4 ch false) 0x0211 0 hub 4 ch 0
    else s
  | none => s

def execFarChannelLost (hub ch : Nat) (s : State) : Host.Outcome State Fault Refusal :=
  if isHub hub && decide (ch < 32) then .next (loseFar s hub ch) else .fault (.noSuchUnit hub blockSite)

/-- The stack's thermal state after a sample, at most one transition, toward the higher state where two apply (R217). -/
def nearNext (st : NearState) (t : Nat) : NearState :=
  match st with
  | .normal => if 85 < t then .double else .normal
  | .double => if 90 ≤ t then .throttle else if t ≤ 83 then .normal else .double
  | .throttle => if 95 ≤ t then .hold else if t ≤ 88 then .double else .throttle
  | .hold => if t ≤ 93 then .throttle else .hold

/-- A sample of the stack's four layers: the state moves, entering THROTTLE or HOLD is reported, and HOLD is timed and counted (R217, R218, R242). -/
def stackSample (s : State) (die : Nat) (temps : List Nat) : State :=
  let d := dieOf s die
  let t := maxOf temps
  let n := nearNext d.nearState t
  let s := modDie s die (fun d => { d with
    nearTemps := temps.map (min 255)
    nearState := n
    holdSince := if n = .hold then (match d.holdSince with | some x => some x | none => some s.now) else none })
  let s := if n = .hold then telAdd s die blockSite 0x108 1 else s
  let s := if n = .throttle ∨ n = .hold then
      { s with regions := s.regions.map (fun e => if e.2.bounds.dieList.contains die then
          (e.1, { e.2 with timed := e.2.timed.map (fun t => { t with runs := t.runs.map (fun r => { r with thermal := true }) }) }) else e) }
    else s
  if n = d.nearState then s
  else match n with
    | .throttle => raiseCorrected s 0x0203 0 die 2 0 0
    | .hold => raiseCorrected s 0x0204 0 die 2 0 0
    | _ => s

def execStackThermalSample (die t0 t1 t2 t3 : Nat) (s : State) : Host.Outcome State Fault Refusal :=
  if isCompute die then .next (stackSample s die [t0, t1, t2, t3]) else .fault (.noSuchUnit die blockSite)

/-- REFRESH of a channel's rows keeps the stored data as it is; its rate follows the thermal state (R217, R220). -/
def execRefresh (die ch : Nat) (s : State) : Host.Outcome State Fault Refusal :=
  if (isCompute die && decide (ch < 24)) || (isHub die && decide (ch < 32)) then .next s else .fault (.noSuchUnit die blockSite)

/-- DBG_NEAR_CH.REFRESH: doubled outside NORMAL (R217, R241). -/
def refreshDoubled (s : State) (die : Nat) : Bool := (dieOf s die).nearState != .normal

/-- A hub polls a far device's mode register and copies its refresh-rate field (R243). -/
def execFarRefreshRatePoll (hub ch rate : Nat) (s : State) : Host.Outcome State Fault Refusal :=
  if isHub hub && decide (ch < 32) then
    .next (match Tab.find? ch (dieOf s hub).far with
      | some c => modDie s hub (fun d => { d with far := Tab.set ch { c with refreshRate := rate % 256 } d.far })
      | none => s)
  else .fault (.noSuchUnit hub blockSite)

end Sys2Proof.Machine
end

