-- ==== Sys2Proof/Machine/Mull.lean ====
section
/-! DEFINITION. Sys2Proof/Machine/Mull.lean: routing of packets, message buffers, flow order, resends, timeouts and telemetry of the mull fabric (R313 to R347). -/

namespace Sys2Proof.Machine

/-- The adaptive directions of a die table's entry: edges that begin a shortest path (R325). -/
def dieDirs (s : State) (die dst : Nat) : List Nat :=
  match dieDistance s die dst with
  | some d => (upTo 4).filter (fun e => edgeUsable s die e && (match dieNeighbour die e with
      | some n => decide ((dieDistance s n dst).map (· + 1) = some d)
      | none => false))
  | none => []

/-- The distance of a site to the nearest X-tile of an edge whose lane group is good and leads to no hole (R28, R325, R328). -/
def edgeDistance (s : State) (die site edge : Nat) : Option Nat :=
  ((upTo 6).filter (fun g => !(s.net.tableLostGroups.contains (groupKey die edge g)) && !(farHole s.net.tableHoles die edge g))).foldl (fun acc g =>
    match siteDistance s die site (xSite edge g), acc with
    | some d, some a => some (min d a)
    | some d, none => some d
    | none, a => a) none

/-- The distance from a site to a target: a site of the die, or 480 + edge (R325). -/
def targetDistance (s : State) (die site target : Nat) : Option Nat :=
  if target < 480 then siteDistance s die site target else edgeDistance s die site (target - 480)

/-- The adaptive ports of a site table's entry that lead to no hole: N, E, S, W in that order (R325, R328). -/
def adaptivePorts (s : State) (die site target : Nat) : List Nat :=
  match targetDistance s die site target with
  | some d => (upTo 4).filter (fun p => match siteNeighbour site p with
      | some n => !(s.net.holes.contains (siteKey die n)) && decide ((targetDistance s die n target).map (· + 1) = some d)
      | none => false)
  | none => []

/-- Free flits of a VC at a router's input port (R314). -/
def freeFlits (s : State) (die site port vc : Nat) : Nat :=
  18 - (s.net.packets.filter (fun p => p.die == die && p.site == site && p.port == port && p.vc == vc)).foldl (fun n p => n + 1 + p.len) 0

/-- The neighbour router that a port of a site leads to: its die, site and input port, across the edge at an X-tile, none where the far router is a hole (R28, R313, R328). -/
def portTarget (s : State) (die site port : Nat) : Option (Nat × Nat × Nat) :=
  match siteNeighbour site port with
  | some n => some (die, n, opposite port)
  | none =>
    if siteKind site = some .xTile ∧ (xEdge site).1 = port ∧ !(s.net.lostGroups.contains (groupKey die port (xEdge site).2)) ∧ !(farHole s.net.holes die port (xEdge site).2) then
      ((dieNeighbour die port).filter (fun n => !(dieOf s n).fenced)).map (fun n =>
        if isHub n then (n, blockSite, (if port = 1 ∨ port = 3 then 0 else 6) + (xEdge site).2)
        else (n, xSite (opposite port) (xEdge site).2, opposite port))
    else none

/-- The choice with the most free flits, the earliest on a tie (R326). -/
def mostFree : List (Nat × Nat) → Option (Nat × Nat)
  | [] => none
  | c :: cs =>
    match mostFree cs with
    | some b => if c.2 < b.2 then some b else some c
    | none => some c

/-- The first port toward an edge: the edge's own port at an X-tile on it, else the first adaptive port of the site table's entry (R327). -/
def firstPort (s : State) (die site edge : Nat) : Option Nat :=
  if siteKind site = some .xTile ∧ (xEdge site).1 = edge ∧ (portTarget s die site edge).isSome then some edge else (adaptivePorts s die site (480 + edge)).head?

/-- The exit edge of a packet on a die: the adaptive direction whose first site-table port has the most free flits (R327). -/
def exitEdge (s : State) (p : Packet) : Option Nat :=
  let vc := if p.msg.typ < 0x80 then 0 else 2
  (mostFree ((dieDirs s p.die p.msg.dst.die).map (fun e =>
    (e, ((firstPort s p.die p.site e).bind (fun q => portTarget s p.die p.site q)).elim 0 (fun t => freeFlits s t.1 t.2.1 t.2.2 vc))))).map (·.1)

/-- One hop of a packet at a tile site's router: where it goes and on which VC, none while no port has room (R326, R327, R328). -/
def hopAt (s : State) (p : Packet) : Option (Nat × Nat × Nat × Nat) :=
  let target := if p.msg.dst.die = p.die then routerOf p.msg.dst else 480 + p.exit.getD 4
  let atEdge := decide (p.msg.dst.die ≠ p.die) && decide (siteKind p.site = some .xTile) && decide (some (xEdge p.site).1 = p.exit)
    && (portTarget s p.die p.site (xEdge p.site).1).isSome
  let ports := if atEdge then [(xEdge p.site).1] else adaptivePorts s p.die p.site target
  let base := if p.vc % 2 = 0 then p.vc else p.vc - 1
  let room (vc : Nat) (port : Nat) : Option (Nat × Nat) :=
    (portTarget s p.die p.site port).bind (fun t =>
      let f := freeFlits s t.1 t.2.1 t.2.2 (if t.1 = p.die then vc else base)
      if p.len + 1 ≤ f then some (port, f) else none)
  let go (port vc : Nat) : Option (Nat × Nat × Nat × Nat) :=
    (portTarget s p.die p.site port).map (fun t => (t.1, t.2.1, t.2.2, if t.1 = p.die then vc else base))
  let esc := Config.escapePort (siteKey p.die p.site) (siteKey p.die target) % 4
  let escape := if atEdge then (room (base + 1) (xEdge p.site).1).bind (fun c => go c.1 (base + 1))
    else match siteNeighbour p.site esc with
      | some n => if s.net.holes.contains (siteKey p.die n) then none else (room (base + 1) esc).bind (fun c => go c.1 (base + 1))
      | none => none
  if p.vc = base then
    match mostFree (ports.filterMap (room base)) with
    | some c => go c.1 base
    | none => escape
  else escape

/-- One hop of a packet at a hub's router: over the lane group with the most free flits of an adaptive edge, one that leads to no hole, and over one of its escape direction where no adaptive one has room (R28, R313, R325, R326, R328; log entry 27). -/
def hopHub (s : State) (p : Packet) : Option (Nat × Nat × Nat × Nat) :=
  let base := if p.vc % 2 = 0 then p.vc else p.vc - 1
  let esc := Config.escapePort (siteKey p.die blockSite) (siteKey p.msg.dst.die 0) % 4
  let room (dirs : List Nat) : Option (Nat × Nat) := mostFree (dirs.flatMap (fun e => (upTo 6).filterMap (fun g =>
    if s.net.lostGroups.contains (groupKey p.die e g) || farHole s.net.holes p.die e g then none
    else ((dieNeighbour p.die e).filter (fun n => !(dieOf s n).fenced)).bind (fun n =>
      let f := freeFlits s n (xSite (opposite e) g) (opposite e) base
      if p.len + 1 ≤ f then some (e * 6 + g, f) else none))))
  ((room (dieDirs s p.die p.msg.dst.die)).orElse (fun _ => room [esc])).bind (fun c =>
    (dieNeighbour p.die (c.1 / 6)).map (fun n => (n, xSite (opposite (c.1 / 6)) (c.1 % 6), opposite (c.1 / 6), base)))

/-- The die from which a broadcast packet reaches a die where a die is fenced: a neighbour one step nearer to H0, a compute die before a hub (R340; log entry 26). -/
def treeParent (s : State) (n : Nat) : Option Nat :=
  let near := [2, 3, 0, 1].filterMap (fun q => (dieNeighbour n q).filter (fun k => edgeUsable s n q && decide ((dieDistance s 0x60 k).map (· + 1) = dieDistance s 0x60 n)))
  (near.find? (fun k => isCompute k)).orElse (fun _ => near.head?)

/-- The dies to which a broadcast packet goes on from a die: the default tree, or a shortest-path tree over the usable dies, which takes in a hub only to reach a compute die (R340). -/
def treeChildren (s : State) (die : Nat) : List Nat :=
  let p := dieXY die
  if s.net.tableFenced.isEmpty then
    let n := if (p.1 = 0 ∧ p.2 < 8) ∨ (1 ≤ p.1 ∧ p.1 ≤ 8 ∧ p.2 < 9) then (dieNeighbour die 0).toList else []
    let e := if (p.2 = 0 ∧ p.1 < 8) ∨ (p.1 = 8 ∧ 1 ≤ p.2 ∧ p.2 ≤ 8) then (dieNeighbour die 1).toList else []
    n ++ e
  else
    (upTo 4).filterMap (fun e => (dieNeighbour die e).filter (fun n => !(s.net.tableFenced.contains n) && decide (treeParent s n = some die)
      && (isCompute n || (upTo 4).any (fun q => (dieNeighbour n q).any (fun k => isCompute k && !(s.net.tableFenced.contains k) && decide (treeParent s k = some n))))))

/-- The first packet of a router's input port and VC. -/
def headPacket (s : State) (die site port vc : Nat) : Option Packet :=
  s.net.packets.find? (fun p => p.die == die && p.site == site && p.port == port && p.vc == vc)

/-- The packets without the first one of a router's input port and VC. -/
def dropHead (die site port vc : Nat) : List Packet → List Packet
  | [] => []
  | p :: ps => if p.die = die ∧ p.site = site ∧ p.port = port ∧ p.vc = vc then ps else p :: dropHead die site port vc ps

/-- The packets of the fabric replaced. -/
def setPackets (s : State) (ps : List Packet) : State := { s with net := { s.net with packets := ps } }

/-- A packet handed to the NI of an endpoint's site or die block. -/
def toEject (s : State) (die site : Nat) (p : Packet) : State := modNi s die site (fun n => { n with eject := n.eject ++ [p] })

/-- A packet with its exit edge fixed on entering a compute die that is not its own (R327). -/
def aimed (s : State) (p : Packet) : Packet :=
  if p.exit.isNone && p.msg.dst.die != p.die && isCompute p.die then { p with exit := exitEdge s p } else p

/-- Where a packet's router sends it on, none while no port has room (R326 to R328). -/
def hopOf (s : State) (p : Packet) : Option (Nat × Nat × Nat × Nat) := if isHub p.die then hopHub s p else hopAt s p

/-- Whether a packet is at the router of its destination. -/
def atHome (p : Packet) : Bool := p.msg.dst.die == p.die && routerOf p.msg.dst == p.site

/-- Whether a packet's destination is out of the route tables as a hole or a fenced die (R328). -/
def lostTarget (s : State) (p : Packet) : Bool :=
  s.net.tableHoles.contains (siteKey p.msg.dst.die (routerOf p.msg.dst)) || s.net.tableFenced.contains p.msg.dst.die

/-- The output that a packet can leave its router on now, keyed by the input it leads to, or by LOCAL (R314). -/
def wantedOutput (s : State) (p : Packet) : Option Nat :=
  if p.msg.cfgm then none
  else if atHome p then some (siteKey p.die p.site * 16 + 15)
  else if lostTarget s p then none
  else (hopOf s (aimed s p)).map (fun t => siteKey t.1 t.2.1 * 16 + t.2.2.1)

/-- Whether a packet at another input of its router wants the same output and comes before it in the round-robin order after the input that won last (R314; log entry 116). -/
def inputAhead (s : State) (p : Packet) : Bool :=
  let n := if isHub p.die then 13 else 5
  match wantedOutput s p with
  | none => false
  | some o =>
    let last := Tab.get (n - 1) o s.net.turns
    let place (q : Nat) : Nat := (q + 2 * n - 1 - last) % n
    (upTo n).any (fun q => decide (place q < place p.port) && (upTo 5).any (fun v => (headPacket s p.die p.site q v).any (fun h => wantedOutput s h == some o)))

/-- The round-robin turn of an output passes to the input that won it (R314). -/
def takeTurn (s : State) (p : Packet) : State :=
  match wantedOutput s p with
  | some o => { s with net := { s.net with turns := Tab.set o p.port s.net.turns } }
  | none => s

/-- A router routes the first packet of an input port and VC, in round-robin order over the inputs that want one output: the header is decoded, a packet at its destination goes to LOCAL, a broadcast packet to every branch, and any other to the port chosen (R314, R326 to R328, R339 to R341). -/
def routePacket (s : State) (die site port vc headerFlip : Nat) (dataFlips : List Nat) : State :=
  match headPacket s die site port vc with
  | none => s
  | some p0 =>
    let rest := dropHead die site port vc s.net.packets
    match decodePattern (p0.headerFlip ^^^ headerFlip) with
    | .uncorrectable => raiseCorrected (setPackets s rest) 0x0504 0 die (if site = blockSite then 2 else 1) (if site = blockSite then 0 else site) 0
    | d =>
      let s := if d = .clean then s else telAdd s die site 0x50020 1
      let p := { p0 with headerFlip := 0, dataFlips := List.zipWith (· ^^^ ·) (p0.dataFlips ++ List.replicate p0.len 0) (dataFlips ++ List.replicate p0.len 0) |>.take p0.len }
      let p := aimed s p
      let left (s : State) : State := telAdd (setPackets (takeTurn s p) (dropHead die site port vc s.net.packets)) die site 0x50008 (p.len + 1)
      let stay := setPackets s (s.net.packets.map (fun q => if q = p0 then p else q))
      if p.msg.cfgm then
        let branches := treeChildren s die
        if branches.all (fun b => decide (p.len + 1 ≤ freeFlits s b (if isHub b then blockSite else 203) (localPort b) 4)) then
          let s := left s
          let s := setPackets s (s.net.packets ++ branches.map (fun b => { p with die := b, site := if isHub b then blockSite else 203, port := localPort b, vc := 4 }))
          if isCompute die then toEject s die blockSite { p with msg := { p.msg with dst := configEp die } } else s
        else s
      else if inputAhead s p then stay
      else if atHome p then toEject (left s) die p.msg.dst.site p
      else if lostTarget s p then setPackets s rest
      else
        match hopOf s p with
        | none => stay
        | some (d', s', q', v') =>
          let s := left s
          setPackets s (s.net.packets ++ [{ p with die := d', site := s', port := q', vc := v', exit := if d' = die then p.exit else none }])

def execMullPacketRoute (die site port vc headerFlip : Nat) (dataFlips : List Nat) (s : State) : Host.Outcome State Fault Refusal :=
  if (isCompute die && decide (site < 480)) || (isHub die && site == blockSite) then .next (if (dieOf s die).fenced ∨ s.net.holes.contains (siteKey die site) then s else routePacket s die site port vc headerFlip dataFlips)
  else .fault (.noSuchUnit die site)

/-- The buffers of an NI that count against the same room as an endpoint's (R332). -/
def rxUsed (ni : Ni) (e : Ep) : Nat := (ni.rx.filter (fun b => (b.msg.dst.port == portNear) == (e.port == portNear))).length

/-- The outcome of decoding a packet's data flits: whether all can be used, and how many were corrected (R339). -/
def dataDecode (flips : List Nat) : Bool × Nat :=
  flips.foldl (fun r f => match decodePattern f with
    | .uncorrectable => (false, r.2)
    | .corrected _ => (r.1, r.2 + 1)
    | .clean => r) (true, 0)

/-- The NI takes its next packet off the network: a reply is passed on, a request joins its message's buffer, takes a free one, or is refused (R320, R333, R337, R339). -/
def ejectPacket (s : State) (die site : Nat) : State :=
  match (niOf s die site).eject with
  | [] => s
  | p :: ps =>
    let s := modNi s die site (fun n => { n with eject := ps })
    let m := p.msg
    let dec := dataDecode p.dataFlips
    let s := telAdd s die site 0x50020 dec.2
    if !isRequest m then modNi s die site (fun n => { n with replies := n.replies ++ [m] })
    else if !dec.1 then
      raiseContained (reply s m 0x83 0x0505 false []) 0x0505 m.job die (if site = blockSite then 2 else 1) (if site = blockSite then 0 else site) 0
    else if site ≠ blockSite ∧ m.dst.port ≠ portNear ∧ siteParted s die site ∧ !isReleaseMsg m then refuse s m 3
    else
      let ni := niOf s die site
      let rx := ni.rx.filter (fun b => !(sameMsg b.msg m && b.msg.attempt != m.attempt))
      match rx.find? (fun b => sameMsg b.msg m) with
      | some _ => modNi s die site (fun n => { n with rx := rx.map (fun b => if sameMsg b.msg m then { b with have0 := b.have0 || p.index == 0, have1 := b.have1 || p.index == 1 } else b) })
      | none =>
        if rxUsed { ni with rx := rx } m.dst < rxRoom m.dst then
          modNi s die site (fun n => { n with rx := rx ++ [{ msg := m, have0 := p.index == 0, have1 := p.index == 1, count := p.count, first := s.now, stage := .partialMsg }] })
        else refuse (modNi s die site (fun n => { n with rx := rx })) m 1

def execPacketEjection (die site : Nat) (s : State) : Host.Outcome State Fault Refusal :=
  if isDie die && (site == blockSite || (isCompute die && decide (site < 480))) then .next (ejectPacket s die site) else .fault (.noSuchUnit die site)

/-- The buffer of a message that has all its packets (R320). -/
def completeBuf (s : State) (die site : Nat) (src : Ep) (issuer msgId : Nat) : Option RxBuf :=
  (niOf s die site).rx.find? (fun b => b.msg.src == src && b.msg.issuer == issuer && b.msg.msgId == msgId && b.have0 && (b.have1 || b.count == 1)
    && (b.stage == .partialMsg || b.stage == .waitOrder))

/-- A buffer's stage set. -/
def setStage (s : State) (m : Msg) (st : RxStage) : State :=
  modNi s m.dst.die m.dst.site (fun n => { n with rx := n.rx.map (fun b => if sameMsg b.msg m then { b with stage := st } else b) })

/-- A message passed to its unit in flow order, LAST recorded where an entry is present or free (R334). -/
def passFlow (s : State) (m : Msg) (fl : Option Flow) : State :=
  let e : Flow := { src := m.src, issuer := m.issuer, dst := m.dst, last := m.seq, time := s.now }
  let s := modNi s m.dst.die m.dst.site (fun n =>
    match fl with
    | some _ => { n with flows := n.flows.map (fun f => if f.src = m.src ∧ f.issuer = m.issuer ∧ f.dst = m.dst then e else f) }
    | none => if (n.flows.filter (fun f => (f.dst.port == portNear) == (m.dst.port == portNear))).length < flowRoom m.dst then { n with flows := n.flows ++ [e] } else n)
  setStage s m .delivered

/-- Whether a message of the same flow that its unit has taken is still unapplied, held ones among them (R43, R334, R336). -/
def flowBusy (s : State) (m : Msg) : Bool :=
  (niOf s m.dst.die m.dst.site).rx.any (fun b => !sameMsg b.msg m && b.msg.src == m.src && b.msg.issuer == m.issuer && b.msg.dst == m.dst
    && (b.stage == .delivered || b.stage == .held))

/-- A complete message is passed on, waits until its predecessor has been applied, or is refused, by DEP and its flow entry (R43, R320, R334). -/
def completeMessage (s : State) (die site : Nat) (src : Ep) (issuer msgId : Nat) : State :=
  match completeBuf s die site src issuer msgId with
  | none => s
  | some b =>
    let m := b.msg
    let fl := (niOf s die site).flows.find? (fun f => f.src == m.src && f.issuer == m.issuer && f.dst == m.dst)
    if !m.dep then passFlow s m fl
    else match fl with
      | some f => if (f.last + 1) % 65536 = m.seq ∧ !flowBusy s m then passFlow s m fl else setStage s m .waitOrder
      | none => refuse s m 2

def execMessageComplete (die site : Nat) (src : Ep) (issuer msgId : Nat) (s : State) : Host.Outcome State Fault Refusal :=
  if isDie die then .next (completeMessage s die site src issuer msgId) else .fault (.noSuchUnit die site)

/-- A buffer still incomplete 100 µs after its first packet is freed with BUSY (R333). -/
def execNiBufferTimeout (die site : Nat) (src : Ep) (issuer msgId : Nat) (s : State) : Host.Outcome State Fault Refusal :=
  onDie die (match (niOf s die site).rx.find? (fun b => b.msg.src == src && b.msg.issuer == issuer && b.msg.msgId == msgId) with
    | some b => if b.stage = .partialMsg ∧ !(b.have0 && (b.have1 || b.count == 1)) ∧ b.first + 100000 ≤ s.now then refuse s b.msg 1 else s
    | none => s)

/-- A message that has waited 100 µs for its predecessor is freed with ORDER_RETRY (R334). -/
def execOrderWaitTimeout (die site : Nat) (src : Ep) (issuer msgId : Nat) (s : State) : Host.Outcome State Fault Refusal :=
  onDie die (match (niOf s die site).rx.find? (fun b => b.msg.src == src && b.msg.issuer == issuer && b.msg.msgId == msgId) with
    | some b => if b.stage = .waitOrder ∧ b.first + 100000 ≤ s.now then refuse s b.msg 2 else s
    | none => s)

/-- A flow entry with no buffered message ends 10 µs after its last application (R334). -/
def execFlowEntryExpiry (die site : Nat) (src : Ep) (issuer : Nat) (dst : Ep) (s : State) : Host.Outcome State Fault Refusal :=
  onDie die (modNi s die site (fun n =>
    { n with flows := n.flows.filter (fun f => !(f.src == src && f.issuer == issuer && f.dst == dst && decide (f.time + 10000 ≤ s.now)
        && n.rx.all (fun b => !(b.msg.src == src && b.msg.issuer == issuer && b.msg.dst == dst)))) }))

/-- Whether a request's time limit has passed: held and withdrawn requests have none, the HOST port's runs only while the link is up (R264, R335, R336). -/
def overdue (s : State) (o : Outst) : Bool :=
  decide (o.first + o.limit ≤ s.now) && (o.msg.dst.port != portHost || s.link.up) &&
  (match o.st with
  | .sent => true
  | .refused _ _ => true
  | _ => false)

/-- The outstanding request of an NI by MSG_ID. -/
def outOf (s : State) (die site msgId : Nat) : Option Outst := (niOf s die site).out.find? (fun o => o.msg.msgId == msgId && o.st != .queued)

/-- An outstanding request updated. -/
def modOut (s : State) (die site msgId : Nat) (f : Outst → Outst) : State :=
  modNi s die site (fun n => { n with out := n.out.map (fun o => if o.msg.msgId = msgId then f o else o) })

/-- A message sent again as a whole with the next ATTEMPT (R335). -/
def resend (s : State) (die site : Nat) (o : Outst) (dep : Bool) : State :=
  let m := { o.msg with attempt := (o.msg.attempt + 1) % 256, dep := dep }
  let s := telAdd (modOut s die site m.msgId (fun o => { o with msg := m, st := .sent })) die site 0x50018 1
  match sourceReply s m with
  | none => setPackets s (s.net.packets ++ packetsOf m 0)
  | some r => modNi s die site (fun n => { n with replies := n.replies ++ [r] })

/-- A refused message is resent when its reason's time has come; REGION_PARTED ends with ERROR 1 ms after the first refusal (R335). -/
def execMessageResend (die site msgId : Nat) (s : State) : Host.Outcome State Fault Refusal :=
  onDie die (match outOf s die site msgId with
    | some o =>
      match o.st with
      | .refused 1 t => if t + 2000 ≤ s.now then resend s die site o o.msg.dep else s
      | .refused 2 _ =>
        if ((niOf s die site).out.takeWhile (fun p => p.msg.msgId != msgId)).all (fun p => !sameFlow p.msg o.msg) then resend s die site o false else s
      | .refused 3 t =>
        if (o.partedSince.getD s.now) + 1000000 < s.now then
          modNi (modOut s die site msgId (fun o => { o with st := .sent })) die site (fun n => { n with replies := n.replies ++ [localReply o.msg 0x0507] })
        else if t + 10000 ≤ s.now then resend s die site o o.msg.dep else s
      | _ => s
    | none => s)

/-- HELD arrives: the message is no longer counted toward its time limit (R336). -/
def execHeld (m : Msg) (s : State) : Host.Outcome State Fault Refusal :=
  onDie m.dst.die (
    let s := modNi s m.dst.die m.dst.site (fun n => { n with replies := n.replies.filter (fun r => !(r.typ == 0x84 && r.msgId == m.msgId && r.src == m.src)) })
    modOut s m.dst.die m.dst.site m.msgId (fun o => if o.st = .sent then { o with st := .held } else o))

/-- The window's histograms are copied, added to the accumulators, and FULL set where a sample reached 90; a port's samples are its 8 bins and the count of samples at 90 (R342, R343). -/
def execTelemetryWindowEnd (die site : Nat) (samples : List (List Nat)) (s : State) : Host.Outcome State Fault Refusal :=
  onDie die (
    let start := (s.now / 10000 - 1) * 10000
    { s with net := { s.net with tel := (List.range samples.length).foldl (fun t p =>
        let row := nth [] p samples
        Tab.modify portTelInitial (siteKey die site * 16 + p) (fun x =>
          { x with wstart := start, hist := row.take 8, acc := List.zipWith (fun a b => (a + b) % 2 ^ 24) x.acc (row.take 8 ++ List.replicate 8 0), full := x.full || decide (0 < nth 0 8 row) }) t) s.net.tel } })

/-- The number of a router's ports (R345, R346). -/
def portCount (die : Nat) : Nat := if isHub die then 13 else 5

/-- An accumulator as one word: bin k in bits [24k+23:24k], FULL in bit 192 (log entry 9). -/
def accWord (x : PortTel) : Word := BitVec.ofNat 256 (packElems 24 x.acc + (if x.full then 2 ^ 192 else 0))

/-- At the end of a period a router sends its accumulators to the fabric manager and clears them (R343). -/
def execTelemetryPeriodEnd (die site : Nat) (s : State) : Host.Outcome State Fault Refusal :=
  onDie die (
    let words := (upTo (portCount die)).map (fun p => accWord (Tab.get portTelInitial (siteKey die site * 16 + p) s.net.tel))
    let s := { s with net := { s.net with tel := (upTo (portCount die)).foldl (fun t p =>
        Tab.modify portTelInitial (siteKey die site * 16 + p) (fun x => { x with acc := List.replicate 8 0, full := false }) t) s.net.tel } }
    sendReq s { die := die, site := site, port := portTile, index := 0 } 0 0 0x0B (configEp 0x60) 0 words)

/-- TELEMETRY reaches the fabric manager (R318, R343). -/
def execTelemetry (m : Msg) (s : State) : Host.Outcome State Fault Refusal :=
  applyMsg s m (fun s =>
    if m.dst.die ≠ 0x60 then s
    else
      let s := { s with net := { s.net with mapIn := (List.range m.data.length).foldl (fun t p =>
        let w := (nth 0 p m.data).toNat
        Tab.set (siteKey m.src.die m.src.site * 16 + p) { wstart := 0, hist := [], acc := elems 24 8 w, full := bit w 192 } t) s.net.mapIn } }
      ack s m)

/-- Whether a site's router has a port (R313). -/
def portPresent (die site port : Nat) : Bool :=
  port == 4 || (siteNeighbour site port).isSome || (decide (siteKind site = some .xTile) && (xEdge site).1 == port && (dieNeighbour die port).isSome)

/-- The lowest bin at or below which num/den of the samples lie (R345). -/
def binAt (acc : List Nat) (num den : Nat) : Nat :=
  let total := acc.foldl (· + ·) 0
  ((upTo 8).find? (fun b => decide (num * total ≤ den * (acc.take (b + 1)).foldl (· + ·) 0))).getD 7

/-- One byte of the congestion map (R345). -/
def mapEntry (s : State) (die site port : Nat) : Nat :=
  if isCompute die && !portPresent die site port then 0xFF
  else if s.net.holes.contains (siteKey die site) || (dieOf s die).fenced then 0xFE
  else match Tab.find? (siteKey die site * 16 + port) s.net.mapIn with
    | none => 0xFD
    | some x => binAt x.acc 1 2 * 16 + (if x.full then 8 else 0) + binAt x.acc 99 100

/-- The 230,452 entries of a map (R344, R345). -/
def mapEntries (s : State) : List Nat :=
  (upTo 96).flatMap (fun d => (upTo 480).flatMap (fun k => (upTo 5).map (fun p => mapEntry s d k p)))
    ++ (upTo 4).flatMap (fun h => (upTo 13).map (fun q => mapEntry s (0x60 + h) blockSite q))

/-- The fabric manager writes the period's map to the next buffer, its first 8 bytes last, or discards it when no ring is set up (R344). -/
def execMapWrite (s : State) : Host.Outcome State Fault Refusal :=
  .next (
    if s.now < s.net.mapPeriod + 1000000 then s
    else
      let seq := s.net.mapSeq
      let wrote := match s.net.mapRing with
        | none => s
        | some (addr, n) =>
          let es := mapEntries s
          let flags := (if es.any (· == 0xFD) then 1 else 0) + (if s.net.mapPeriod + 1200000 < s.now then 2 else 0)
          let base := addr + 230528 * (seq % n)
          let s := writeDeviceFor s (base + 8)
            (leBytes 8 s.net.mapPeriod ++ leBytes 8 (s.net.mapPeriod + 1000000) ++ leBytes 4 230452 ++ leBytes 2 flags ++ leBytes 34 0
              ++ es.map (fun e => BitVec.ofNat 8 e) ++ leBytes 12 0) .map
          writeDeviceFor s base (leBytes 8 (seq + (if s.net.mapWrap then 2 ^ 63 else 0))) .map
      { wrote with net := { wrote.net with mapIn := [], mapPeriod := s.net.mapPeriod + 1000000
                                           mapSeq := (seq + 1) % 2 ^ 48, mapWrap := s.net.mapWrap || decide (seq + 1 = 2 ^ 48) } })

end Sys2Proof.Machine
end

