-- ==== Sys2Proof/Machine/Streams.lean ====
section
/-! DEFINITION. Sys2Proof/Machine/Streams.lean: stream engines: descriptors and their checks, admission, requests, replies, completion, faults, cancellation and discard (R244 to R272). -/

namespace Sys2Proof.Machine

/-- The address of word n of a pass, in exact arithmetic (R250). -/
def streamAddress (d : BitVec 1280) (n : Nat) : Int :=
  ((upTo 6).foldl (fun (r : Int × Nat) k =>
    let i := r.2 % max 1 (dimCount d k)
    (r.1 + ((dimStart d k + i : Nat) : Int) * dimStride d k, r.2 / max 1 (dimCount d k))) ((fld d.toNat 32 8 : Int), n)).1

/-- The lowest or highest address of the pattern (R251). -/
def streamExtreme (d : BitVec 1280) (high : Bool) : Int :=
  (upTo 6).foldl (fun (a : Int) k =>
    let i := if decide (0 < dimStride d k) == high then dimCount d k - 1 else 0
    a + ((dimStart d k + i : Nat) : Int) * dimStride d k) (fld d.toNat 32 8 : Int)

/-- An address as a natural number, 2^64 standing for one that is none. -/
def addrNat (a : Int) : Nat := if a < 0 ∨ 2 ^ 64 ≤ a then 2 ^ 64 else a.toNat

/-- Whether an address is malformed or no address at all. -/
def badAddr (a : Nat) : Bool := decide (2 ^ 64 ≤ a) || addrMalformed a

/-- The S-tile site that a scratchpad address names. -/
def spaceSite (a : Nat) : Nat := (spSite (bits a 28 21)).getD 0

/-- Field checks of R248, R249 and R251. -/
def streamFieldsOk (d : BitVec 1280) : Bool :=
  let f := fld d.toNat
  (f 0 1 == 1 || f 0 1 == 2) && decide (f 1 1 < 16) && f 8 2 != 0 && (decide (f 10 1 < 16) || f 10 1 == 0xFF) && decide (f 11 1 < 16)
    && decide (32 ≤ f 20 2) && decide (f 20 2 ≤ 1024) && f 20 2 % 32 == 0 && f 22 2 == 0 && f 28 4 == 0 && f 48 16 == 0
    && (spaceOf (f 32 8) == 3 || bits (f 11 1) 3 2 == 0)
    && (if f 0 1 = 1 then bits (f 11 1) 3 2 != 3 else bits (f 11 1) 1 0 != 3)
    && (upTo 6).all (fun k => dimStride d k % 32 == 0 && decide ((dimStride d k).natAbs ≤ 2 ^ 58) && decide (1 ≤ dimCount d k))
    && decide (passWords d ≤ 2 ^ 32 - 1)

/-- The local side's rules (R257, R260). -/
def streamLocalOk (s : State) (die site job : Nat) (d : BitVec 1280) : Bool :=
  let f := fld d.toNat
  if engineX site then
    f 10 1 == 0xFF && f 16 4 == 0 && !bit (f 1 1) 1 && f 14 2 == 0
      && (match Tab.find? (siteKey die site) s.grain with
        | some g => g.eps.any (fun e => e.2.circuit == f 12 2 && e.2.job == job && e.2.kind == (if f 0 1 = 1 then 1 else 2))
        | none => false)
  else
    let t := spOf s die site
    decide (1 ≤ f 16 4) && decide (f 16 4 ≤ 65536) &&
    (if f 10 1 = 0xFF then t.ranges.any (fun r => (r.kind == 1 || r.kind == 2) && decide (r.base ≤ f 12 4) && decide (f 12 4 + f 16 4 ≤ r.base + r.count))
    else
      let q := t.quire (f 10 1)
      q.en && decide (f 12 4 + f 16 4 ≤ q.leafSlots))

/-- The status of the first kettle rank that a stream descriptor uses and that names no kettle (R248, R324, R493). -/
def streamRanks (s : State) (job : Nat) (d : BitVec 1280) : Option Nat :=
  let f := fld d.toNat
  [(0, 2), (1, 4), (3, 6)].findSome? (fun (k : Nat × Nat) => if bit (f 1 1) k.1 then rankStatus s job (f k.2 2) [portKettle] else none)

/-- The check of a stream descriptor at enqueue: the status that refuses it, none where it passes (R251). -/
def streamCheck (s : State) (die site job : Nat) (d : BitVec 1280) : Option Nat :=
  let f := fld d.toNat
  let base := f 32 8
  let sp := spaceOf base
  let lo := addrNat (streamExtreme d false)
  let hi := addrNat (streamExtreme d true)
  let crec := f 40 8
  let above (a : Nat) : Nat := if sp = 0 then a / 2 ^ 36 else if sp = 3 then a / 2 ^ 21 else sp
  let owned (a : Nat) : Bool := job == 0 || siteJob s (bits a 35 29) (spaceSite a) == job
  if !streamFieldsOk d || base % 32 != 0 || !([0, 1, 2, 3, 8].contains sp) then some 0x0105
  else if badAddr lo || badAddr hi || spaceOf lo != sp || spaceOf hi != sp || above lo != above base || above hi != above base then some 0x0105
  else if sp = 3 ∧ bits base 35 29 = die ∧ spaceSite base = site ∧ !engineX site then some 0x0105
  else if sp = 3 ∧ !owned base then some 0x0504
  else if sp = 8 ∧ !inHostWindow s job lo (hi + 32 - lo) (f 0 1 == 2) then some 0x0503
  else if !streamLocalOk s die site job d then some 0x0105
  else if bit (f 1 1) 1 ∧ f 10 1 = 0xFF then some 0x0105
  else if bit (f 1 1) 2 ∧ (crec % 64 ≠ 0 ∨ addrMalformed crec ∨ !([0, 1, 2, 3, 8].contains (spaceOf crec))) then some 0x0105
  else if bit (f 1 1) 2 ∧ spaceOf crec = 3 ∧ siteJob s (bits crec 35 29) (spaceSite crec) ≠ job then some 0x0504
  else if bit (f 1 1) 2 ∧ spaceOf crec = 8 ∧ !inHostWindow s job crec 64 true then some 0x0503
  else streamRanks s job d

/-- A stream as it joins its queue. -/
def newStream (d : BitVec 1280) (job : Nat) (owner : Option (Ep × Nat)) (serial : Nat) : Strm :=
  { desc := d, job := job, owner := owner, serial := serial, phase := if bit (fld d.toNat 1 1) 3 then .trigger .none else .running, passesDone := 0, issued := 0, pos := 0
    staged := [], done := [], outst := [], credited := 0, leaf := none, genSeen := none }

/-- A descriptor checked and joined to an engine's queue, or refused: the status, 0 when it is enqueued (R245, R251). -/
def enqueueStream (s : State) (die site job : Nat) (owner : Option (Ep × Nat)) (serial : Nat) (d : BitVec 1280) : State × Nat :=
  match streamCheck s die site job d with
  | some code => (s, code)
  | none =>
    let e := enOf s die site
    if 16 ≤ e.queue.length then (s, 0x0206)
    else (setEn s die site { e with queue := e.queue ++ [newStream d job owner serial] }, 0)

/-- A slot freed. -/
def freeSlot (s : State) (die site slot : Nat) : State :=
  let e := enOf s die site
  setEn s die site { e with slots := Tab.erase slot e.slots }

/-- An engine's endpoint. -/
def streamEp (die site : Nat) : Ep := { die := die, site := site, port := portStream, index := 0 }

/-- The kettle wait before a pass, where TRIG is set (R252). -/
def triggerPass (s : State) (die site slot : Nat) : State :=
  match slotOf s die site slot with
  | some x =>
    match x.phase with
    | .trigger .none =>
      let s := modSlot s die site slot (fun x => { x with phase := .trigger .sent })
      sendKettle s (streamEp die site) slot x.job (x.f 6 2) 2 false 1
    | _ => s
  | none => s

/-- STREAM_ADMIT: the oldest queued descriptor takes a free slot when its PREFETCH fits in the staging words left (R246). -/
def execStreamAdmit (die site : Nat) (s : State) : Host.Outcome State Fault Refusal :=
  onSite die site [.dpTile, .xTile] (
    let e := enOf s die site
    match e.queue with
    | [] => s
    | x :: rest =>
      match (upTo 8).find? (fun k => (Tab.find? k e.slots).isNone) with
      | some k =>
        if engineRuns s die site && decide (e.reserved + x.prefetch ≤ 1024) then
          triggerPass (setEn s die site { e with queue := rest, slots := Tab.set k x e.slots }) die site k
        else s
      | none => s)

/-- The causes of a stream's fault that are contained events of its word (R268, R542). -/
def wordCauses : List Nat := [0x0120, 0x0201, 0x0210, 0x0220, 0x0221, 0x0302, 0x0303]

/-- LAST_FAULT of an engine: the cause of its first stream fault, where that is a contained event (R276; DEDUCED, log entry 90). -/
def noteStream (s : State) (die site slot cause : Nat) : State :=
  match slotOf s die site slot with
  | some x => if x.job ≠ 0 ∧ wordCauses.contains cause then noteFault s die (2 ^ 22 + site) cause else s
  | none => s

/-- A stream stopped by a fault of one of its words (R268 step 1). -/
def faultStream (s : State) (die site slot cause refusal index addr : Nat) : State :=
  let s := noteStream s die site slot cause
  modSlot s die site slot (fun x => match x.phase with
    | .ending _ _ _ _ _ _ => x
    | .recording _ _ => x
    | .faulted _ _ _ => x
    | _ => { x with phase := .ending 1 cause refusal index addr s.now })

/-- A local access made: the fill's leaf and GEN are kept until the fill ends, and its end signals FILL_KETTLE with release (R258). -/
def fillStep (s : State) (die site slot n base : Nat) (began : Bool) : State :=
  match slotOf s die site slot with
  | none => s
  | some x =>
    if x.f 10 1 = 0xFF then s
    else
      let q := (spOf s die site).quire (x.f 10 1)
      let ends := decide ((n + 1) % max 1 (x.f 16 4) = 0) || decide (n + 1 = passWords x.desc)
      let s := modSlot s die site slot (fun x => { x with leaf := if ends then none else some base, genSeen := if began then some q.gen else x.genSeen })
      if ends && bit (x.f 1 1) 1 then sendKettle s (streamEp die site) slot x.job (x.f 4 2) 1 true 1 else s

/-- Words consecutive in slot and stream order from word n on, at most k of them (R254). -/
def runLength (d : BitVec 1280) (n limit : Nat) : Nat → Nat
  | 0 => 0
  | k + 1 =>
    let r := runLength d n limit k
    if r = k ∧ n + k < limit ∧ streamAddress d (n + k) = streamAddress d n + 32 * (k : Int) then k + 1 else r

/-- An outstanding request added to a stream. -/
def addOut (s : State) (die site slot : Nat) (o : StOut) (next : Nat) : State :=
  modSlot s die site slot (fun x => { x with outst := x.outst ++ [o], issued := next })

/-- Words put into staging from a word of the pass on (R261). -/
def stageWords (s : State) (die site slot first : Nat) (ws : List Word) : State :=
  modSlot s die site slot (fun x => { x with staged := (List.range ws.length).foldl (fun t i => Tab.set (first + i) (nth 0 i ws) t) x.staged })

/-- The words at n and n + 1 of a pass that are both words of one host line: none, or whether they come in the reverse of address order (R255). -/
def linePair (d : BitVec 1280) (n limit : Nat) : Option Bool :=
  let a := addrNat (streamAddress d n)
  let b := addrNat (streamAddress d (n + 1))
  if n + 1 < limit ∧ a / 64 = b / 64 ∧ a ≠ b then some (decide (b < a)) else none

/-- The ISSUER of a completion record's request: its stream's slot above the slots themselves, 16 for a stream that holds none (DESIGN CHOICE, log entry 111). -/
def recordIssuer (slot : Nat) : Nat := 8 + slot

/-- A stream's request sent, and listed until its final reply (R213, R254, R323). -/
def streamSend (s : State) (die site slot : Nat) (x : Strm) (o : StOut) (next typ : Nat) (dst : Ep) (a : Nat) (data : List Word) : State :=
  let s := addOut s die site slot { o with id := nextMsgId s (streamEp die site) } next
  sendReq s (streamEp die site) slot x.job typ dst (BitVec.ofNat 64 a) data

/-- A STORE's words done remotely: a moves to the oldest word not done (R261, R265). -/
def storeDone (s : State) (die site slot first count : Nat) : State :=
  let s := telAdd s die site 0x348 count
  modSlot s die site slot (fun x =>
    let done := x.done ++ (upTo count).map (first + ·)
    let pos := (upTo (done.length + 1)).foldl (fun p _ => if done.contains p then p + 1 else p) x.pos
    { x with pos := pos, done := done.filter (fun k => decide (pos ≤ k)) })

/-- Whether a place is on an engine's own near channel, which it reaches directly (R213, R244, R253). -/
def ownPlace (die site : Nat) (p : Place) : Bool :=
  match p with
  | .near d _ ch => d == die && !engineX site && ch == dpChannel site
  | _ => false

/-- Whether an address lies in an engine's own near channel while the stack admits no access (R217). -/
def ownHeld (s : State) (die site a : Nat) : Bool := ownPlace die site (placeOf s a) && placeHeld s (placeOf s a)

/-- A LOAD's request for word n and those that share it (R253 to R255, R261). -/
def loadRequest (s : State) (die site slot : Nat) (x : Strm) : State :=
  let n := x.issued
  let limit := min (passWords x.desc) (x.pos + x.prefetch)
  let a := addrNat (streamAddress x.desc n)
  let o : StOut := { id := 0, first := n, count := 1, rev := false }
  match spaceOf a with
  | 3 =>
    let k := max 1 (runLength x.desc n limit 16)
    streamSend s die site slot x { o with count := k } (n + k) 1 { die := bits a 35 29, site := spaceSite a, port := portTile, index := 0 } 0 [spCommand 1 (bits (x.f 11 1) 3 2) (bits a 20 5) k]
  | 8 =>
    match linePair x.desc n limit with
    | some rev => streamSend s die site slot x { o with count := 2, rev := rev } (n + 2) 2 (hostEp 0) (a / 64 * 64) [BitVec.ofNat 256 2]
    | none => streamSend s die site slot x o (n + 1) 2 (hostEp 0) a [BitVec.ofNat 256 1]
  | _ =>
    match placeOf s a with
    | .unbacked => faultStream (raiseWord (modSlot s die site slot (fun x => { x with issued := n + 1 })) 0x0220 x.job die 1 site a) die site slot 0x0220 0 n a
    | .other => faultStream (raiseWord s 0x0220 x.job die 1 site a) die site slot 0x0220 0 n a
    | p =>
      if ownPlace die site p then
        if !pageAdmits (pageOf s p.page) x.job then faultStream (raiseWord s 0x0221 x.job die 1 site a) die site slot 0x0221 0 n a
        else
          let r := decodeAt s p.home
          match r.2.1 with
          | some w => stageWords (modSlot (if r.2.2 then placeTel r.1 p false 1 else r.1) die site slot (fun x => { x with issued := n + 1 })) die site slot n [w]
          | none => faultStream (uncorrectableAt r.1 p a x.job true) die site slot 0x0201 0 n a
      else match p.server with
        | some e => streamSend s die site slot x o (n + 1) 2 e a [BitVec.ofNat 256 1]
        | none => s

/-- The next word that a STORE sends: the oldest that it has read and not sent (R261). -/
def Strm.sendAt (x : Strm) : Nat := x.issued - x.staged.length

/-- Whether a STORE's next local word can still be read before what is staged must be sent (R254, R261). -/
def readsMore (s : State) (die site slot : Nat) (x : Strm) : Bool :=
  if engineX site then decide (x.issued < min (passWords x.desc) (x.pos + x.prefetch)) && (enOf s die site).xIn.any (fun p => p.1 == x.f 12 2)
  else (x.localAcc (spOf s die site) slot).any (fun a => (spOf s die site).accReady a)

/-- Words that a STORE sends in one request, 0 while those that share it are still being read (R254, R255). -/
def sendCount (s : State) (die site slot : Nat) (x : Strm) : Nat :=
  let n := x.sendAt
  let limit := min (passWords x.desc) (x.pos + x.prefetch)
  let want := match spaceOf (addrNat (streamAddress x.desc n)) with
    | 3 => max 1 (runLength x.desc n limit 15)
    | 8 => if (linePair x.desc n limit).isSome then 2 else 1
    | _ => 1
  if want ≤ x.staged.length then want else if readsMore s die site slot x then 0 else x.staged.length

/-- A STORE's remote write of its oldest staged words (R253 to R255, R261, R265). -/
def storeRequest (s : State) (die site slot : Nat) (x : Strm) : State :=
  let n := x.sendAt
  let a := addrNat (streamAddress x.desc n)
  let k := sendCount s die site slot x
  let ws := (upTo k).map (fun i => Tab.get 0 (n + i) x.staged)
  let s := modSlot s die site slot (fun x => { x with staged := x.staged.filter (fun e => decide (n + k ≤ e.1)) })
  let o : StOut := { id := 0, first := n, count := k, rev := false }
  match spaceOf a with
  | 3 =>
    streamSend s die site slot x o x.issued 1 { die := bits a 35 29, site := spaceSite a, port := portTile, index := 0 } 0 (spCommand 2 (bits (x.f 11 1) 3 2) (bits a 20 5) k :: ws)
  | 8 =>
    if k = 2 then
      let rev := decide (addrNat (streamAddress x.desc (n + 1)) < a)
      streamSend s die site slot x { o with rev := rev } x.issued 3 (hostEp 0) (a / 64 * 64) (if rev then ws.reverse else ws)
    else streamSend s die site slot x o x.issued 3 (hostEp 0) a ws
  | _ =>
    match placeOf s a with
    | .unbacked => faultStream (raiseWord s 0x0220 x.job die 1 site a) die site slot 0x0220 0 n a
    | .other => faultStream (raiseWord s 0x0220 x.job die 1 site a) die site slot 0x0220 0 n a
    | p =>
      if ownPlace die site p then
        if pageAdmits (pageOf s p.page) x.job then storeDone (dramWord s p (nth 0 0 ws)) die site slot n 1
        else faultStream (raiseWord s 0x0221 x.job die 1 site a) die site slot 0x0221 0 n a
      else match p.server with
        | some e => streamSend s die site slot x o x.issued 3 e a ws
        | none => s

/-- Whether an active stream has a request to issue on its remote side: a LOAD within its prefetch window, a STORE with words to send; its own near channel admits none while the stack is in HOLD (R217, R247, R261). -/
def hasRequest (s : State) (die site slot : Nat) (x : Strm) : Bool :=
  let n := if x.isLoad then x.issued else x.sendAt
  x.phase == .running && !ownHeld s die site (addrNat (streamAddress x.desc n))
    && (if x.isLoad then decide (n < min (passWords x.desc) (x.pos + x.prefetch)) else decide (0 < sendCount s die site slot x))

/-- The stream whose turn it is on the remote side, one whose next word cannot proceed being skipped (R247). -/
def remoteNext (s : State) (die site : Nat) : Option Nat :=
  nextTurn (enOf s die site).remoteTurn ((upTo 8).filter (fun k => (slotOf s die site k).any (hasRequest s die site k)))

/-- The wait of a stream for its next local word counted: on a GEN change, or on a tag, a bank or a circuit (R276). -/
def localWait (s : State) (die site : Nat) (x : Strm) (n : Nat) : State :=
  if !engineX site && (fillReady (spOf s die site) x n).isNone then telAdd s die site 0x360 1 else telAdd s die site 0x358 1

/-- The next local access of a stream made: a LOAD's staged word is written with its tag set, a STORE's word enters staging, and one that cannot be corrected faults the stream (R205, R257, R258, R261). -/
def localStep (s : State) (die site slot : Nat) : State :=
  match slotOf s die site slot with
  | none => s
  | some x =>
    let t := spOf s die site
    let n := if x.isLoad then x.pos else x.issued
    match fillReady t x n, x.localAcc t slot with
    | some (base, began), some a =>
      let s := narrowWords (setEn s die site { enOf s die site with localTurn := slot }) die site 1
      match a.write with
      | some w =>
        let s := telAdd (fillStep (spWrite s die site a.slot a.mode w) die site slot n base began) die site 0x348 1
        modSlot s die site slot (fun x => { x with pos := n + 1, staged := Tab.erase n x.staged })
      | none =>
        match spReadFor true s die site a.slot a.mode with
        | (s, none) => faultStream s die site slot 0x0120 0 n (slotAddr die site a.slot)
        | (s, some w) => modSlot (fillStep s die site slot n base began) die site slot (fun x => { x with issued := n + 1, staged := Tab.set n w x.staged })
    | _, _ => s

/-- A stream's next local word moved: it is the stream's turn and its bank grants the access, or an X-tile's circuit holds a word for it; what an X-tile's LOAD has staged its circuit takes (R176, R177, R204, R247, R260). -/
def localMove (s : State) (die site slot : Nat) (x : Strm) : State :=
  let n := if x.isLoad then x.pos else x.issued
  if engineX site then
    if x.isLoad then s
    else if min (passWords x.desc) (x.pos + x.prefetch) ≤ n then s
    else
      let e := enOf s die site
      match e.xIn.find? (fun p => p.1 == x.f 12 2) with
      | none => localWait s die site x n
      | some p => stageWords (modSlot (freePlaces (setEn s die site { e with xIn := e.xIn.erase p }) die site 0 0 1) die site slot (fun x => { x with issued := n + 1 })) die site slot n [p.2]
  else if x.isLoad ∧ (Tab.find? n x.staged).isNone then s
  else if !x.isLoad ∧ min (passWords x.desc) (x.pos + x.prefetch) ≤ n then s
  else match x.localAcc (spOf s die site) slot with
    | some a => if localNext s die site = some slot ∧ spWins s die site a then spSettle (localStep s die site slot) die site else localWait s die site x n
    | none => localWait s die site x n

/-- Flips of staged words, found as the engine reads them: upsets of a staged word carry 2^64 plus its index; corrected ones are put right, another faults the stream as a word of its tile (R245; DESIGN CHOICE, log entry 108). -/
def strikeStaged (s : State) (die site slot : Nat) (u : Upset) : State :=
  u.foldl (fun s e =>
    let n := e.1 - 2 ^ 64
    match (slotOf s die site slot).bind (fun x => Tab.find? n x.staged) with
    | none => s
    | some w =>
      let keep (p : Nat) (s : State) : State := modSlot s die site slot (fun x => { x with staged := Tab.set n (w ^^^ BitVec.ofNat 256 p) x.staged })
      match decodePattern e.2 with
      | .clean => keep e.2 s
      | .corrected r => keep r s
      | .uncorrectable => faultStream (raiseSiteFor true s 0x0120 die site 0) die site slot 0x0120 0 n 0) s

/-- STREAM_REQUEST_ISSUE: a STORE reads its next local word, and an active stream whose turn it is issues the request for its next word within its prefetch window (R247, R253 to R262). -/
def execStreamRequestIssue (die site slot : Nat) (u : Upset) (s : State) : Host.Outcome State Fault Refusal :=
  onSite die site [.dpTile, .xTile] (
    let s := strikeStaged { s with flips := addUpsets s.flips (u.filter (fun e => decide (e.1 < 2 ^ 64))) } die site slot (u.filter (fun e => decide (2 ^ 64 ≤ e.1)))
    match slotOf s die site slot with
    | none => s
    | some x =>
      if x.phase ≠ .running ∨ !engineRuns s die site then s
      else
        let s := if x.isLoad then s else localMove s die site slot x
        match slotOf s die site slot with
        | none => s
        | some x =>
          if remoteNext s die site ≠ some slot then s
          else
            let s := setEn s die site { enOf s die site with remoteTurn := slot }
            if x.isLoad then loadRequest s die site slot x else storeRequest s die site slot x)

/-- A request's final reply taken: data is staged, an acknowledged write is done, an error faults the stream; replies of an ending stream only settle it (R255, R261, R265, R268). -/
def takeReply (s : State) (die site slot : Nat) (o : StOut) (r : StReply) : State :=
  match slotOf s die site slot with
  | none => s
  | some x =>
    let s := modSlot s die site slot (fun x => { x with outst := x.outst.filter (fun p => p != o) })
    let n := o.first + r.word
    let a := addrNat (streamAddress x.desc n)
    if r.typ = 0x81 then (if x.phase = .running then stageWords s die site slot o.first (if o.rev then r.data.reverse else r.data) else s)
    else if r.typ = 0x80 then storeDone s die site slot o.first o.count
    else if r.scode then faultStream s die site slot 0x0305 r.status n a
    else if r.status = 0x0303 then faultStream (raiseWord s 0x0303 x.job die 1 site a) die site slot 0x0303 0 n a
    else faultStream s die site slot r.status 0 n a

/-- A stream whose record is written or has failed: its signal is sent unless it failed, and it frees its slot, or waits for its task's event where it has faulted itself (R265, R268). -/
def recordOver (s : State) (die site slot : Nat) (x : Strm) (sig ok : Bool) (fault : Option (Nat × Nat × Nat)) : State :=
  match fault with
  | some f => modSlot s die site slot (fun x => { x with phase := .faulted f.1 f.2.1 f.2.2, outst := [] })
  | none =>
    let s := freeSlot s die site slot
    if sig && ok then sendKettle s (streamEp die site) slot x.job (x.f 2 2) 1 false 1 else s

/-- The failure of a completion record's write: a contained error of the job with its code, which the serving unit has raised itself where the page was not its own or not backed (R265, R587; log entry 111). -/
def recordFailed (s : State) (job die site a status : Nat) (scode : Bool) : State :=
  if !scode && (status == 0x0220 || status == 0x0221) then s
  else raiseContained s (if scode then 0x0305 else if status = 0x0502 then 0x0302 else status) job die 1 site a

/-- STREAM_REPLY: the engine takes its oldest reply for a slot, and a staged word is written in stream order; a record's reply ends its stream. A parted region's engine only settles its requests (R207, R261, R265, R271). -/
def execStreamReply (die site slot : Nat) (s : State) : Host.Outcome State Fault Refusal :=
  onSite die site [.dpTile, .xTile] (
    match slotOf s die site slot with
    | none => s
    | some x =>
      let e := enOf s die site
      let got := e.inbox.findSome? (fun r => (x.outst.find? (fun o => o.id == r.id)).map (fun o => (r, o)))
      let s := match got with
        | some (r, o) =>
          let s := setEn s die site { e with inbox := e.inbox.erase r }
          (match x.phase with
          | .recording sig fault => recordOver (if r.typ = 0x83 then recordFailed s x.job die site (x.f 40 8) r.status r.scode else s) die site slot x sig (r.typ != 0x83) fault
          | _ => takeReply s die site slot o r)
        | none => s
      match slotOf s die site slot with
      | none => s
      | some x =>
        if x.phase ≠ .running ∨ !x.isLoad ∨ !engineRuns s die site then s
        else if got.isNone ∧ x.pos < passWords x.desc ∧ (Tab.find? x.pos x.staged).isNone then telAdd s die site 0x350 1
        else localMove s die site slot x)

/-- The words of the pass in progress before which every word is finished: those written or done, those credited of an X-tile's LOAD (R265, R266). -/
def Strm.finished (x : Strm) (site : Nat) : Nat := if engineX site && x.isLoad then x.credited else x.pos

/-- The completion record (R266). -/
def recordBytes (s : State) (site : Nat) (x : Strm) (result cause refusal index addr : Nat) : List Byte :=
  let full := result == 0
  leBytes 1 result ++ leBytes 1 (x.f 0 1) ++ leBytes 2 x.task ++ leBytes 2 (if result = 1 then cause else 0) ++ leBytes 2 refusal
    ++ leBytes 4 (min x.passesDone (2 ^ 32 - 1)) ++ leBytes 4 (if full then 0 else x.finished site)
    ++ leBytes 4 (if full then 0 else x.finished site + x.done.length) ++ leBytes 4 (if full then 2 ^ 32 - 1 else index) ++ leBytes 8 addr
    ++ leBytes 8 s.now ++ leBytes 8 (x.f 32 8) ++ leBytes 16 0

/-- The write of a completion record as a whole: made at once on the engine's own near channel while its stack admits it, otherwise a request, which the answer names; or the code of a failure (R213, R217, R265; log entry 111). -/
def writeRecord (s : State) (die site slot : Nat) (x : Strm) (bs : List Byte) : State × Option StOut × Nat :=
  let a := x.f 40 8
  let p := placeOf s a
  let ws := (upTo 2).map (fun k => BitVec.ofNat 256 (leNat ((bs.drop (32 * k)).take 32)))
  let send (typ : Nat) (dst : Ep) (arg : Nat) (data : List Word) : State × Option StOut × Nat :=
    (sendReq s (streamEp die site) (recordIssuer slot) x.job typ dst (BitVec.ofNat 64 arg) data, some { id := nextMsgId s (streamEp die site), first := 0, count := 0, rev := false }, 0)
  if spaceOf a = 8 then send 3 (hostEp 0) a ws
  else if spaceOf a = 3 then send 1 { die := bits a 35 29, site := spaceSite a, port := portTile, index := 0 } 0 (spCommand 2 2 (bits a 20 5) 2 :: ws)
  else match p.server with
    | none => (s, none, 0x0220)
    | some e =>
      if ownPlace die site p && !placeHeld s p then
        if pageAdmits (pageOf s p.page) x.job then (dramBytes s p bs, none, 0) else (s, none, 0x0221)
      else send 3 e a ws

/-- A stream's end: the record where CREC is set, then the signal, and the slot is free; a record that is a request keeps the slot until its reply, and a stream that has faulted until its task's event (R265, R268). -/
def endStream (s : State) (die site slot : Nat) (x : Strm) (result cause refusal index addr time : Nat) : State :=
  let sig := result == 0 && bit (x.f 1 1) 0
  let fault := if result = 1 then some (cause, addr, time) else none
  if bit (x.f 1 1) 2 then
    match writeRecord s die site slot x (recordBytes s site x result cause refusal index addr) with
    | (s, some o, _) => modSlot s die site slot (fun x => { x with phase := .recording sig fault, outst := [o] })
    | (s, none, code) => recordOver (if code = 0 then s else raiseContained s code x.job die 1 site (x.f 40 8)) die site slot x sig (code == 0) fault
  else recordOver s die site slot x sig true fault

/-- Whether every word of the pass is finished (R265). -/
def passFinished (die site : Nat) (x : Strm) : Bool :=
  x.outst.isEmpty && x.pos == passWords x.desc && (!(engineX site && x.isLoad) || x.credited == passWords x.desc) && decide (die < 96)

/-- STREAM_COMPLETE: a pass has finished; the next begins, or the stream is complete (R252, R265). -/
def execStreamComplete (die site slot : Nat) (s : State) : Host.Outcome State Fault Refusal :=
  onSite die site [.dpTile, .xTile] (
    match slotOf s die site slot with
    | none => s
    | some x =>
      if x.phase ≠ .running ∨ !passFinished die site x ∨ !engineRuns s die site then s
      else
        let x' := { x with passesDone := x.passesDone + 1, issued := 0, pos := 0, credited := 0, done := [], phase := if bit (x.f 1 1) 3 then .trigger .none else .running }
        if x.f 24 4 = 0 ∨ x.passesDone + 1 < x.f 24 4 then triggerPass (modSlot s die site slot (fun _ => x')) die site slot
        else endStream s die site slot { x' with phase := .running } 0 0 0 0 0 0)

/-- STREAM_TIMEOUT: a request without a final reply for 2 ms, or 50 ms to the host, faults its stream; one of a completion record fails the record (R264, R265). -/
def execStreamTimeout (die site slot : Nat) (s : State) : Host.Outcome State Fault Refusal :=
  onSite die site [.dpTile, .xTile] (
    match slotOf s die site slot with
    | none => s
    | some x =>
      match x.outst.find? (fun o => (outOf s die site o.id).any (overdue s)) with
      | none => s
      | some o =>
        let a := addrNat (streamAddress x.desc o.first)
        let s := modSlot s die site slot (fun x => { x with outst := x.outst.filter (fun p => p != o) })
        let s := modNi s die site (fun n => { n with out := n.out.filter (fun p => p.msg.msgId != o.id) })
        match x.phase with
        | .recording sig fault => recordOver (recordFailed s x.job die site (x.f 40 8) 0x0302 false) die site slot x sig false fault
        | _ => faultStream (raiseWord s 0x0302 x.job die 1 site a) die site slot 0x0302 0 o.first a)

/-- Every active stream of a job's task, by die, site and slot. -/
def taskStreams (s : State) (job task : Nat) : List (Nat × Nat × Nat × Strm) :=
  List.flatMap (fun (e : Nat × Engine) => (e.2.slots.filter (fun (x : Nat × Strm) => x.2.job == job && x.2.task == task)).map (fun x => (e.1 / 1024, e.1 % 1024, x.1, x.2))) s.engines

/-- The record of a stream that holds no slot: it is written or sent where CREC is set, and only its failure is reported (R265, R268, R271). -/
def recordLoose (s : State) (die site : Nat) (x : Strm) (result : Nat) : State :=
  if bit (x.f 1 1) 2 then
    let r := writeRecord s die site 8 x (recordBytes s site x result 0 0 (2 ^ 32 - 1) 0)
    if r.2.2 ≠ 0 then raiseContained r.1 r.2.2 x.job die 1 site (x.f 40 8) else r.1
  else s

/-- A task's active streams stopped with a result and its queued descriptors removed with their records (R268 step 2, R270). -/
def stopTask (s : State) (job task result : Nat) : State :=
  let s := (taskStreams s job task).foldl (fun s x => modSlot s x.1 x.2.1 x.2.2.1 (fun y => match y.phase with
    | .ending _ _ _ _ _ _ => y
    | .recording _ _ => y
    | .faulted _ _ _ => y
    | _ => { y with phase := .ending result 0 0 (2 ^ 32 - 1) 0 s.now })) s
  List.foldl (fun s (e : Nat × Engine) =>
    let hit := e.2.queue.filter (fun x => x.job == job && x.task == task)
    let s := setEn s (e.1 / 1024) (e.1 % 1024) { enOf s (e.1 / 1024) (e.1 % 1024) with queue := e.2.queue.filter (fun x => !(x.job == job && x.task == task)) }
    hit.foldl (fun s x => recordLoose s (e.1 / 1024) (e.1 % 1024) x result) s) s s.engines

/-- Whether every stopped stream of a task has its requests settled (R268 step 3). -/
def taskSettled (s : State) (job task : Nat) : Bool := (taskStreams s job task).all (fun x => match x.2.2.2.phase with
    | .ending _ _ _ _ _ _ => x.2.2.2.outst.isEmpty
    | _ => true)

/-- The stopped streams of a task ended with their records (R268 step 4). -/
def endTask (s : State) (job task : Nat) : State :=
  (taskStreams s job task).foldl (fun s x => match x.2.2.2.phase with
    | .ending result cause refusal index addr time => endStream s x.1 x.2.1 x.2.2.1 x.2.2.2 result cause refusal index addr time
    | _ => s) s

/-- Whether a completion record of a task is still on its way: one of a stream that holds its slot, or one of the job's streams that hold none (R268 step 4). -/
def taskRecording (s : State) (job task : Nat) : Bool :=
  (taskStreams s job task).any (fun x => match x.2.2.2.phase with
    | .recording _ _ => true
    | _ => false)
    || List.any s.net.nis (fun (e : Nat × Ni) => e.2.out.any (fun o => o.msg.src.port == portStream && o.msg.src.site != blockSite && o.msg.issuer == recordIssuer 8 && o.msg.job == job))

/-- The fault that the event of a task names: the earliest, at the lower die and site on a tie (R268). -/
def firstFault (l : List (Nat × Nat × Nat × Strm)) : Option (Nat × Nat × Nat × Nat × Nat) :=
  l.foldl (fun best x => match x.2.2.2.phase with
    | .faulted cause addr time =>
      match best with
      | some b => if time < b.2.2.2.2 ∨ (time = b.2.2.2.2 ∧ siteKey x.1 x.2.1 < siteKey b.1 b.2.1) then some (x.1, x.2.1, cause, addr, time) else best
      | none => some (x.1, x.2.1, cause, addr, time)
    | _ => best) none

/-- Whether a stream has faulted itself and its task's event is still to be raised (R268). -/
def Strm.ownFault (x : Strm) : Bool :=
  match x.phase with
  | .ending 1 _ _ _ _ _ => true
  | .recording _ (some _) => true
  | .faulted _ _ _ => true
  | _ => false

/-- STREAM_FAULT: a faulting stream stops its task; once the requests are settled the records are written, and once those are written the event is raised and so the job faulted (R268). -/
def execStreamFault (die site slot : Nat) (s : State) : Host.Outcome State Fault Refusal :=
  onSite die site [.dpTile, .xTile] (
    match slotOf s die site slot with
    | none => s
    | some x =>
      if !x.ownFault then s
      else
        let s := stopTask s x.job x.task 2
        if !taskSettled s x.job x.task then s
        else
          let s := endTask s x.job x.task
          let l := taskStreams s x.job x.task
          match (if taskRecording s x.job x.task then none else firstFault l) with
          | none => s
          | some (d, k, cause, addr, _) =>
            let s := (l.filter (fun y => y.2.2.2.ownFault)).foldl (fun s y => freeSlot s y.1 y.2.1 y.2.2.1) s
            raise s { code := 0x0301, cls := if x.job = 0 then 0 else 1, job := if x.job = 0 then 0xFF else x.job, die := d, ukind := 1, index := k, time := s.now
                      detail := addr, region := siteRegion s d k, ext := some (x.task + cause * 2 ^ 16, 0), defers := false })

/-- A model fetch whose task is cancelled ends without a resident model (R469, R270; DEDUCED, log entry 44). -/
def dropFetch (s : State) (job task : Nat) : State :=
  { s with seqs := s.seqs.map (fun (e : Nat × SeqUnit) =>
      let u := e.2
      match u.cfg, u.fetch with
      | some d, some f =>
        if fld d.toNat 34 2 = task ∧ (Tab.find? u.region s.regions).map Region.job = some job then
          (e.1, { u with fetch := none, slots := Tab.set f.slot { st := .empty, lastUse := 0 } u.slots })
        else e
      | _, _ => e) }

/-- A cancelled task's stopped streams ended once they have settled (R268, R270). -/
def cancelOn (s : State) (job task : Nat) : State := if taskSettled s job task then endTask s job task else s

/-- A cancellation of a task: its streams stop with CANCELLED, and end once settled (R270). -/
def cancelTask (s : State) (job task : Nat) : State := cancelOn (dropFetch (stopTask s job task 3) job task) job task

/-- Whether every stopped stream of a cancelled task has ended and every record of it is written (R268, R270, R394). -/
def taskGone (s : State) (job task : Nat) : Bool :=
  !taskRecording s job task && (taskStreams s job task).all (fun x => match x.2.2.2.phase with
    | .ending _ _ _ _ _ _ => false
    | _ => true)

/-- The streams of an engine discarded as its sites go blank: records outside the region, no signal, later replies dropped (R271). -/
def discardStreams (s : State) (die site : Nat) (outside : Nat → Bool) : State :=
  let e := enOf s die site
  let record (s : State) (x : Strm) : State := if outside (x.f 40 8) then recordLoose s die site x 4 else s
  let s := setEn s die site engineInitial
  e.queue.foldl record (e.slots.foldl (fun s x => if x.2.over then s else record s x.2) s)

end Sys2Proof.Machine
end

