-- ==== Sys2Proof/Machine/Banks.lean ====
section
/-! DEFINITION. Sys2Proof/Machine/Banks.lean: the grants of an S-tile's banks and its patrol scrub (R176, R177, R184 to R186, R204 to R207). -/

namespace Sys2Proof.Machine

/-- One cycle of a bank: one eligible access granted, the others' waits counted. An uncorrectable tag error is raised before the grant, which goes on (R177, R184 to R186; DESIGN CHOICE, log entry 114). -/
def bankGrant (s : State) (die site bank : Nat) (u : Upset) : State :=
  if siteParted s die site then s
  else
    let s := tagUpsets { s with flips := addUpsets s.flips (u.filter (fun e => decide (e.1 < 2 ^ 64))) } die site u
    let t := spOf s die site
    let c := eligible s die site bank
    let s := telAdd s die site 0x198 (if (bankAccs s die site bank).all t.accReady then 0 else 1)
    match grantChoice t c with
    | none => s
    | some p =>
      let losers := c.filter (fun a => accKey a != accKey p)
      let waits := losers.foldl (fun w a =>
        Tab.modify { since := t.stamp, refused := 0 } (accKey a) (fun x => { x with refused := x.refused + 1 }) w) (Tab.erase (accKey p) t.waits)
      let aged := !p.wide && decide (16 ≤ ((Tab.find? (accKey p) t.waits).map SpWait.refused).getD 0)
      let s := setSp s die site { t with waits := waits, stamp := t.stamp + 1 }
      let s := telAdd (telAdd (telAdd s die site (if p.wide then 0x180 else 0x188) (if p.wide || p.src == 9 || p.src == 10 then 1 else 0)) die site 0x190 losers.length) die site 0x1A0 (if aged then 1 else 0)
      spSettle (if p.src < 8 then chanGrant s die site p
        else if p.src = 8 then localStep s die site (p.id / 2 ^ 33)
        else if p.src = 11 then gatherGrant s die site p.slot
        else cmdGrant s die site p) die site

def execBankGrant (die site bank : Nat) (u : Upset) (s : State) : Host.Outcome State Fault Refusal :=
  onSite die site [.sTile, .dpTile] (bankGrant s die site bank u)

/-- The patrol scrub reads the next row of a bank that no other access can use, corrects or reports it, and changes no tag; a slot of no range faults no job (R177, R205, R206). -/
def execPatrolScrubSp (die site bank : Nat) (u : Upset) (s : State) : Host.Outcome State Fault Refusal :=
  onSite die site [.sTile, .dpTile] (
    if siteParted s die site || !(eligible s die site bank).isEmpty then s
    else
      let s := { s with flips := addUpsets s.flips u }
      let t := spOf s die site
      let row := Tab.get 0 bank t.patrol % 4096
      let slot := row * 16 + bank % 16
      let s := setSp s die site { t with patrol := Tab.set bank ((row + 1) % 4096) t.patrol }
      let r := decodeAt s (slotAddr die site slot)
      match r.2.1 with
      | some _ => if r.2.2 then telAdd r.1 die site 0x1A8 1 else r.1
      | none =>
        if (t.rangeAt slot).isSome then raiseSite r.1 0x0120 die site (slotAddr die site slot)
        else raiseCorrected r.1 0x0120 0 die 1 site (slotAddr die site slot))

end Sys2Proof.Machine
end

