-- ==== Sys2Proof/Machine/Multiplier.lean ====
section
/-! DEFINITION. Sys2Proof/Machine/Multiplier.lean: M-tiles: weight store, accumulators, contexts, sweeps, drains, tags and the copy audit (R83 to R130). -/

namespace Sys2Proof.Machine

/-- An M-tile. -/
def mtOf (s : State) (die site : Nat) : MTile := Tab.get mTileInitial (siteKey die site) s.mTiles

/-- An M-tile replaced. -/
def setMt (s : State) (die site : Nat) (t : MTile) : State := { s with mTiles := Tab.set (siteKey die site) t s.mTiles }

/-- A context of an M-tile. -/
def MTile.ctx (t : MTile) (c : Nat) : MCtx := nth mCtxInitial c t.ctxs

/-- A context replaced. -/
def MTile.setCtx (t : MTile) (c : Nat) (x : MCtx) : MTile := { t with ctxs := t.ctxs.set c x }

/-- A field of a descriptor of 64 bytes. -/
def dfld (d : BitVec 512) (off size : Nat) : Nat := fld d.toNat off size

/-- Whether a context is of a STATIC ring (R121). -/
def MCtx.isStatic (c : MCtx) : Bool := dfld c.desc 1 1 == 0

/-- The descriptor that a context runs next (R121). -/
def MCtx.next (c : MCtx) : Option (BitVec 512) :=
  if c.isStatic then c.ring[c.pos]? else c.queue[0]?

/-- A context past its descriptor: the ring counts its passes down to DONE, an END descriptor of the queue ends the context as it issues, be it a WLOAD or DRAIN that goes on in its engine (R121, R123; DESIGN CHOICE, log entry 98). -/
def MCtx.advance (c : MCtx) (d : BitVec 512) : MCtx :=
  if c.isStatic then
    if c.pos + 1 < dfld c.desc 16 1 then { c with pos := c.pos + 1 }
    else if dfld c.desc 20 4 = 0 then { c with pos := 0 }
    else { c with pos := 0, repeatsLeft := c.repeatsLeft - 1, st := if c.repeatsLeft ≤ 1 then .done else c.st }
  else { c with queue := c.queue.tail, pos := (c.pos + 1) % 16, st := if bit (dfld d 1 1) 2 then .done else c.st }

/-- Formats of an MMA (R61, R125). -/
def mmaFmtA (d : BitVec 512) : NumFmt := (fmtOfCode (numCtlOf (dfld d 8 4)).ifmtA).getD .bf16
def mmaFmtB (d : BitVec 512) : NumFmt := (fmtOfCode (numCtlOf (dfld d 8 4)).ifmtB).getD .bf16

/-- Positions of the contraction dimension in one beat (R86). -/
def beatSpan : NumFmt → Nat
  | .hb8 => 32
  | .hb4 => 64
  | _ => 16

/-- Beats per panel word (R115, R126). -/
def beatsPerPanel (d : BitVec 512) : Nat := beatSpan (mmaFmtB d) / beatSpan (mmaFmtA d)

/-- Data beats that one sidecar beat serves (R86). -/
def beatsPerGroup : NumFmt → Nat
  | .hb8 => 8
  | .hb4 => 4
  | _ => 0

/-- The panel word and accumulator block of a step (R126); the block is absolute. -/
def stepPanel (d : BitVec 512) (w : Sweep) : Nat := dfld d 19 1 + w.nb * dfld d 20 1 + w.kb / max 1 (beatsPerPanel d)
def stepBlock (c : MCtx) (d : BitVec 512) (w : Sweep) : Nat := dfld c.desc 2 1 + dfld d 13 1 + w.mb * dfld d 18 1 + w.nb

/-- The blocks that an MMA targets (R126). -/
def mmaBlocks (c : MCtx) (d : BitVec 512) : List Nat :=
  (upTo (dfld d 16 2 * dfld d 18 1)).map (fun k => dfld c.desc 2 1 + dfld d 13 1 + k)

/-- State of an accumulator block (R95). -/
def MTile.accState (t : MTile) (b : Nat) : AccState := Tab.get .accum b t.accSt

/-- State of a segment (R90). -/
def MTile.segState (t : MTile) (col : Bool) (g : Nat) : SegState := Tab.get .empty g (if col then t.segCol else t.segRow)

/-- A segment's state set. -/
def MTile.setSeg (t : MTile) (col : Bool) (g : Nat) (st : SegState) : MTile :=
  if col then { t with segCol := Tab.set g st t.segCol } else { t with segRow := Tab.set g st t.segRow }

/-- The copy and segments that a WRELEASE names (R124). -/
def releaseSegs (d : BitVec 512) : Bool × List Nat := (dfld d 8 1 == 1, (upTo (dfld d 10 1)).map (dfld d 9 1 + ·))

/-- The segments that a WLOAD targets, by copy: those that hold a panel word it writes (R91, R117, R127). -/
def loadSegs (d : BitVec 512) : List (Bool × Nat) :=
  if bit (dfld d 10 1) 0 then (upTo ((dfld d 11 1 + 15) / 8 - dfld d 11 1 / 8)).map (fun k => (false, dfld d 11 1 / 8 + k)) ++ [(true, dfld d 14 1 / 8)]
  else (upTo ((dfld d 11 1 + dfld d 12 2 + 7) / 8 - dfld d 11 1 / 8)).map (fun k => (dfld d 8 1 == 1, dfld d 11 1 / 8 + k))

/-- Whether the next step of a sweep can issue (R105). -/
def MTile.stepReady (t : MTile) (c : MCtx) (d : BitVec 512) (w : Sweep) : Bool :=
  let need := if isBlockFmt (mmaFmtA d) && c.side.isEmpty then 16 else 8
  decide (need ≤ c.aQueue.length)
    && t.segState (dfld d 12 1 == 1) (stepPanel d w / 8) == .ready
    && t.accState (stepBlock c d w) != .draining

/-- Whether a descriptor can issue, an MMA when its first step can (R105). -/
def MTile.descReady (t : MTile) (c : MCtx) (d : BitVec 512) : Bool :=
  match dfld d 0 1 with
  | 1 => t.stepReady c d { mb := 0, kb := 0, nb := 0, step := 0 }
  | 2 => decide (t.loadQ.length < 4)
  | 3 => (releaseSegs d).2.all (fun g => t.segState (releaseSegs d).1 g != .loading && t.segState (releaseSegs d).1 g != .regen)
  | 5 => decide (t.drainQ.length < 4) && (!bit (dfld d 14 1) 1 || c.wait == .none || c.wait == .released)
  | 7 => c.wait == .none || c.wait == .released
  | _ => true

/-- Whether a context can issue its next item (R104, R105). -/
def MTile.canIssue (t : MTile) (n : Nat) : Bool :=
  let c := t.ctx n
  (match c.st with
  | .off => false
  | .blocked => false
  | .done => false
  | .faulted => false
  | _ => true) &&
  (match c.next, c.sweep with
  | some d, some w => t.stepReady c d w
  | some d, none => t.descReady c d
  | none, _ => false)

/-- The state that a context shows (R104). -/
def MTile.shown (t : MTile) (n : Nat) : CtxState :=
  match (t.ctx n).st with
  | .off => .off
  | .blocked => .blocked
  | .done => .done
  | .faulted => .faulted
  | _ => if t.running = some n then .running else if t.canIssue n then .ready else .waiting

/-- A context stops running, from which its WAITED counts (R106, R130). -/
def MTile.stopRunning (t : MTile) (n now : Nat) : MTile :=
  if t.running = some n then { (t.setCtx n { t.ctx n with waitedFrom := now }) with running := none, notReady := 0, switchTo := none } else t

/-- The ready context that has waited longest, the lower number of two (R106). -/
def MTile.choose (t : MTile) : Option Nat :=
  (upTo 4).foldl (fun best n =>
    if t.running = some n || !t.canIssue n then best
    else match best with
      | some b => if (t.ctx n).waitedFrom < (t.ctx b).waitedFrom then some n else best
      | none => some n) none

/-- The switch cycle after two cycles without issue: the context chosen at the second of them runs. With no context running, at a start or after BLOCKED or DONE, the rule gives no wait: the longest-waiting ready context is chosen at once, in a switch cycle that is counted (R106; DESIGN CHOICE, log entry 94). -/
def switchStep (s : State) (die site : Nat) : State :=
  let t := mtOf s die site
  match (if t.running.isSome then t.switchTo else t.choose) with
    | none => s
    | some n =>
      let t := match t.running with
        | some r => t.stopRunning r s.now
        | none => t
      telAdd (setMt s die site { t with running := some n, notReady := 0, switchTo := none }) die site 0x068 1

/-- A row of 32 bytes of a panel word (R88). -/
def panelRow (p : BitVec 4096) (r : Nat) : Nat := p.toNat / 2 ^ (256 * r) % 2 ^ 256

/-- Elements of one operand row in a step: K codes from a 32-byte row, the step's share of the beat from an element offset on. -/
def stepCodes (f : NumFmt) (row off k : Nat) : List Nat :=
  (upTo k).map (fun i => row / 2 ^ (fmtWidth f * (off + i)) % 2 ^ fmtWidth f)

/-- K positions of a step by the format of A (R71, R86). -/
def stepK (f : NumFmt) : Nat := beatSpan f / 4

/-- Values of an A row in a step, its block exponent from the sidecar word (R53, R71, R86). -/
def aValues (f : NumFmt) (word side : Word) (kb step : Nat) : List Val :=
  let codes := stepCodes f word.toNat (step * stepK f) (stepK f)
  match f with
  | .hb8 => codes.map (unpackBlock f (side.toNat / 2 ^ (8 * (kb % 8)) % 256))
  | .hb4 => codes.map (unpackBlock f (side.toNat / 2 ^ (8 * (2 * (kb % 4) + step / 2)) % 256))
  | _ => codes.map (unpack f)

/-- An HB value decoded to BF16 by rule S (R69, R74, R115). -/
def hbToBf16 (v : Val) : Val := unpack .bf16 (roundTo .bf16 .rne false v).bits

/-- Values of a B row in a step; HB rows of a mixed sweep are decoded to BF16 (R71, R88, R115). -/
def bValues (fa fb : NumFmt) (row exps : Nat) (r kb step : Nat) : List Val :=
  let mixed := fa != fb
  let off := if mixed then kb % (beatSpan fb / beatSpan fa) * beatSpan fa + step * stepK fa else step * stepK fb
  let codes := stepCodes fb row off (stepK fa)
  let vals := match fb with
    | .hb8 => codes.map (unpackBlock fb (exps / 2 ^ (8 * r) % 256))
    | .hb4 => codes.map (unpackBlock fb (exps / 2 ^ (8 * (2 * r + off / 32)) % 256))
    | _ => codes.map (unpack fb)
  if mixed then vals.map hbToBf16 else vals

/-- The exact sum of products of two rows (R56, R71). -/
def exactDot (a b : List Val) : Val :=
  ((List.zip a b).map (fun p => (Val.mul p.1 p.2).1)).foldl (fun acc v => (Val.add .rne acc v).1) (.fin true 0 0)

/-- An accumulator element after a step: one rounding to FP32 of the exact sum (R71). -/
def accStep (acc : Nat) (a b : List Val) : Nat := (roundTo .fp32 .rne false (Val.add .rne (unpack .fp32 acc) (exactDot a b)).1).bits

/-- The block after a step: element 16r + c takes the dot product of A row r and B row c (R84). -/
def blockStep (acc : BitVec 4096) (rowsA rowsB : List (List Val)) : BitVec 4096 :=
  BitVec.ofNat 4096 (packElems 32 ((upTo 128).map (fun i =>
    accStep (acc.toNat / 2 ^ (32 * i) % 2 ^ 32) (nth [] (i / 16) rowsA) (nth [] (i % 16) rowsB))))

/-- The decoding of codewords of the weight store or the accumulators from a first key on: corrected count, whether all are usable, and the residual flips of miscorrected words (R120, R237). -/
def storeDecode (flips : Tab Nat) (first count : Nat) : Nat × Bool × Nat :=
  (upTo count).foldl (fun r k =>
    match Tab.find? (first + k) flips with
    | none => r
    | some p => match decodePattern p with
      | .clean => (r.1, r.2.1, r.2.2 ^^^ (p % 2 ^ 256 * 2 ^ (256 * k)))
      | .corrected q => (r.1 + 1, r.2.1, r.2.2 ^^^ (q % 2 ^ 256 * 2 ^ (256 * k)))
      | .uncorrectable => (r.1, false, r.2.2)) (0, true, 0)

/-- The key of a word of the weight store among its codewords: row 0 to 15 of a panel word, or its exponent word, 16 (R88). -/
def weightKey (col : Bool) (p r : Nat) : Nat :=
  if r = 16 then 16384 + (if col then 256 else 0) + p else (if col then 4096 else 0) + p * 16 + r

/-- A panel word of a copy as it is read (R88, R120). -/
def MTile.panelAt (t : MTile) (col : Bool) (p : Nat) : BitVec 4096 :=
  Tab.get 0 p (if col then t.col else t.row) ^^^ BitVec.ofNat 4096 (storeDecode t.flips ((if col then 4096 else 0) + p * 16) 16).2.2

/-- Whether a panel word of a copy can be read (R120). -/
def MTile.panelOk (t : MTile) (col : Bool) (p : Nat) : Bool := (storeDecode t.flips ((if col then 4096 else 0) + p * 16) 16).2.1

/-- An accumulator block as it is read (R94, R120). -/
def MTile.accAt (t : MTile) (b : Nat) : BitVec 4096 := Tab.get 0 b t.acc ^^^ BitVec.ofNat 4096 (storeDecode t.flips (8192 + b * 16) 16).2.2

/-- An accumulator block written: its codewords are fresh (R31, R94). -/
def MTile.fresh (t : MTile) (b : Nat) : MTile := { t with flips := t.flips.filter (fun e => !(decide (8192 + b * 16 ≤ e.1) && decide (e.1 < 8192 + b * 16 + 16))) }

/-- Upsets of stored codewords added by key. -/
def MTile.strike (t : MTile) (u : Upset) : MTile := { t with flips := addUpsets t.flips u }

/-- A context stopped by a contained fault (R104). -/
def MTile.faultCtx (t : MTile) (n now : Nat) : MTile :=
  let t := t.stopRunning n now
  let t := { t with switchTo := if t.switchTo = some n then none else t.switchTo }
  t.setCtx n { t.ctx n with st := .faulted }

/-- A task context as a contained fault of its job leaves it: FAULTED unless it was OFF or its descriptors were exhausted (R104). -/
def CtxState.ended : CtxState → CtxState
  | .off => .off
  | .done => .done
  | _ => .faulted

/-- Every context of an M-tile stopped by a contained fault of its job, its drains ended with the words that wait at the D port (R81, R104, R269). -/
def MTile.endJob (t : MTile) (now : Nat) : MTile :=
  let t := match t.running with
    | some n => t.stopRunning n now
    | none => t
  { t with ctxs := t.ctxs.map (fun c => { c with st := c.st.ended }), drainQ := [], dOut := [] }

/-- The sweep after a step: next step, column group, beat, output group, or none at its end (R126). -/
def Sweep.next (d : BitVec 512) (w : Sweep) : Option Sweep :=
  if w.step < 3 then some { w with step := w.step + 1 }
  else if w.nb + 1 < dfld d 18 1 then some { w with step := 0, nb := w.nb + 1 }
  else if w.kb + 1 < dfld d 24 4 then some { w with step := 0, nb := 0, kb := w.kb + 1 }
  else if w.mb + 1 < dfld d 16 2 then some { mb := w.mb + 1, kb := 0, nb := 0, step := 0 }
  else none

/-- The work of one step in its format's MAC counter, in units of 2^24 with the tile's remainder kept (R582). -/
def countMac (s : State) (die site : Nat) (f : NumFmt) : State :=
  let k := match f with
    | .hb8 => 1
    | .hb4 => 2
    | _ => 0
  let t := mtOf s die site
  let n := nth 0 k t.mac + 512 * 2 ^ k
  pkgAdd (setMt s die site { t with mac := t.mac.set k (n % 2 ^ 24) }) (0x800108 + 8 * k) (n / 2 ^ 24)

/-- One tile step of the running context; the panel word is read on a beat's first step for the block and held for the rest (R71, R83, R84, R87, R105, R110, R126; log entry 95). -/
def stepIssue (s : State) (die site n : Nat) (d : BitVec 512) (w : Sweep) : State :=
  let t := mtOf s die site
  let c := t.ctx n
  let fa := mmaFmtA d
  let fb := mmaFmtB d
  let (side, q) := if isBlockFmt fa && c.side.isEmpty then (c.aQueue.take 8, c.aQueue.drop 8) else (c.side, c.aQueue)
  let col := dfld d 12 1 == 1
  let p := stepPanel d w
  let blk := stepBlock c d w
  let first := w.step == 0
  let wdec := if first then storeDecode t.flips (weightKey col p 0) 16 else (0, true, 0)
  let edec := if first && isBlockFmt fb then storeDecode t.flips (weightKey col p 16) 1 else (0, true, 0)
  let adec := storeDecode t.flips (8192 + blk * 16) 16
  let s := telAdd (telAdd s die site 0x070 (wdec.1 + edec.1 + adec.1)) die site 0x058 1
  if !wdec.2.1 || !edec.2.1 || !adec.2.1 then raiseSite (setMt s die site (t.faultCtx n s.now)) 0x0101 die site 0
  else
    let panel := if first then (Tab.get 0 p (if col then t.col else t.row)) ^^^ BitVec.ofNat 4096 wdec.2.2 else c.panel
    let expWord := if first then (Tab.get 0 p (if col then t.colExp else t.rowExp)) ^^^ BitVec.ofNat 256 edec.2.2 else c.exps
    let exps := expWord.toNat
    let acc := (Tab.get 0 blk t.acc) ^^^ BitVec.ofNat 4096 adec.2.2
    let rowsA := (upTo 8).map (fun r => aValues fa (nth 0 r q) (nth 0 r side) w.kb w.step)
    let rowsB := (upTo 16).map (fun r => bValues fa fb (panelRow panel r) exps r w.kb w.step)
    let beatDone := w.step == 3 && w.nb + 1 == dfld d 18 1
    let groupDone := beatDone && isBlockFmt fa && (w.kb + 1) % beatsPerGroup fa == 0
    let q := if beatDone then q.drop 8 else q
    let side := if groupDone then [] else side
    let nxt := Sweep.next d w
    let tag := match t.accState blk with
      | .tagged _ k => some k
      | _ => none
    let c := { c with aQueue := q, side := side, sweep := nxt, panel := panel, exps := expWord }
    let c := if nxt.isNone then ({ c with finished := c.finished ++ [(d, if dfld d 14 2 = 0 then none else tag)] }).advance d else c
    let t := { (t.setCtx n c) with
      acc := Tab.set blk (blockStep acc rowsA rowsB) t.acc, notReady := 0
      flips := t.flips.filter (fun e => !(decide (8192 + blk * 16 ≤ e.1) && decide (e.1 < 8192 + blk * 16 + 16))) }
    let t := if c.st = .done then t.stopRunning n s.now else t
    let s := countMac (setMt s die site t) die site fa
    let s := if beatDone then freePlaces s die site 0 n 8 else s
    if groupDone then freePlaces s die site 0 n 8 else s

/-- A cycle in which the running context cannot issue: the second in a row chooses the context to switch to from the readiness at its start (R106, R130). -/
def notReadyCycle (s : State) (die site : Nat) : State :=
  let t := mtOf s die site
  telAdd (setMt s die site { t with notReady := t.notReady + 1, switchTo := if 1 ≤ t.notReady then t.choose else none }) die site 0x060 1

/-- M_STEP_ISSUE: the running context issues a step, or counts a cycle in which it could not; in a switch cycle nothing issues (R105, R106, R130). -/
def execMStepIssue (die site slot : Nat) (u : Upset) (s : State) : Host.Outcome State Fault Refusal :=
  onSite die site [.mTile] (
    if !siteRuns s die site || !issueOpen s die slot then s
    else
      let t := (mtOf s die site).strike u
      let s := setMt s die site t
      match t.running with
      | none => s
      | some n =>
        if t.switchTo.isSome then s
        else match (t.ctx n).next, (t.ctx n).sweep with
        | some d, some w => if t.canIssue n then stepIssue s die site n d w else notReadyCycle s die site
        | _, _ => if t.canIssue n then s else notReadyCycle s die site)

/-- A descriptor row: the running context issues its next descriptor when its opcode is the row's and it can issue (R105, R111, R123). -/
def mDesc (s : State) (die site n op : Nat) (f : MTile → MCtx → BitVec 512 → State) : Host.Outcome State Fault Refusal :=
  onSite die site [.mTile] (
    let t := mtOf s die site
    if !siteRuns s die site || t.running != some n || t.switchTo.isSome then s
    else match (t.ctx n).next with
      | some d => if dfld d 0 1 = op ∧ (t.ctx n).sweep.isNone ∧ t.canIssue n then f { t with notReady := 0 } (t.ctx n) d else s
      | none => s)

/-- A descriptor's completion signal (R123). -/
def descSignal (s : State) (die site n : Nat) (d : BitVec 512) : State :=
  if bit (dfld d 1 1) 0 then siteSignal s die site n (dfld d 2 2) (bit (dfld d 1 1) 1) else s

/-- The context advanced past a descriptor and stored; a DONE context stops running. -/
def mAdvance (s : State) (die site n : Nat) (t : MTile) (c : MCtx) (d : BitVec 512) : State :=
  let c := c.advance d
  let t := t.setCtx n c
  setMt s die site (if c.st = .done then t.stopRunning n s.now else t)

/-- Whether an MMA's TAG agrees with the state of its target blocks (R102, R129). -/
def tagAgrees (t : MTile) (c : MCtx) (d : BitVec 512) : Bool :=
  (mmaBlocks c d).all (fun b => match t.accState b with
    | .tagged g _ => g == dfld d 14 2
    | _ => dfld d 14 2 == 0)

/-- MMA: the sweep begins, or a TAG that disagrees is refused at issue; DETAIL then names the descriptor's ACC_BASE, whichever target block disagrees (R102, R125, R126, R129; DESIGN CHOICE, log entry 96). -/
def execMma (die site ctx : Nat) (s : State) : Host.Outcome State Fault Refusal :=
  mDesc s die site ctx 1 (fun t c d =>
    if tagAgrees t c d then setMt s die site (t.setCtx ctx { c with sweep := some { mb := 0, kb := 0, nb := 0, step := 0 } })
    else raiseSite (setMt s die site (t.faultCtx ctx s.now)) 0x0102 die site (dfld d 14 2 + dfld d 13 1 * 2 ^ 16))

/-- MMA_COMPLETE: the last step is written, and the tag's kettle and DONE_KETTLE are signalled (R100, R123). -/
def execMmaComplete (die site ctx : Nat) (s : State) : Host.Outcome State Fault Refusal :=
  onSite die site [.mTile] (
    let t := mtOf s die site
    match (t.ctx ctx).finished with
    | [] => s
    | (d, tagK) :: rest =>
      let s := setMt s die site (t.setCtx ctx { t.ctx ctx with finished := rest })
      let s := match tagK with
        | some k => siteSignal s die site ctx k false
        | none => s
      descSignal s die site ctx d)

/-- Words that one panel word takes on the W circuit (R92). -/
def panelWords (d : BitVec 512) : Nat := if dfld d 9 1 = 3 ∨ dfld d 9 1 = 4 then 17 else 16

/-- Panel words that a WLOAD writes, both copies counted (R92, R127). -/
def loadPanels (d : BitVec 512) : Nat := if bit (dfld d 10 1) 0 then 16 else dfld d 12 2

/-- Copy and panel word of a WLOAD's panel index (R92). -/
def loadTarget (d : BitVec 512) (i : Nat) : Bool × Nat :=
  if bit (dfld d 10 1) 0 then (if i < 8 then (false, dfld d 11 1 + i) else (true, dfld d 14 1 + (i - 8))) else (dfld d 8 1 == 1, dfld d 11 1 + i)

/-- One W word written by the load engine (R88, R92). -/
def MTile.loadWord (t : MTile) (d : BitVec 512) (i : Nat) (w : Word) : MTile :=
  let tgt := loadTarget d (i / panelWords d)
  let r := i % panelWords d
  let put (a : Tab (BitVec 4096)) : Tab (BitVec 4096) :=
    Tab.modify 0 tgt.2 (fun p => BitVec.ofNat 4096 (setBits p.toNat (256 * r + 255) (256 * r) w.toNat)) a
  let t := { t with flips := Tab.erase (weightKey tgt.1 tgt.2 r) t.flips }
  if r = 16 then (if tgt.1 then { t with colExp := Tab.set tgt.2 w t.colExp } else { t with rowExp := Tab.set tgt.2 w t.rowExp })
  else if tgt.1 then { t with col := put t.col } else { t with row := put t.row }

/-- The load engine takes the words that its oldest WLOAD's circuit has delivered (R92, R93). -/
def loadEngine : Nat → State → Nat → Nat → State
  | 0, s, _, _ => s
  | n + 1, s, die, site =>
    let t := mtOf s die site
    match t.loadQ with
    | [] => s
    | j :: js =>
      match (t.ctx j.ctx).wQueue with
      | w :: ws =>
        if j.words < loadPanels j.desc * panelWords j.desc then
          let t := (t.setCtx j.ctx { t.ctx j.ctx with wQueue := ws }).loadWord j.desc j.words w
          loadEngine n (freePlaces (setMt s die site { t with loadQ := { j with words := j.words + 1 } :: js }) die site 1 j.ctx 1) die site
        else s
      | [] => s

/-- WLOAD: every targeted segment must be EMPTY and becomes LOADING, else WEIGHT_SEG_BUSY (R90, R93, R127). -/
def execWload (die site ctx : Nat) (s : State) : Host.Outcome State Fault Refusal :=
  mDesc s die site ctx 2 (fun t c d =>
    if (loadSegs d).all (fun g => t.segState g.1 g.2 == .empty) then
      let t := (loadSegs d).foldl (fun t g => t.setSeg g.1 g.2 .loading) t
      loadEngine 64 (mAdvance s die site ctx { t with loadQ := t.loadQ ++ [{ ctx := ctx, desc := d, words := 0 }] } c d) die site
    else raiseSite (setMt s die site (t.faultCtx ctx s.now)) 0x0103 die site 0)

/-- Whether every word of a segment that a WLOAD writes has been written. -/
def segWritten (j : WJob) (g : Bool × Nat) : Bool :=
  (upTo (loadPanels j.desc)).all (fun i => !(loadTarget j.desc i == (g.1, (loadTarget j.desc i).2) && (loadTarget j.desc i).2 / 8 == g.2)
    || decide ((i + 1) * panelWords j.desc ≤ j.words))

/-- WLOAD_COMPLETE: segments whose last word is written become READY; after the last of them the WLOAD is complete, its pair is recorded and its kettle signalled (R90, R117, R123). -/
def execWloadComplete (die site : Nat) (s : State) : Host.Outcome State Fault Refusal :=
  onSite die site [.mTile] (
    let t := mtOf s die site
    match t.loadQ with
    | [] => s
    | j :: js =>
      let t := ((loadSegs j.desc).filter (segWritten j)).foldl (fun t g => if t.segState g.1 g.2 = .loading then t.setSeg g.1 g.2 .ready else t) t
      if j.words < loadPanels j.desc * panelWords j.desc then setMt s die site t
      else
        let pair : List AuditPair := if bit (dfld j.desc 10 1) 0 then
          [{ row := dfld j.desc 11 1 / 8, col := dfld j.desc 14 1 / 8, audited := dfld j.desc 9 1 == 1 || dfld j.desc 9 1 == 2 }] else []
        let s := setMt s die site { t with loadQ := js, pairs := t.pairs ++ pair }
        loadEngine 64 (descSignal s die site j.ctx j.desc) die site)

/-- WRELEASE: segments become EMPTY and their audit pairs are removed (R105, R111, R117, R124). -/
def execWrelease (die site ctx : Nat) (s : State) : Host.Outcome State Fault Refusal :=
  mDesc s die site ctx 3 (fun t c d =>
    let r := releaseSegs d
    let t := r.2.foldl (fun t g => t.setSeg r.1 g .empty) t
    let t := { t with pairs := t.pairs.filter (fun p => !(r.2.contains (if r.1 then p.col else p.row))) }
    descSignal (mAdvance s die site ctx t c d) die site ctx d)

/-- Blocks that a descriptor names from byte ACC_FIRST on, absolute. -/
def descBlocks (c : MCtx) (d : BitVec 512) (off : Nat) : List Nat := (upTo (dfld d (off + 1) 1)).map (fun k => dfld c.desc 2 1 + dfld d off 1 + k)

/-- Bits of free values from a counter on, 64 at a time. -/
def freeBits (ctr : Nat) : Nat → Nat
  | 0 => 0
  | n + 1 => (Config.freeValue ctr).toNat + 2 ^ 64 * freeBits (ctr + 1) n

/-- ZERO: its blocks become +0; the spec gives no content for a block that is not ACCUM, which takes a free value (R124; log entry 12). -/
def execZero (die site ctx : Nat) (s : State) : Host.Outcome State Fault Refusal :=
  mDesc s die site ctx 4 (fun t c d =>
    let r := (descBlocks c d 8).foldl (fun (r : MTile × Nat) b =>
      if r.1.accState b = .accum then ({ r.1.fresh b with acc := Tab.erase b r.1.acc }, r.2)
      else ({ r.1.fresh b with acc := Tab.set b (BitVec.ofNat 4096 (freeBits r.2 64)) r.1.acc }, r.2 + 64)) (t, s.freeCtr)
    descSignal (mAdvance { s with freeCtr := r.2 } die site ctx r.1 c d) die site ctx d)

/-- ACCOPEN: the blocks become TAGGED at once, those that a DRAIN has claimed and not yet read too, and are cleared if ZERO is set (R99, R124; DESIGN CHOICE, log entry 97). -/
def execAccopen (die site ctx : Nat) (s : State) : Host.Outcome State Fault Refusal :=
  mDesc s die site ctx 6 (fun t c d =>
    let t := (descBlocks c d 8).foldl (fun t b =>
      let z := bit (dfld d 14 1) 0
      { (if z then t.fresh b else t) with accSt := Tab.set b (.tagged (dfld d 10 2) (dfld d 12 2)) t.accSt
                                          acc := if z then Tab.erase b t.acc else t.acc }) t
    descSignal (mAdvance s die site ctx t c d) die site ctx d)

/-- A context blocks on a kettle wait sent to a rank's kettle (R104, R124). -/
def mWait (s : State) (die site n : Nat) (t : MTile) (rank kop demand : Nat) : State :=
  let t := t.stopRunning n s.now
  let t := t.setCtx n { t.ctx n with st := .blocked, wait := .sent }
  sendKettle (setMt s die site t) (tileEp die site n) n (siteJob s die site) rank kop false demand

/-- KWAIT: the wait is sent and the context is BLOCKED; once released the descriptor ends (R104, R124). -/
def execKwait (die site ctx : Nat) (s : State) : Host.Outcome State Fault Refusal :=
  mDesc s die site ctx 7 (fun t c d =>
    if c.wait = .released then descSignal (mAdvance s die site ctx t { c with wait := .none } d) die site ctx d
    else mWait s die site ctx t (dfld d 8 2) (if dfld d 10 1 = 0 then 2 else 3) (dfld d 12 4))

/-- Words of one drained block (R97). -/
def drainWords (d : BitVec 512) : Nat := if (numCtlOf (dfld d 8 4)).ofmt = 0 then 16 else 8

/-- The conversion of one accumulator block: its words and its summary events (R73, R75, R97). -/
def drainBlock (d : BitVec 512) (blk : BitVec 4096) (sum : Summary) : List Word × Summary :=
  let nc := numCtlOf (dfld d 8 4)
  let f := (fmtOfCode nc.ofmt).getD .fp32
  let vals := elems 32 128 blk.toNat
  let conv := vals.map (fun b => (b, convertElem (some (.fp32, b)) f nc.dir nc.subn (unpack .fp32 b)))
  let sum := conv.foldl (fun s p => s.enter (some (histBin (unpack .fp32 p.1))) p.2.sat p.2.flush p.2.flags) sum
  let per := 256 / fmtWidth f
  let words := (chunks per 128 (conv.map (fun p => p.2.bits))).map (fun l => BitVec.ofNat 256 (packElems (fmtWidth f) l))
  (words, sum)

/-- The drain engine converts the blocks of its oldest DRAIN while the D port has room: the block is cleared unless KEEP, and returns to ACCUM; one that cannot be read stops its context (R96, R97, R98, R120). -/
def drainEngine : Nat → State → Nat → Nat → State
  | 0, s, _, _ => s
  | n + 1, s, die, site =>
    let t := mtOf s die site
    match t.drainQ with
    | [] => s
    | j :: js =>
      if dfld j.desc 13 1 ≤ j.blocks ∨ 16 < t.dOut.length + drainWords j.desc then s
      else
        let blk := dfld (t.ctx j.ctx).desc 2 1 + dfld j.desc 12 1 + j.blocks
        let dec := storeDecode t.flips (8192 + blk * 16) 16
        let s := telAdd s die site 0x070 dec.1
        if !dec.2.1 then raiseSite (setMt s die site (MTile.faultCtx { t with drainQ := js } j.ctx s.now)) 0x0101 die site 0
        else
        let r := drainBlock j.desc (t.accAt blk) j.sum
        let keep := bit (dfld j.desc 14 1) 0
        let t := { (if keep then t else t.fresh blk) with
          dOut := t.dOut ++ r.1
          drainQ := { j with blocks := j.blocks + 1, sum := r.2 } :: js
          acc := if keep then t.acc else Tab.erase blk t.acc
          accSt := Tab.erase blk t.accSt }
        drainEngine n (setMt s die site t) die site

/-- DRAIN: its blocks become DRAINING and the drain engine takes it; with WAITK the context first blocks until the consuming wait succeeds (R95, R96, R98, R128). -/
def execDrain (die site ctx : Nat) (s : State) : Host.Outcome State Fault Refusal :=
  mDesc s die site ctx 5 (fun t c d =>
    if bit (dfld d 14 1) 1 ∧ c.wait ≠ .released then mWait s die site ctx t (dfld d 16 2) 2 (dfld d 20 4)
    else
      let t := (descBlocks c d 12).foldl (fun t b => { t with accSt := Tab.set b .draining t.accSt }) t
      let job : DJob := { ctx := ctx, desc := d, blocks := 0, credited := 0, sum := Summary.empty (numCtlOf (dfld d 8 4)).ofmt 0 }
      drainEngine 16 (mAdvance s die site ctx { t with drainQ := t.drainQ ++ [job] } { c with wait := .none } d) die site)

/-- The words of a summary (R77). -/
def summaryWords (x : Summary) : List Word := (chunks 32 17 x.bytes).map (fun l => BitVec.ofNat 256 (leNat l))

/-- A numeric summary sent to the collector that a rank names, under its tag (R80, R318; log entry 13). -/
def sendSummary (s : State) (die site issuer rank tag : Nat) (x : Summary) : State :=
  match rankEp s (siteJob s die site) rank with
  | some e => sendReq s (tileEp die site issuer) issuer (siteJob s die site) 6 { e with port := portCollector } (BitVec.ofNat 64 tag) (summaryWords x)
  | none => s

/-- DRAIN_COMPLETE: the last word is credited, the summary goes to its collector and DONE_KETTLE is signalled (R98, R123). -/
def execDrainComplete (die site : Nat) (s : State) : Host.Outcome State Fault Refusal :=
  onSite die site [.mTile] (
    let t := mtOf s die site
    match t.drainQ with
    | [] => s
    | j :: js =>
      if j.credited < dfld j.desc 13 1 * drainWords j.desc then s
      else
        let s := setMt s die site { t with drainQ := js }
        let s := sendSummary s die site j.ctx (dfld j.desc 24 2) (dfld j.desc 26 2) j.sum
        drainEngine 16 (descSignal s die site j.ctx j.desc) die site)

/-- ACC_CONTRIBUTION: a contribution block of 17 words is added into its tagged block, or discarded with ACC_TAG_MISMATCH (R100 to R103, R120). -/
def execAccContribution (die site : Nat) (s : State) : Host.Outcome State Fault Refusal :=
  onSite die site [.mTile] (
    let t := mtOf s die site
    if !siteRuns s die site then s
    else match (upTo 4).find? (fun n => decide (17 ≤ (t.ctx n).accQueue.length)) with
      | none => s
      | some n =>
        let c := t.ctx n
        let ws := c.accQueue.take 17
        let h := (nth 0 0 ws).toNat
        let t := t.setCtx n { c with accQueue := c.accQueue.drop 17 }
        let s := freePlaces (setMt s die site t) die site 2 n 17
        let tag := fld h 0 2
        let blk := dfld c.desc 2 1 + fld h 2 1
        let bad := raiseSite s 0x0102 die site (tag + fld h 2 1 * 2 ^ 16)
        if dfld c.desc 3 1 ≤ fld h 2 1 then bad
        else match t.accState blk with
          | .tagged g k =>
            if g ≠ tag then bad
            else
              let dec := storeDecode t.flips (8192 + blk * 16) 16
              let s := telAdd s die site 0x070 dec.1
              if !dec.2.1 then raiseSite s 0x0101 die site 0
              else
              let old := elems 32 128 (t.accAt blk).toNat
              let add := (ws.drop 1).flatMap (fun w => elems 32 8 w.toNat)
              let s := setMt s die site { t.fresh blk with acc := Tab.set blk (BitVec.ofNat 4096 (packElems 32 (addFp32Lists old add))) t.acc }
              if bit (fld h 3 1) 0 then siteSignal s die site n k false else s
          | _ => bad)

/-- The transpose of a panel word of 16-bit elements: the column-order panel word that must stand beside it (R117). -/
def panelTranspose (p : BitVec 4096) : BitVec 4096 :=
  BitVec.ofNat 4096 (packElems 16 ((upTo 256).map (fun i => p.toNat / 2 ^ (16 * (i % 16 * 16 + i / 16)) % 2 ^ 16)))

/-- The first panel word, 0 to 7, in which a pair's copies differ (R118, R119). -/
def pairDiff (t : MTile) (p : AuditPair) : Option Nat :=
  (upTo 8).find? (fun k => t.panelAt true (8 * p.col + k) != panelTranspose (t.panelAt false (8 * p.row + k)))

/-- Whether every word of a pair's two segments can be read (R120). -/
def pairReadable (t : MTile) (p : AuditPair) : Bool := (upTo 8).all (fun k => t.panelOk true (8 * p.col + k) && t.panelOk false (8 * p.row + k))

/-- The corrected codewords met by the reads of a pair's two segments (R120). -/
def pairCorrected (t : MTile) (p : AuditPair) : Nat := (storeDecode t.flips (weightKey true (8 * p.col) 0) 128).1 + (storeDecode t.flips (weightKey false (8 * p.row) 0) 128).1

/-- AUDIT_PASS: at its interval the pass compares every recorded pair whose segments are READY, and a difference sets the column segment REGEN and is reported, as is a word that cannot be read (R118 to R120). The DRAM addresses of the report are free values, no rule saying how the tile knows what its circuits' words were loaded from (log entry 99). -/
def execAuditPass (die site : Nat) (s : State) : Host.Outcome State Fault Refusal :=
  onSite die site [.mTile] (
    let t := mtOf s die site
    if !siteRuns s die site || decide (s.now < t.auditAt) then s
    else
      let s := setMt s die site { t with auditAt := s.now + ceilDiv (t.site.toNat % 256 * 2 ^ 20) 3 }
      (t.pairs.filter (fun p => p.audited && t.segState false p.row == .ready && t.segState true p.col == .ready)).foldl (fun s p =>
        let t := mtOf s die site
        let s := telAdd s die site 0x070 (pairCorrected t p)
        if !pairReadable t p then raiseSite s 0x0101 die site 0
        else match pairDiff t p with
        | none => s
        | some k =>
          let t := { (t.setSeg true p.col .regen) with regen := t.regen ++ [(p.col, p.row)] }
          let a := takeFree (setMt s die site t)
          let b := takeFree a.1
          raise b.1 { code := 0x0104, cls := 0, job := (if siteJob s die site = 0 then 0xFF else siteJob s die site), die := die, ukind := 1, index := site
                      time := s.now, detail := p.row + p.col * 2 ^ 8 + (8 * p.row + k) * 2 ^ 16, region := siteRegion s die site, ext := some (a.2.toNat, b.2.toNat), defers := false }) s)

/-- REGEN_COMPLETE: the column segment has been rebuilt from the row segment and is READY; a row segment that cannot be read faults the job (R90, R119, R120). -/
def execRegenComplete (die site seg : Nat) (s : State) : Host.Outcome State Fault Refusal :=
  onSite die site [.mTile] (
    let t := mtOf s die site
    match t.regen.find? (fun e => e.1 == seg) with
    | none => s
    | some (c, r) =>
      let s := telAdd s die site 0x070 (storeDecode t.flips (weightKey false (8 * r) 0) 128).1
      if !(upTo 8).all (fun k => t.panelOk false (8 * r + k)) then raiseSite (setMt s die site { t with regen := t.regen.filter (fun e => e.1 != seg) }) 0x0101 die site 0
      else
      let t := (upTo 8).foldl (fun (t : MTile) k => { t with col := Tab.set (8 * c + k) (panelTranspose (t.panelAt false (8 * r + k))) t.col }) t
      let t := { t with regen := t.regen.filter (fun e => e.1 != seg)
                        flips := t.flips.filter (fun e => !(decide (4096 + 128 * c ≤ e.1) && decide (e.1 < 4096 + 128 * c + 128))) }
      setMt s die site (t.setSeg true c .ready))

end Sys2Proof.Machine
end

