-- ==== Sys2Proof/Machine/Special.lean ====
section
/-! DEFINITION. Sys2Proof/Machine/Special.lean: the special functions of R165: exact enclosures of their values, the results that their bounds allow, and their special inputs and flags (R147, R165, R166). -/

namespace Sys2Proof.Machine

/-- An enclosure of a nonzero value y: its sign, lo × 2^exp ≤ |y| ≤ hi × 2^exp, and whether the two are y itself; else y lies strictly between. -/
structure Encl where
  neg : Bool
  lo : Nat
  hi : Nat
  exp : Int
  exact : Bool
  deriving DecidableEq, Repr

/-- A value known to some units of 2^exp. -/
def Encl.near (neg : Bool) (v : Nat) (err : Nat) (exp : Int) : Encl := { neg := neg, lo := v - err, hi := v + err, exp := exp, exact := false }

/-- A magnitude below every format's range, and one above. -/
def Encl.tiny (neg : Bool) : Encl := { neg := neg, lo := 0, hi := 1, exp := -2000, exact := false }
def Encl.huge (neg : Bool) : Encl := { neg := neg, lo := 1, hi := 2, exp := 2000, exact := false }

/-- A magnitude below 1 by less than 2^−350. -/
def Encl.one (neg : Bool) : Encl := { neg := neg, lo := 2 ^ 360 - 2 ^ 10, hi := 2 ^ 360, exp := -360, exact := false }

/-- A power of two. -/
def Encl.pow2 (neg : Bool) (k : Int) : Encl := { neg := neg, lo := 1, hi := 1, exp := k, exact := true }

/-- The sum of pow ÷ (2i + 1), pow divided by k2 from term to term, with alternating signs or not. -/
def oddSeries (k2 : Nat) (alt : Bool) : Nat → Nat → Nat → Int → Int
  | 0, _, _, acc => acc
  | n + 1, i, pow, acc => oddSeries k2 alt n (i + 1) (pow / k2) (if alt && i % 2 == 1 then acc - (pow / (2 * i + 1) : Nat) else acc + (pow / (2 * i + 1) : Nat))

/-- ln 2 and π in units of 2^−p, to about a unit. -/
def fixLn2 (p : Nat) : Int := 2 * oddSeries 9 false (p / 3 + 20) 0 (2 ^ (p + 32) / 3) 0 / 2 ^ 32
def fixPi (p : Nat) : Int :=
  (16 * oddSeries 25 true (p / 4 + 20) 0 (2 ^ (p + 32) / 5) 0 - 4 * oddSeries 57121 true (p / 15 + 20) 0 (2 ^ (p + 32) / 239) 0) / 2 ^ 32

/-- A magnitude in units of 2^−p, truncated. -/
def toFix (p m : Nat) (e : Int) : Nat := if 0 ≤ e + p then m * 2 ^ (e + p).toNat else m / 2 ^ (-(e + p)).toNat

/-- The sum of the terms that arise from term by multiplying with r and dividing by step i, i from the given one on, in units of 2^−p. -/
def fixSeries (p : Nat) (r : Int) (step : Nat → Int) : Nat → Nat → Int → Int → Int
  | 0, _, _, acc => acc
  | n + 1, i, term, acc => fixSeries p r step n (i + 1) (term * r / 2 ^ p / step i) (acc + term)

/-- e^x for x in units of 2^−p: v and k with e^x = v × 2^(k − p), v from 2^p to 2^(p+1). -/
def fixExp (p : Nat) (x : Int) : Nat × Int :=
  let l := fixLn2 p
  let k := x / l
  ((fixSeries p (x - k * l) (fun i => (i : Int) + 1) (p / 4 + 40) 0 (2 ^ p) 0).toNat, k)

/-- A value v × 2^(k − p) in units of 2^−p. -/
def shiftFix (v : Nat) (k : Int) : Nat := if 0 ≤ k then v * 2 ^ k.toNat else v / 2 ^ (-k).toNat

/-- The natural logarithm of m × 2^e in units of 2^−p. -/
def fixLn (p m : Nat) (e : Int) : Int :=
  let s := if 2 * m ≤ 3 * 2 ^ Nat.log2 m then Nat.log2 m else Nat.log2 m + 1
  let t : Int := ((m : Int) - 2 ^ s) * 2 ^ p / ((m : Int) + 2 ^ s)
  let t2 := t * t / 2 ^ p
  let z := (upTo (p / 4 + 20)).foldl (fun (r : Int × Int) (i : Nat) => (r.1 * t2 / 2 ^ p, r.2 + r.1 / (2 * (i : Int) + 1))) (t, 0)
  (e + s) * fixLn2 p + 2 * z.2

/-- The sine and cosine of r in units of 2^−p, |r| at most π ÷ 4. -/
def fixSin (p : Nat) (r : Int) : Int := fixSeries p (r * r / 2 ^ p) (fun i => -((2 * (i : Int) + 2) * (2 * i + 3))) (p / 6 + 20) 0 r 0
def fixCos (p : Nat) (r : Int) : Int := fixSeries p (r * r / 2 ^ p) (fun i => -((2 * (i : Int) + 1) * (2 * i + 2))) (p / 6 + 20) 0 (2 ^ p) 0

/-- The sum of w^i ÷ (1 × 3 × … × (2i + 1)) in units of 2^−p. -/
def fixOddFactorials (p fuel : Nat) (w : Int) : Nat := (fixSeries p w (fun i => 2 * (i : Int) + 3) fuel 0 (2 ^ p) 0).toNat

/-- The enclosure of a signed number of units of 2^−p, to 2^20 of them. -/
def ofFix (p : Nat) (x : Int) : Encl := Encl.near (decide (x < 0)) x.natAbs (2 ^ 20) (-(p : Int))

/-- 1 ÷ (1 + e^−x), x of either sign. -/
def sigmoidEncl (n : Bool) (m : Nat) (e : Int) : Encl :=
  if 11 ≤ magExp m e then (if n then Encl.tiny false else Encl.one false)
  else
    let u := fixExp 400 (-(toFix 400 m e : Int))
    let d := 2 ^ 400 + shiftFix u.1 u.2
    if n then Encl.near false (u.1 * 2 ^ 400 / d) (2 ^ 20) (u.2 - 400) else Encl.near false (2 ^ 800 / d) (2 ^ 20) (-400)

/-- The standard normal distribution function Φ, ½(1 + erf(x ÷ √2)). -/
def normalEncl (n : Bool) (m : Nat) (e : Int) : Encl :=
  if n && decide (6 ≤ magExp m e) then Encl.tiny false
  else if !n && decide (5 ≤ magExp m e) then Encl.one false
  else
    let p := if n then 1700 else 400
    let x := toFix p m e
    let w : Int := ((x * x / 2 ^ p : Nat) : Int)
    let u := fixExp p (-(w / 2))
    let half := shiftFix (isqrt (3 * p) (2 ^ (3 * p) / (2 * (fixPi p).toNat)) 0 * x / 2 ^ p * fixOddFactorials p (if n then 6500 else 1500) w / 2 ^ p * u.1 / 2 ^ p) u.2
    Encl.near false (if n then 2 ^ (p - 1) - half else 2 ^ (p - 1) + half) (2 ^ 30) (-(p : Int))

/-- The exact value of an approximated function at a finite nonzero operand, enclosed (R165). -/
def funcEncl (code : Nat) (n : Bool) (m : Nat) (e : Int) : Encl :=
  let mag := magExp m e
  let x : Int := if n then -(toFix 400 m e : Int) else (toFix 400 m e : Int)
  let times (y : Encl) : Encl := { y with neg := n, lo := m * y.lo, hi := m * y.hi, exp := y.exp + e }
  let whole := decide (0 ≤ e) || m % 2 ^ (-e).toNat == 0
  match code with
  | 1 =>
    if 11 ≤ mag then (if n then Encl.tiny false else Encl.huge false)
    else let u := fixExp 400 x; Encl.near false u.1 (2 ^ 20) (u.2 - 400)
  | 2 =>
    if 11 ≤ mag then (if n then Encl.tiny false else Encl.huge false)
    else if whole then Encl.pow2 false (x / 2 ^ 400)
    else let u := fixExp 400 (x * fixLn2 400 / 2 ^ 400); Encl.near false u.1 (2 ^ 20) (u.2 - 400)
  | 3 => ofFix 400 (fixLn 400 m e)
  | 4 =>
    if m = 2 ^ Nat.log2 m then { neg := decide (mag < 0), lo := mag.natAbs, hi := mag.natAbs, exp := 0, exact := true }
    else ofFix 400 (fixLn 400 m e * 2 ^ 400 / fixLn2 400)
  | 7 =>
    let h := e / 2
    let m2 := if e % 2 = 0 then m else 2 * m
    let w := 200 + Nat.log2 m2
    let r := isqrt (w + 2) (2 ^ (2 * w) / m2) 0
    if r * r * m2 = 2 ^ (2 * w) then { neg := false, lo := r, hi := r, exp := -(w : Int) - h, exact := true }
    else { neg := false, lo := r, hi := r + 1, exp := -(w : Int) - h, exact := false }
  | 8 | 9 =>
    if mag < -100 then
      if code = 8 then { neg := n, lo := m * 2 ^ 220 - m * 2 ^ 20, hi := m * 2 ^ 220, exp := e - 220, exact := false }
      else { neg := false, lo := 2 ^ 220 - 2 ^ 20, hi := 2 ^ 220, exp := -220, exact := false }
    else
      let p := 400 + (mag + 2).toNat
      let hp := fixPi p / 2
      let a : Int := (toFix p m e : Nat)
      let q := (a + hp / 2) / hp
      let r := (a - q * hp) / 2 ^ (p - 400)
      let k := if code = 8 then q % 4 else (q + 1) % 4
      let v := if k = 0 then fixSin 400 r else if k = 1 then fixCos 400 r else if k = 2 then -(fixSin 400 r) else -(fixCos 400 r)
      ofFix 400 (if code = 8 ∧ n then -v else v)
  | 10 =>
    if mag < -100 then { neg := n, lo := m * 2 ^ 220 - m * 2 ^ 20, hi := m * 2 ^ 220, exp := e - 220, exact := false }
    else if 8 ≤ mag then Encl.one n
    else
      let u := fixExp 400 (-(2 * (toFix 400 m e : Int)))
      let t := shiftFix u.1 u.2
      Encl.near n ((2 ^ 400 - t) * 2 ^ 400 / (2 ^ 400 + t)) (2 ^ 20) (-400)
  | 11 => sigmoidEncl n m e
  | 12 =>
    let c := isqrt 610 (4 * 2 ^ 1200 / (fixPi 400).toNat) 0
    if mag < -100 then { neg := n, lo := m * c - m * 2 ^ 210, hi := m * c + m * 2 ^ 210, exp := e - 400, exact := false }
    else if 4 ≤ mag then Encl.one n
    else
      let a := toFix 400 m e
      let w : Nat := a * a / 2 ^ 400
      let u := fixExp 400 (-(w : Int))
      let v := c * a * u.1 * fixOddFactorials 400 1500 (2 * Int.ofNat w)
      { neg := n, lo := v - v / 2 ^ 250, hi := v + v / 2 ^ 250, exp := u.2 - 1600, exact := false }
  | 13 => times (normalEncl n m e)
  | _ => times (sigmoidEncl n m e)

/-- The bound of a function in ulp, where it is 1 or more (R165). -/
def funcBound (code : Nat) : Nat := if code = 10 ∨ code = 11 ∨ code = 12 then 2 else if 13 ≤ code then 3 else 1

/-- The value of a magnitude code of a format, the code of infinity standing for the next power of two. -/
def codeVal (f : NumFmt) (c : Nat) : Nat × Int :=
  match unpack f c with
  | .fin _ m e => (m, e)
  | _ => (1, fmtEmax f + 1)

/-- The magnitude m × 2^e in units of 2^q, q not above e. -/
def scaled (q : Int) (m : Nat) (e : Int) : Int := ((m * 2 ^ (e - q).toNat : Nat) : Int)

/-- The signed codes of a format that lie within a number of ulp of an enclosed value, as offsets of magnitude codes along its sign (R165). -/
def withinUlp (f : NumFmt) (bound : Nat) (y : Encl) : List Int :=
  let u := max (magExp (max 1 y.hi) y.exp - ((fmtPrec f : Int) - 1)) (fmtQmin f)
  let q := min (min u y.exp) (fmtQmin f)
  let b := scaled q bound u
  let c0 : Int := ((roundTo f .rtz false (.fin false y.lo y.exp)).bits : Nat)
  let all := (upTo (2 * bound + 5)).map (fun (k : Nat) => c0 + (k : Int) - ((bound : Int) + 2))
  all.filter (fun c =>
    let z := codeVal f c.natAbs
    let v := if c < 0 then -(scaled q z.1 z.2) else scaled q z.1 z.2
    decide (c.natAbs ≤ infBits f false)
      && (if y.exact then decide (scaled q y.lo y.exp - b ≤ v) && decide (v ≤ scaled q y.hi y.exp + b)
          else decide (scaled q y.lo y.exp - b < v) && decide (v < scaled q y.hi y.exp + b)))

/-- A result that the bound allows, with its flags: the choice among them is a free value; overflow past the format rounds as RND says (R165, R166; log entry 7). -/
def approxResult (f : NumFmt) (rm : Rnd) (flush : Bool) (code b : Nat) (y : Encl) : Nat × Nat :=
  if fmtEmax f < magExp (max 1 y.lo) y.exp then
    let r := roundTo f rm flush (.fin y.neg y.lo y.exp)
    (r.bits, r.flags)
  else
    let cs := withinUlp f (funcBound code) y
    let c := nth 0 (Config.approx code (codeOfFmt f) b % max 1 cs.length) cs
    let neg := if c < 0 then !y.neg else y.neg
    let sgn := if neg then 2 ^ (fmtWidth f - 1) else 0
    let k := c.natAbs
    let sub := decide (k < 2 ^ (fmtPrec f - 1))
    let same := y.exact && decide (0 ≤ c) && Val.eq (unpack f k) (.fin false y.lo y.exp)
    if flush && sub && k != 0 then (sgn, 3)
    else (sgn + k, if same then 0 else if k = infBits f false then 5 else if sub then 3 else 1)

/-- The bits of ±1, of a zero or of another exact value in a format. -/
def exactBits (f : NumFmt) (neg : Bool) (man : Nat) (exp : Int) : Nat := (roundTo f .rne false (.fin neg man exp)).bits

/-- A special function of R165 in FP32 or FP64: its bits and flags. Its special inputs give the results of R166, RCP and SQRT are correctly rounded, and any other result lies within the function's bound (R165, R166; log entry 7). -/
def funcOf (f : NumFmt) (rm : Rnd) (flush : Bool) (code b : Nat) : Nat × Nat :=
  let v := unpack f b
  let invalid : Nat × Nat := (canonNan f, 16)
  match v with
  | .nan s => (canonNan f, if s then 16 else 0)
  | .inf n =>
    match code with
    | 1 => if n then (0, 0) else (infBits f false, 0)
    | 2 => if n then (0, 0) else (infBits f false, 0)
    | 3 => if n then invalid else (infBits f false, 0)
    | 4 => if n then invalid else (infBits f false, 0)
    | 5 => (exactBits f n 0 0, 0)
    | 6 => if n then invalid else (infBits f false, 0)
    | 7 => if n then invalid else (0, 0)
    | 8 => invalid
    | 9 => invalid
    | 11 => if n then (0, 0) else (exactBits f false 1 0, 0)
    | 13 => if n then (exactBits f true 0 0, 0) else (infBits f false, 0)
    | 14 => if n then (exactBits f true 0 0, 0) else (infBits f false, 0)
    | _ => (exactBits f n 1 0, 0)
  | .fin n m e =>
    let approx := approxResult f rm flush code b (funcEncl code n m e)
    if m = 0 then
      match code with
      | 1 => (exactBits f false 1 0, 0)
      | 2 => (exactBits f false 1 0, 0)
      | 3 => (infBits f true, 8)
      | 4 => (infBits f true, 8)
      | 5 => (infBits f n, 8)
      | 7 => (infBits f n, 8)
      | 9 => (exactBits f false 1 0, 0)
      | 11 => (exactBits f false 1 (-1), 0)
      | _ => (b, 0)
    else
      match code with
      | 3 => if n then invalid else if Val.eq v (.fin false 1 0) then (0, 0) else approx
      | 4 => if n then invalid else if Val.eq v (.fin false 1 0) then (0, 0) else approx
      | 5 =>
        let q := Val.div (.fin false 1 0) (.fin n m e)
        let r := roundTo f rm flush q.1
        (r.bits, r.flags ||| q.2)
      | 6 =>
        let q := Val.sqrt (.fin n m e)
        let r := roundTo f rm flush q.1
        (r.bits, r.flags ||| q.2)
      | 7 => if n then invalid else approx
      | _ => approx

end Sys2Proof.Machine
end

