-- ==== Sys2Proof/Machine/Vector.lean ====
section
/-! DEFINITION. Sys2Proof/Machine/Vector.lean: V-tiles: the stage chain, reductions, output stages, collectors and the scale governor; F-tiles: functions, links and MAP runs (R131 to R172). -/

namespace Sys2Proof.Machine

/-- A V-tile. -/
def vtOf (s : State) (die site : Nat) : VTile := Tab.get vTileInitial (siteKey die site) s.vTiles

/-- A V-tile replaced. -/
def setVt (s : State) (die site : Nat) (t : VTile) : State := { s with vTiles := Tab.set (siteKey die site) t s.vTiles }

/-- A context of a V-tile. -/
def VTile.ctx (t : VTile) (c : Nat) : VCtx := nth vCtxInitial c t.ctxs

/-- A context replaced. -/
def VTile.setCtx (t : VTile) (c : Nat) (x : VCtx) : VTile := { t with ctxs := t.ctxs.set c x }

/-- The descriptor that a context runs next (R121, R163). -/
def VCtx.next (c : VCtx) : Option (BitVec 512) := if dfld c.desc 1 1 = 0 then c.ring[c.pos]? else c.queue[0]?

/-- A context past its descriptor (R121, R163). -/
def VCtx.advance (c : VCtx) (d : BitVec 512) : VCtx :=
  if dfld c.desc 1 1 = 0 then
    if c.pos + 1 < dfld c.desc 2 1 then { c with pos := c.pos + 1 }
    else if dfld c.desc 4 4 = 0 then { c with pos := 0 }
    else { c with pos := 0, repeatsLeft := c.repeatsLeft - 1, st := if c.repeatsLeft ≤ 1 then .done else c.st }
  else { c with queue := c.queue.tail, pos := (c.pos + 1) % 16, st := if bit (dfld d 1 1) 2 then .done else c.st }

/-- Control words, chain format, lanes and stages of a VOP (R131, R138, R164). -/
def vopNc (d : BitVec 512) (n : Nat) : NumCtl := numCtlOf (dfld d (8 + 4 * n) 4)
def vopFmt (d : BitVec 512) : NumFmt := (fmtOfCode (dfld d 17 1)).getD .fp32
def vopLanes (d : BitVec 512) : Nat := if vopFmt d = .fp32 then 32 else 64
def vopRnd (d : BitVec 512) : Rnd := if vopFmt d = .fp32 then (vopNc d 0).dir else .rne
def vopFlush (d : BitVec 512) : Bool := (vopNc d 0).subn
def vopCols (d : BitVec 512) : Nat := dfld d 20 4
def vopVecs (d : BitVec 512) : Nat := ceilDiv (vopCols d) (vopLanes d)
def vopOut (d : BitVec 512) (n : Nat) : Bool := bit (dfld d 29 1) n
def vopOutFmt (d : BitVec 512) (n : Nat) : NumFmt := (fmtOfCode (vopNc d n).ofmt).getD .fp32
def vopStages (t : VTile) (d : BitVec 512) : List Word :=
  let ws := Tab.get [] (dfld d 16 1) t.chains
  (ws.drop 1).take ((nth 0 0 ws).toNat % 256)

/-- The format of an input port (R164). -/
def vopInFmt (d : BitVec 512) (port : Nat) : NumFmt :=
  (fmtOfCode (if port = 0 then (vopNc d 0).ifmtA else if port = 1 then (vopNc d 0).ifmtB else (vopNc d 1).ifmtA)).getD .fp32

/-- The mode of an input port (R137). -/
def vopInMode (d : BitVec 512) (port : Nat) : Nat := dfld d 18 2 / 16 ^ port % 16

/-- The row slot of row i (R145). -/
def rowSlot (d : BitVec 512) (row : Nat) : Nat := (dfld d 28 1 + row) % 8

/-- Active lanes of a vector of a row (R136). -/
def vecLanes (d : BitVec 512) (vec : Nat) : Nat := min (vopLanes d) (vopCols d - vec * vopLanes d)

/-- Fields of a stage entry (R139). -/
def sfld (e : Word) (off size : Nat) : Nat := fld e.toNat off size

/-- Whether a stage calls F-tiles, and the links it names (R139, R142). -/
def isFcall (e : Word) : Bool := sfld e 0 1 == 0x0A
def stageLinks (e : Word) : Nat := bits (sfld e 1 1) 3 2

/-- An element of T (R144). -/
def tElem (t : BitVec 8192) (k : Nat) : Nat := t.toNat / 2 ^ (32 * k) % 2 ^ 32

/-- An element of T written. -/
def tPut (t : BitVec 8192) (k v : Nat) : BitVec 8192 := BitVec.ofNat 8192 (setBits t.toNat (32 * k + 31) (32 * k) v)

/-- An operand's value in the chain format: read at its encoded value, subnormal or not, whatever SUBN holds (R65, R69, R132; log entry 103). -/
def toChain (d : BitVec 512) (src : Option (NumFmt × Nat)) (v : Val) : Nat := (convertElem src (vopFmt d) (vopRnd d) false v).bits

/-- An FP32 constant or T element in the chain format (R132, R140). -/
def chainOf32 (d : BitVec 512) (b : Nat) : Nat := toChain d (some (.fp32, b)) (unpack .fp32 b)

/-- The lanes that a selector names (R140). -/
def operandOf (d : BitVec 512) (e : Word) (k sel : Nat) (v : VVec) : List Nat :=
  let src := sel % 16
  let row := if bit sel 7 then rowSlot d v.row else bits sel 6 4
  let zero := List.replicate v.lanes 0
  let input (p : Nat) : List Nat := if vopInMode d p = 0 then zero else nth [] p v.ins
  match src with
  | 0 => if k = 0 then input 0 else nth [] (k - 1) v.results
  | 1 => input 0
  | 2 => input 1
  | 3 => input 2
  | 4 => (upTo v.lanes).map (fun j => chainOf32 d (tElem v.t (32 * row + j % 32)))
  | 5 => List.replicate v.lanes (chainOf32 d (tElem v.t (32 * row + bits sel 12 8)))
  | 6 => List.replicate v.lanes (chainOf32 d (sfld e 12 4))
  | _ => nth [] (src - 8) v.results

/-- IEEE 754-2019 maximum and minimum: a NaN gives NaN, +0 above −0 (R142). -/
def Val.pick (max : Bool) (a b : Val) : Val × Bool :=
  match a, b with
  | .nan s, .nan t => (.nan false, s || t)
  | .nan s, _ => (.nan false, s)
  | _, .nan s => (.nan false, s)
  | _, _ =>
    let less := Val.lt a b || (Val.eq a b && a.sign && !b.sign)
    (if less == max then b else a, false)

/-- Whether a value is a signalling NaN. -/
def Val.isSignal : Val → Bool
  | .nan s => s
  | _ => false

/-- One lane of a stage: the exact result and its NV flag (R60, R142). -/
def laneOp (op : Nat) (rm : Rnd) (a b c : Val) : Val × Bool :=
  match op with
  | 0 => (a, false)
  | 1 => Val.add rm a b
  | 2 => Val.add rm a b.negate
  | 3 => Val.mul a b
  | 4 =>
    let p := Val.mul a b
    let r := Val.add rm p.1 c
    (r.1, p.2 || r.2)
  | 5 => Val.pick true a b
  | 6 => Val.pick false a b
  | 7 => (match a with
    | .nan q => (.nan false, q)
    | .inf _ => (.inf false, false)
    | .fin _ m e => (.fin false m e, false))
  | 8 => (if Val.lt b a then .fin false 1 0 else .fin false 0 0, false)
  | 9 => (if Val.lt (.fin false 0 0) a then b else c, a.isSignal || b.isSignal || c.isSignal)
  | _ => (a, false)

/-- A stage's lanes: result bits, flags and flushed results, rounded to the chain format; NV comes from FP32 chains alone, the short formats taking a signalling NaN as a quiet one (R56, R65, R78, R131, R142). -/
def stageLanes (d : BitVec 512) (op : Nat) (a b c : List Nat) : List Nat × Nat × Nat :=
  let f := vopFmt d
  let r := (List.zip a (List.zip b c)).map (fun (x : Nat × Nat × Nat) =>
    let v := laneOp op (vopRnd d) (unpack f x.1) (unpack f x.2.1) (unpack f x.2.2)
    let o := roundTo f (vopRnd d) (vopFlush d) v.1
    (o.bits, (if f = .fp32 then o.flags ||| (if v.2 then 16 else 0) else (roundTo f (vopRnd d) false v.1).flags % 16), o.flushed))
  (r.map (·.1), r.foldl (fun m x => m ||| x.2.1) 0, (r.filter (·.2.2)).length)

/-- Two FP32 values combined by a reduction: bits, flags, and 1 where the result was flushed (R65, R146). -/
def redOp (rop : Nat) (rm : Rnd) (flush : Bool) (a b : Nat) : Nat × Nat × Nat :=
  let x := unpack .fp32 a
  let y := unpack .fp32 b
  let v := if rop = 0 then Val.add rm x y else Val.pick (decide (rop = 1)) x y
  let o := roundTo .fp32 rm flush v.1
  (o.bits, o.flags ||| (if v.2 then 16 else 0), if o.flushed then 1 else 0)

/-- What a reduction has raised so far: flags and flushed results, those of one more operation added. -/
def redNote (n : Nat × Nat) (x : Nat × Nat × Nat) : Nat × Nat := (n.1 ||| x.2.1, n.2 + x.2.2)

/-- A value entered into a reduction lane that may be empty (R146). -/
def redEnter (rop : Nat) (rm : Rnd) (flush : Bool) (acc : Option Nat) (x : Nat) : Nat × Nat × Nat :=
  match acc with
  | none => (x, 0, 0)
  | some a => redOp rop rm flush a x

/-- One level of the pairwise lane tree, with what its additions raise (R146, R155). -/
def treeLevel (rop : Nat) (rm : Rnd) (flush : Bool) : List (Option Nat) → List (Option Nat) × (Nat × Nat)
  | a :: b :: t =>
    let r := treeLevel rop rm flush t
    match a, b with
    | some x, some y => let o := redOp rop rm flush x y; (some o.1 :: r.1, redNote r.2 o)
    | some x, none => (some x :: r.1, r.2)
    | none, y => (y :: r.1, r.2)
  | l => (l, (0, 0))

/-- The lane tree over 32 lanes: its value, flags and flushed results (R146, R155). -/
def laneTree (rop : Nat) (rm : Rnd) (flush : Bool) (l : List (Option Nat)) : Nat × Nat × Nat :=
  let r := (upTo 5).foldl (fun (r : List (Option Nat) × (Nat × Nat)) _ =>
    let x := treeLevel rop rm flush r.1
    (x.1, (r.2.1 ||| x.2.1, r.2.2 + x.2.2))) (l, (0, 0))
  ((nth none 0 r.1).getD 0, r.2.1, r.2.2)

/-- A reduction result through its multiply, add and POST: bits, flags, and 1 where it was flushed (R65, R147). -/
def redPost (e : Word) (rm : Rnd) (flush : Bool) (r : Nat) : Nat × Nat × Nat :=
  let p := Val.mul (unpack .fp32 r) (unpack .fp32 (sfld e 16 4))
  let a := Val.add rm p.1 (unpack .fp32 (sfld e 20 4))
  let q := roundTo .fp32 rm flush a.1
  let fl := q.flags ||| (if p.2 || a.2 then 16 else 0)
  let post (code : Nat) : Nat × Nat × Nat :=
    let x := funcOf .fp32 rm flush code q.bits
    (x.1, fl ||| x.2, (if q.flushed then 1 else 0) + (if (funcOf .fp32 rm false code q.bits).1 % 2 ^ 31 ≠ x.1 % 2 ^ 31 then 1 else 0))
  match bits (sfld e 8 1) 5 4 with
  | 0 => (q.bits, fl, if q.flushed then 1 else 0)
  | 1 => post 5
  | 2 => post 7
  | _ => post 6

/-- A task of a context by serial number. -/
def VCtx.task? (c : VCtx) (serial : Nat) : Option VTask := c.tasks.find? (fun k => k.serial == serial)

/-- A task updated. -/
def VCtx.modTask (c : VCtx) (serial : Nat) (f : VTask → VTask) : VCtx :=
  { c with tasks := c.tasks.map (fun k => if k.serial = serial then f k else k) }

/-- One HB group of at most 256 chain values encoded: its words and summary (R54, R57, R67, R153, R154). -/
def encodeGroup (f : NumFmt) (nc : NumCtl) (flush : Bool) (governed : Nat) (cf : NumFmt) (xs : List Nat) (sum : Summary) : List Word × Summary :=
  let blocks := chunks 32 8 (xs.map (unpack cf))
  let exps := blocks.map (blockExponent f nc.scsrc nc.scale governed)
  let coded := (List.zip exps blocks).map (fun p => p.2.map (fun x => (x, encodeElement f flush p.1 x)))
  let sum := coded.foldl (fun s l => l.foldl (fun s (p : Val × ElemCode) => s.enter (some (histBin p.1)) p.2.saturated p.2.flushed 0) s) sum
  let sum := if exps.any (· == 0xFF) then { sum with nflags := sum.nflags ||| 512 } else sum
  let codes := coded.flatMap (fun l => (l.map (fun p => p.2.code)) ++ List.replicate (32 - l.length) 0)
  let codes := codes ++ List.replicate (256 - codes.length) 0
  let side := BitVec.ofNat 256 (packElems 8 exps)
  (side :: (chunks (256 / fmtWidth f) 8 codes).map (fun l => BitVec.ofNat 256 (packElems (fmtWidth f) l)), sum)

/-- A stage's lanes presented to output n: the words it completes and the output's new state. An HB group is held until its last element under every SCSRC, since a NaN among its elements still makes its block's exponent 0xFF in the sidecar word (R57, R64, R135, R136, R153, R154; log entry 104). -/
def presentLanes (d : BitVec 512) (n : Nat) (o : VOut) (xs : List Nat) (rowEnd : Bool) : List Word × VOut :=
  let f := vopOutFmt d n
  let cf := vopFmt d
  let nc := vopNc d n
  if isBlockFmt f then
    let part := o.part ++ xs
    if part.length = 256 ∨ rowEnd then
      let r := encodeGroup f nc (vopFlush d) (o.b.getD nc.scale) cf part o.sum
      (r.1, { o with part := [], sum := r.2, words := o.words + r.1.length })
    else ([], { o with part := part })
  else
    let conv := xs.map (fun b => (b, convertElem (some (cf, b)) f (vopNc d 0).dir (vopFlush d) (unpack cf b)))
    let sum := conv.foldl (fun s p => s.enter (some (histBin (unpack cf p.1))) p.2.sat p.2.flush p.2.flags) o.sum
    let per := 256 / fmtWidth f
    let part := o.part ++ conv.map (fun p => p.2.bits)
    let full := if rowEnd then part else part.take (part.length / per * per)
    let ws := (chunks per 64 full).map (fun l => BitVec.ofNat 256 (packElems (fmtWidth f) l))
    (ws, { o with part := part.drop full.length, sum := sum, words := o.words + ws.length })

/-- A stage's lanes sent to an output of its VOP. -/
def stageOut (t : VTile) (v : VVec) (d : BitVec 512) (n : Nat) (xs : List Nat) : VTile :=
  match (t.ctx v.ctx).task? v.serial with
  | none => t
  | some k =>
    let r := presentLanes d n (nth { part := [], pos := 0, sum := Summary.empty 0 0, words := 0, credited := 0, b := none } n k.out) xs (decide (v.vec + 1 = vopVecs d))
    let t := t.setCtx v.ctx ((t.ctx v.ctx).modTask v.serial (fun k => { k with out := k.out.set n r.2 }))
    { t with outBuf := t.outBuf ++ r.1.map (fun w => { port := n, ctx := v.ctx, serial := v.serial, word := w }) }

/-- What a reduction raised, added to its task (R65, R155). -/
def VCtx.noteRed (c : VCtx) (serial : Nat) (n : Nat × Nat) : VCtx := c.modTask serial (fun k => { k with flags := k.flags ||| n.1, flushed := k.flushed + n.2 })

/-- A stage's lanes, widened to FP32, entered into its reduction (R146, R148); at a row's end the lanes go to the tree, at the VOP's end the columns through POST. -/
def stageReduce (t : VTile) (v : VVec) (d : BitVec 512) (k : Nat) (e : Word) (xs : List Nat) : VTile :=
  let kind := bits (sfld e 8 1) 1 0
  let rop := bits (sfld e 8 1) 3 2
  let rm := (vopNc d 0).dir
  let fl := vopFlush d
  let ys := xs.map (fun b => (roundTo .fp32 .rne false (unpack (vopFmt d) b)).bits)
  let c := t.ctx v.ctx
  if kind = 1 then
    let acc0 := Tab.get (List.replicate 32 none) k c.acc
    let r := (upTo ys.length).foldl (fun (r : List (Option Nat) × (Nat × Nat)) j =>
      let x := redEnter rop rm fl (nth none (j % 32) r.1) (nth 0 j ys)
      (r.1.set (j % 32) (some x.1), redNote r.2 x)) (acc0, (0, 0))
    let c := c.noteRed v.serial r.2
    if v.vec + 1 = vopVecs d then
      t.setCtx v.ctx { c with
        acc := Tab.erase k c.acc
        rows := c.rows ++ [{ serial := v.serial, stage := e, elem := 32 * rowSlot d v.row + sfld e 9 1, rnd := (vopNc d 0).rnd, flush := fl, lanes := r.1 }] }
    else t.setCtx v.ctx { c with acc := Tab.set k r.1 c.acc }
  else if kind = 2 then
    let base := 32 * sfld e 9 1 + v.vec * vopLanes d
    let r := (upTo ys.length).foldl (fun (r : BitVec 8192 × (Nat × Nat)) j =>
      let x := redOp rop rm fl (tElem r.1 (base + j)) (nth 0 j ys)
      (tPut r.1 (base + j) x.1, redNote r.2 x)) (c.treg, (0, 0))
    let c := { (c.noteRed v.serial r.2) with treg := r.1 }
    if v.vec + 1 = vopVecs d ∧ v.row + 1 = dfld d 24 4 then
      let q := (upTo (vopCols d)).foldl (fun (q : BitVec 8192 × (Nat × Nat)) j =>
        let x := redPost e rm fl (tElem q.1 (32 * sfld e 9 1 + j))
        (tPut q.1 (32 * sfld e 9 1 + j) x.1, redNote q.2 x)) (c.treg, (0, 0))
      let c := c.noteRed v.serial q.2
      t.setCtx v.ctx { c with treg := q.1, pend := (upTo (vopCols d)).foldl (fun l j => l.erase (32 * sfld e 9 1 + j)) c.pend }
    else t.setCtx v.ctx c
  else t

/-- A stage's result put to use: flags and flushes, reduction and outputs (R65, R139, R155). -/
def stageFinish (t : VTile) (v : VVec) (d : BitVec 512) (k : Nat) (e : Word) (r : List Nat × Nat × Nat) : VTile :=
  let t := t.setCtx v.ctx ((t.ctx v.ctx).noteRed v.serial (r.2.1, r.2.2))
  let t := stageReduce t v d k e r.1
  let t := if bit (sfld e 1 1) 0 && vopOut d 0 then stageOut t v d 0 r.1 else t
  if bit (sfld e 1 1) 1 && vopOut d 1 then stageOut t v d 1 r.1 else t

/-- Request words by link of a vector at an FCALL stage: groups of 16 lanes, odd groups to F1 under both links, the last beat completed with the canonical NaN, which raises no flag at the F-tile (R150, R166, R171; log entry 14). -/
def fcallWords (links : Nat) (xs : List Nat) : List Word × List Word :=
  let groups := chunks 16 4 xs
  let wordsOf (l : List Nat) : List Word :=
    let l := l ++ List.replicate (16 - l.length) (canonNan .fp32)
    [BitVec.ofNat 256 (packElems 32 (l.take 8)), BitVec.ofNat 256 (packElems 32 (l.drop 8))]
  let pick (odd : Bool) : List Word := ((upTo groups.length).filter (fun g =>
    if links = 3 then (g % 2 == 1) == odd else (links == 2) == odd)).flatMap (fun g => wordsOf (nth [] g groups))
  (pick false, pick true)

/-- FP32 results of a vector's FCALL from the words of the two links, in lane order (R150). -/
def fcallLanes (links lanes : Nat) (w0 w1 : List Word) : List Nat :=
  let vals (ws : List Word) : List (List Nat) := chunks 16 4 (ws.flatMap (fun w => elems 32 8 w.toNat))
  let a := vals w0
  let b := vals w1
  let groups := (upTo (ceilDiv lanes 16)).map (fun g =>
    if links = 3 then (if g % 2 = 1 then nth [] (g / 2) b else nth [] (g / 2) a) else if links = 2 then nth [] g b else nth [] g a)
  groups.flatten.take lanes

/-- A vector run through its stages until it ends or stands at an FCALL whose request it sends; an FP32 operand is sent as it is (R141, R150, R161, R172). -/
def runVector : Nat → VTile → VVec → VTile × Option VVec
  | 0, t, v => (t, some v)
  | n + 1, t, v =>
    match (t.ctx v.ctx).task? v.serial with
    | none => (t, none)
    | some task =>
      let d := task.desc
      let k := v.results.length
      match (vopStages t d)[k]? with
      | none => (t.setCtx v.ctx ((t.ctx v.ctx).modTask v.serial (fun x => { x with inChain := x.inChain - 1 })), none)
      | some e =>
        let a := operandOf d e k (sfld e 2 2) v
        if isFcall e then
          let xs := a.map (fun b => if vopFmt d = .fp32 then b else (roundTo .fp32 .rne false (unpack (vopFmt d) b)).bits)
          let w := fcallWords (stageLinks e) xs
          ({ t with fReq0 := t.fReq0 ++ w.1, fReq1 := t.fReq1 ++ w.2 }, some { v with sent := true })
        else
          let r := stageLanes d (sfld e 0 1) a (operandOf d e k (sfld e 4 2) v) (operandOf d e k (sfld e 6 2) v)
          runVector n (stageFinish t v d k e r) { v with results := v.results ++ [r.1] }

/-- Words that the head vector's FCALL awaits on each link. -/
def fcallNeed (links lanes : Nat) : Nat × Nat :=
  let g := ceilDiv lanes 16
  if links = 3 then (2 * ceilDiv g 2, 2 * (g / 2)) else if links = 2 then (0, 2 * g) else (2 * g, 0)

/-- The head vector takes its returned results and goes on, and vectors behind it that wait to begin are run in order (R150, R152); the counts are of return words taken by link. -/
def settleChain : Nat → VTile → Nat × Nat → VTile × (Nat × Nat)
  | 0, t, n => (t, n)
  | fuel + 1, t, n =>
    match t.chain with
    | [] => (t, n)
    | v :: vs =>
      if v.sent then
        match (t.ctx v.ctx).task? v.serial with
        | none => settleChain fuel { t with chain := vs } n
        | some task =>
          match (vopStages t task.desc)[v.results.length]? with
          | none => settleChain fuel { t with chain := vs } n
          | some e =>
            let need := fcallNeed (stageLinks e) v.lanes
            if t.fRet0.length < need.1 ∨ t.fRet1.length < need.2 then (t, n)
            else
              let xs := fcallLanes (stageLinks e) v.lanes (t.fRet0.take need.1) (t.fRet1.take need.2)
              let t := { t with fRet0 := t.fRet0.drop need.1, fRet1 := t.fRet1.drop need.2, chain := vs }
              let res := xs.map (fun b => (convertElem (some (.fp32, b)) (vopFmt task.desc) .rne (vopFlush task.desc) (unpack .fp32 b)))
              let bitsL := res.map Conv.bits
              let t := stageFinish t v task.desc v.results.length e (bitsL, 0, (res.filter Conv.flush).length)
              let r := runVector 9 t { v with results := v.results ++ [bitsL], sent := false }
              let t := match r.2 with
                | some v' => { r.1 with chain := v' :: vs }
                | none => r.1
              settleChain fuel t (n.1 + need.1, n.2 + need.2)
      else
        let r := runVector 9 { t with chain := vs } v
        match r.2 with
        | some v' => ({ r.1 with chain := v' :: vs }, n)
        | none => settleChain fuel r.1 n

/-- Elements that a word of a format holds. -/
def wordElems (f : NumFmt) : Nat := 256 / fmtWidth f

/-- The value of an element code at a position of its row (R53). -/
def elemVal (f : NumFmt) (side : Word) (pos code : Nat) : Val :=
  if isBlockFmt f then unpackBlock f (side.toNat / 2 ^ (8 * (pos % 256 / 32)) % 256) code else unpack f code

/-- The next n elements of a row from an input port, none when its words are not all queued; the count is of words taken (R53, R135). -/
def pullElems (d : BitVec 512) (f : NumFmt) : Nat → Nat → Nat → VPort → Nat → List Nat → Option (List Nat × VPort × Nat)
  | 0, _, _, _, _, _ => none
  | fuel + 1, n, pos, p, took, acc =>
    if acc.length = n then some (acc, p, took)
    else match p.left with
      | c :: cs =>
        let v := elemVal f p.side (pos + acc.length) c
        pullElems d f fuel n pos { p with left := cs } took (acc ++ [toChain d (if isBlockFmt f then none else some (f, c)) v])
      | [] =>
        if isBlockFmt f && (pos + acc.length) % 256 == 0 then
          match p.queue with
          | sd :: w :: q => pullElems d f fuel n pos { p with queue := q, side := sd, left := elems (fmtWidth f) (wordElems f) w.toNat } (took + 2) acc
          | _ => none
        else match p.queue with
          | w :: q => pullElems d f fuel n pos { p with queue := q, left := elems (fmtWidth f) (wordElems f) w.toNat } (took + 1) acc
          | [] => none

/-- A port at a row's end: the rest of the word is padding, and the padding words of an HB group are dropped as they come (R54, R135). -/
def portRowEnd (f : NumFmt) (cols : Nat) (p : VPort) : VPort × Nat :=
  let pad := if isBlockFmt f then (ceilDiv cols 256 * 256 - ceilDiv cols (wordElems f) * wordElems f) / wordElems f else 0
  let now := min pad p.queue.length
  ({ p with left := [], side := 0, queue := p.queue.drop now, skip := pad - now }, now)

/-- Operands of one port for the next vector: lanes, the port, the held data, words taken; none where words are missing. The one word of an HB port under PER_ROW or PER_TENSOR comes without a sidecar word and its block exponent is the free value given (R53, R137; log entry 5). -/
def portOperand (d : BitVec 512) (task : VTask) (port : Nat) (free : Nat) (p : VPort) : Option (List Nat × VPort × VTask × Nat) :=
  let f := vopInFmt d port
  let n := vecLanes d task.vec
  let first := task.row == 0 && task.vec == 0
  let single (p : VPort) (task : VTask) : Option (List Nat × VPort × VTask × Nat) :=
    match p.queue with
    | w :: q =>
      let c := w.toNat % 2 ^ fmtWidth f
      let v := if isBlockFmt f then unpackBlock f free c else unpack f c
      let x := toChain d (if isBlockFmt f then none else some (f, c)) v
      some (List.replicate n x, { p with queue := q }, { task with held := Tab.set port [x] task.held }, 1)
    | [] => none
  let again : Option (List Nat × VPort × VTask × Nat) := some (List.replicate n (nth 0 0 (Tab.get [] port task.held)), p, task, 0)
  match vopInMode d port with
  | 1 =>
    match pullElems d f 200 n (task.vec * vopLanes d) p 0 [] with
    | none => none
    | some (xs, p, took) =>
      if task.vec + 1 = vopVecs d then
        let r := portRowEnd f (vopCols d) p
        some (xs, r.1, task, took + r.2)
      else some (xs, p, task, took)
  | 2 => if task.vec = 0 then single p task else again
  | 3 => if first then single p task else again
  | 4 =>
    let row := Tab.get [] port task.held
    if row.length < vopCols d then none else some ((row.drop (task.vec * vopLanes d)).take n, p, task, 0)
  | _ => some ([], p, task, 0)

/-- Words of a ROW_REUSE row taken as they come, before the first vector (R137). -/
def reuseFill (d : BitVec 512) (port : Nat) : Nat → VPort → VTask → Nat → VPort × VTask × Nat
  | 0, p, task, took => (p, task, took)
  | fuel + 1, p, task, took =>
    let f := vopInFmt d port
    let row := Tab.get [] port task.held
    if vopCols d ≤ row.length then (p, task, took)
    else
      let n := min (wordElems f) (vopCols d - row.length)
      match pullElems d f 80 n row.length p 0 [] with
      | none => (p, task, took)
      | some (xs, p, k) =>
        let task := { task with held := Tab.set port (row ++ xs) task.held }
        if vopCols d ≤ row.length + n then
          let r := portRowEnd f (vopCols d) p
          (r.1, task, took + k + r.2)
        else reuseFill d port fuel p task (took + k)

/-- The elements of T that a VOP's vector reads (R140, R149). -/
def readsOf (t : VTile) (d : BitVec 512) (row vec : Nat) : List Nat :=
  (vopStages t d).flatMap (fun e => [sfld e 2 2, sfld e 4 2, sfld e 6 2].flatMap (fun sel =>
    let r := if bit sel 7 then rowSlot d row else bits sel 6 4
    if sel % 16 = 4 then (upTo (min 32 (vecLanes d vec))).map (fun j => 32 * r + j)
    else if sel % 16 = 5 then [32 * r + bits sel 12 8] else []))

/-- Output words that the first elements of a row fill or begin, sidecar words and a group's padding words with them (R53, R54, R135). -/
def rowWords (f : NumFmt) (n : Nat) (rowEnd : Bool) : Nat :=
  if isBlockFmt f then (if rowEnd then ceilDiv n 256 * (256 / wordElems f + 1) else ceilDiv n 256 + ceilDiv n (wordElems f)) else ceilDiv n (wordElems f)

/-- Words of an output buffer that a vector of a row reserves (R134). -/
def vecWords (d : BitVec 512) (n vec : Nat) : Nat :=
  let f := vopOutFmt d n
  if vopOut d n then rowWords f (min (vopCols d) ((vec + 1) * vopLanes d)) (vec + 1 == vopVecs d) - (if vec = 0 then 0 else rowWords f (vec * vopLanes d) false) else 0

/-- Whether an output buffer has words free for those that a vector reserves (R134). -/
def outRoom (t : VTile) (d : BitVec 512) (n vec : Nat) : Bool := decide (nth 0 n t.outRes + vecWords d n vec ≤ 256)

/-- Words reserved in an output buffer. -/
def VTile.reserve (t : VTile) (n k : Nat) : VTile := { t with outRes := (upTo 2).map (fun i => nth 0 i t.outRes + (if i = n then k else 0)) }

/-- Beats of a vector on a link over the FCALL stages from stage k on (R150, R152). -/
def beatsFrom (t : VTile) (d : BitVec 512) (k lanes link : Nat) : Nat :=
  ((vopStages t d).drop k).foldl (fun a e => a + (if isFcall e then (if link = 0 then (fcallNeed (stageLinks e) lanes).1 else (fcallNeed (stageLinks e) lanes).2) / 2 else 0)) 0

/-- Whether a vector's beats fit within 32 outstanding on each link (R152). -/
def beatsFit (t : VTile) (d : BitVec 512) (lanes : Nat) : Bool :=
  (upTo 2).all (fun l => decide (beatsFrom t d 0 lanes l + t.chain.foldl (fun a v => a + (match (t.ctx v.ctx).task? v.serial with
    | some k => beatsFrom t k.desc v.results.length v.lanes l
    | none => 0)) 0 ≤ 32))

/-- The pair of an output under GOVERNED (R159). -/
def VTile.pair? (t : VTile) (d : BitVec 512) (n : Nat) : Option GovPair :=
  t.pairs.find? (fun p => p.rank == dfld d (32 + 4 * n) 2 && p.tag == dfld d (34 + 4 * n) 2)

/-- Whether output n of a VOP is governed (R64, R159). -/
def governed (d : BitVec 512) (n : Nat) : Bool := vopOut d n && isBlockFmt (vopOutFmt d n) && (vopNc d n).scsrc == 1

/-- Whether the block exponents of a VOP's governed outputs are known (R159, R160). -/
def govReady (t : VTile) (d : BitVec 512) (task : VTask) : Bool :=
  (upTo 2).all (fun n => !governed d n || (match t.pair? d n with
    | some p => decide (nth 0 n task.gov ≤ p.got)
    | none => true))

/-- The VOP whose vectors a context is issuing, if one is. -/
def VCtx.active (c : VCtx) : Option VTask := c.tasks.find? (fun k => !k.issued && dfld k.desc 0 1 == 1)

/-- The operands of the next vector from the three ports: lanes, context ports, task and words taken by port. -/
def takeInputs (d : BitVec 512) (task : VTask) (free : Nat) (ports : List VPort) : Option (List (List Nat) × List VPort × VTask × List Nat) :=
  (upTo 3).foldl (fun r n => match r with
    | none => none
    | some (ins, ps, task, took) =>
      match portOperand d task n free (nth vPortInitial n ports) with
      | none => none
      | some (xs, p, task, k) => some (ins ++ [xs], ps ++ [p], task, took ++ [k])) (some ([], [], task, []))

/-- Whether the next vector of a VOP can issue (R160). -/
def vecReady (t : VTile) (c : VCtx) (task : VTask) : Bool :=
  let d := task.desc
  (takeInputs d task 0 c.ports).isSome && (readsOf t d task.row task.vec).all (fun k => !c.pend.contains k)
    && outRoom t d 0 task.vec && outRoom t d 1 task.vec && beatsFit t d (vecLanes d task.vec) && govReady t d task

/-- Rows of T that a TFILL, TLOAD or TOUT touches, as elements (R164). -/
def touched (d : BitVec 512) : List Nat :=
  if dfld d 0 1 = 3 then (upTo (dfld d 9 1)).flatMap (fun r => (upTo (dfld d 11 1)).map (fun j => 32 * (dfld d 8 1 + r) + dfld d 10 1 + j))
  else (upTo (dfld d 10 1)).flatMap (fun r => (upTo 32).map (fun j => 32 * (dfld d 9 1 + r) + j))

/-- Whether a descriptor of a V-tile can issue (R105, R160, R164). -/
def vDescReady (t : VTile) (c : VCtx) (d : BitVec 512) : Bool :=
  match dfld d 0 1 with
  | 2 => c.wait == .none || c.wait == .released
  | 3 => (touched d).all (fun k => !c.pend.contains k)
  | 4 => (touched d).all (fun k => !c.pend.contains k) && decide (4 ≤ (nth vPortInitial (dfld d 8 1) c.ports).queue.length)
  | 5 => (touched d).all (fun k => !c.pend.contains k)
      && decide (nth 0 (dfld d 8 1) t.outRes + 4 * dfld d 10 1 ≤ 256)
  | _ => true

/-- Whether a context can issue its next item (R104, R160). -/
def VTile.canIssue (t : VTile) (n : Nat) : Bool :=
  let c := t.ctx n
  (match c.st with
  | .off => false
  | .blocked => false
  | .done => false
  | .faulted => false
  | _ => true) &&
  (match c.active, c.next with
  | some task, _ => vecReady t c task
  | none, some d => vDescReady t c d
  | none, none => false)

/-- The state that a context shows (R104, R160). -/
def VTile.shown (t : VTile) (n : Nat) : CtxState :=
  match (t.ctx n).st with
  | .off => .off
  | .blocked => .blocked
  | .done => .done
  | .faulted => .faulted
  | _ => if t.running = some n then .running else if t.canIssue n then .ready else .waiting

/-- A context stops running (R106). -/
def VTile.stopRunning (t : VTile) (n now : Nat) : VTile :=
  if t.running = some n then { (t.setCtx n { t.ctx n with waitedFrom := now }) with running := none, notReady := 0, switchTo := none } else t

/-- Every context of a V-tile stopped by a contained fault of its job, its outputs ended with the words that wait in the output buffers and the vectors in the chain (R81, R104, R160, R269). -/
def VTile.endJob (t : VTile) (now : Nat) : VTile :=
  let t := match t.running with
    | some n => t.stopRunning n now
    | none => t
  { t with ctxs := t.ctxs.map (fun c => { c with st := c.st.ended, tasks := [], rows := [] }), outBuf := [], outRes := [0, 0], chain := [] }

/-- The ready context that has waited longest (R37, R106). -/
def VTile.choose (t : VTile) : Option Nat :=
  (upTo 4).foldl (fun best n =>
    if t.running = some n || !t.canIssue n then best
    else match best with
      | some b => if (t.ctx n).waitedFrom < (t.ctx b).waitedFrom then some n else best
      | none => some n) none

/-- The switching rule of a V-tile, as switchStep has it for an M-tile (R37, R106, R160; log entry 94). -/
def vSwitchStep (s : State) (die site : Nat) : State :=
  let t := vtOf s die site
  match (if t.running.isSome then t.switchTo else t.choose) with
    | none => s
    | some n =>
      let t := match t.running with
        | some r => t.stopRunning r s.now
        | none => t
      telAdd (setVt s die site { t with running := some n, notReady := 0, switchTo := none }) die site 0x090 1

/-- A cycle in which the running context of a V-tile cannot issue: the second in a row chooses the context to switch to (R106, R160, R169). -/
def vNotReadyCycle (s : State) (die site : Nat) : State :=
  let t := vtOf s die site
  telAdd (setVt s die site { t with notReady := t.notReady + 1, switchTo := if 1 ≤ t.notReady then t.choose else none }) die site 0x088 1

/-- CONTEXT_SWITCH of an M-tile or V-tile (R106, R160). -/
def execContextSwitch (die site : Nat) (s : State) : Host.Outcome State Fault Refusal :=
  onSite die site [.mTile, .vTile] (
    if !siteRuns s die site then s
    else if siteKind site = some .mTile then switchStep s die site else vSwitchStep s die site)

/-- A VOP's first vector sets the elements of its COL reductions and marks them pending; a row's last vector marks its ROW results pending (R148, R149). -/
def markPending (t : VTile) (n : Nat) (d : BitVec 512) (task : VTask) : VTile :=
  (vopStages t d).foldl (fun t e =>
    let c := t.ctx n
    let kind := bits (sfld e 8 1) 1 0
    let rop := bits (sfld e 8 1) 3 2
    if kind = 2 ∧ task.row = 0 ∧ task.vec = 0 then
      let v := if rop = 0 then 0 else infBits .fp32 (decide (rop = 1))
      let ks := (upTo (vopCols d)).map (fun j => 32 * sfld e 9 1 + j)
      t.setCtx n { c with treg := ks.foldl (fun x k => tPut x k v) c.treg, pend := c.pend ++ ks }
    else if kind = 1 ∧ task.vec + 1 = vopVecs d then t.setCtx n { c with pend := c.pend ++ [32 * rowSlot d task.row + sfld e 9 1] }
    else t) t

/-- One vector of the running context issued into the chain. An HB element delivered alone, by PER_ROW or PER_TENSOR, has no stated block exponent: it takes a free value below 0xFF (R53, R134, R137, R144, R149, R150, R160, R161; DESIGN CHOICE, log entry 5). -/
def vectorIssue (s : State) (die site n : Nat) (task : VTask) : State :=
  let t := vtOf s die site
  let c := t.ctx n
  let d := task.desc
  match takeInputs d task ((Config.freeValue s.freeCtr).toNat % 255) c.ports with
  | none => s
  | some (ins, ports, task', took) =>
    let s := { s with freeCtr := s.freeCtr + 1 }
    let v : VVec := { ctx := n, serial := task.serial, row := task.row, vec := task.vec, lanes := vecLanes d task.vec, ins := ins, t := c.treg, results := [], sent := false }
    let lastVec := decide (task.vec + 1 = vopVecs d)
    let lastRow := decide (task.row + 1 = dfld d 24 4)
    let bs := (upTo 2).map (fun k => if governed d k then (match t.pair? d k with
      | some p => some (if nth 0 k task.gov = 0 then (vopNc d k).scale else p.b)
      | none => none) else none)
    let task' := { task' with
      row := if lastVec then task.row + 1 else task.row
      vec := if lastVec then 0 else task.vec + 1
      issued := lastVec && lastRow
      inChain := task.inChain + 1
      out := if task.row = 0 ∧ task.vec = 0 then (upTo 2).map (fun k =>
          let o := nth { part := [], pos := 0, sum := Summary.empty 0 0, words := 0, credited := 0, b := none } k task'.out
          match nth none k bs with
          | some b => { o with b := some b, sum := { o.sum with scaleUsed := b } }
          | none => o) else task'.out }
    let t := markPending ((t.setCtx n { c with ports := ports }).reserve 0 (vecWords d 0 task.vec) |>.reserve 1 (vecWords d 1 task.vec)) n d task
    let c := (t.ctx n).modTask task.serial (fun _ => task')
    let c := if lastVec && lastRow then c.advance d else c
    let t := { (t.setCtx n c) with notReady := 0 }
    let t := if c.st = .done then t.stopRunning n s.now else t
    let t := if t.chain.all (fun x => x.serial == v.serial && x.ctx == v.ctx && x.sent) then
        let r := runVector 9 t v
        (match r.2 with
        | some v' => { r.1 with chain := r.1.chain ++ [v'] }
        | none => r.1)
      else { t with chain := t.chain ++ [v] }
    let s := telAdd (setVt s die site t) die site 0x080 1
    (upTo 3).foldl (fun s p => freePlaces s die site p n (nth 0 p took)) s

/-- The word that an upset of a V-tile strikes, with how it is put back: 0 to 2 the head words of the running context's input queues, 3 and 4 those of the output buffers, 5 and 6 those of the F-link returns, and from 7 on the words of the context's T (R169). -/
def VTile.struck (t : VTile) (n k : Nat) : Option (Word × (Word → VTile)) :=
  let c := t.ctx n
  if k < 3 then
    match (nth vPortInitial k c.ports).queue with
    | [] => none
    | w :: q => some (w, fun x => t.setCtx n { c with ports := c.ports.set k { nth vPortInitial k c.ports with queue := x :: q } })
  else if k < 5 then
    match t.outBuf.find? (fun w => w.port == k - 3) with
    | none => none
    | some w => some (w.word, fun x => { t with outBuf := (t.outBuf.takeWhile (fun y => y.port != k - 3)) ++ { w with word := x } :: (t.outBuf.dropWhile (fun y => y.port != k - 3)).tail })
  else if k = 5 then
    match t.fRet0 with
    | [] => none
    | w :: q => some (w, fun x => { t with fRet0 := x :: q })
  else if k = 6 then
    match t.fRet1 with
    | [] => none
    | w :: q => some (w, fun x => { t with fRet1 := x :: q })
  else
    let a := 256 * (k - 7)
    some (BitVec.ofNat 256 (c.treg.toNat / 2 ^ a), fun x => t.setCtx n { c with treg := BitVec.ofNat 8192 (setBits c.treg.toNat (a + 255) a x.toNat) })

/-- Flips strike stored words of a V-tile, found as the words are read: corrected and counted, or VT_UNCORRECTABLE (R169). -/
def strikePorts (s : State) (die site n : Nat) (flips : List (Nat × Nat)) : State × Bool :=
  flips.foldl (fun (r : State × Bool) e =>
    match (vtOf r.1 die site).struck n e.1 with
    | none => r
    | some (w, put) =>
      match decodePattern e.2 with
      | .clean => (setVt r.1 die site (put (w ^^^ BitVec.ofNat 256 e.2)), r.2)
      | .corrected x => (telAdd (setVt r.1 die site (put (w ^^^ BitVec.ofNat 256 x))) die site 0x0A0 1, r.2)
      | .uncorrectable => (raiseSite r.1 0x0110 die site 0, true)) (s, false)

/-- ROW_REUSE rows of the running VOP taken as far as their words have come (R137). -/
def fillReuse (s : State) (die site n : Nat) : State :=
  match ((vtOf s die site).ctx n).active with
  | none => s
  | some task =>
    (upTo 3).foldl (fun s p =>
      if vopInMode task.desc p ≠ 4 then s
      else
        let t := vtOf s die site
        let c := t.ctx n
        match c.task? task.serial with
        | none => s
        | some k =>
          let r := reuseFill task.desc p 64 (nth vPortInitial p c.ports) k 0
          let c := { (c.modTask task.serial (fun _ => r.2.1)) with ports := c.ports.set p r.1 }
          freePlaces (setVt s die site (t.setCtx n c)) die site p n r.2.2) s

/-- VECTOR_ISSUE: the running context issues a vector, or counts a cycle in which it could not (R160, R169, R579). -/
def execVectorIssue (die site slot : Nat) (flips : List (Nat × Nat)) (s : State) : Host.Outcome State Fault Refusal :=
  onSite die site [.vTile] (
    if !siteRuns s die site || !issueOpen s die slot then s
    else match (vtOf s die site).running with
      | none => s
      | some n =>
        let r := strikePorts s die site n flips
        if r.2 then r.1
        else
          let s := fillReuse r.1 die site n
          let t := vtOf s die site
          if t.switchTo.isSome then s
          else match (t.ctx n).active with
          | some task => if t.canIssue n then vectorIssue s die site n task else vNotReadyCycle s die site
          | none => if t.canIssue n then s else vNotReadyCycle s die site)

/-- A descriptor row of a V-tile. -/
def vDesc (s : State) (die site n op : Nat) (f : VTile → VCtx → BitVec 512 → State) : Host.Outcome State Fault Refusal :=
  onSite die site [.vTile] (
    let t := vtOf s die site
    if !siteRuns s die site || t.running != some n || t.switchTo.isSome then s
    else match (t.ctx n).next with
      | some d => if dfld d 0 1 = op ∧ (t.ctx n).active.isNone ∧ t.canIssue n then f { t with notReady := 0 } (t.ctx n) d else s
      | none => s)

/-- The context advanced past a descriptor and stored. -/
def vAdvance (s : State) (die site n : Nat) (t : VTile) (c : VCtx) (d : BitVec 512) : State :=
  let c := c.advance d
  let t := t.setCtx n c
  setVt s die site (if c.st = .done then t.stopRunning n s.now else t)

/-- SCALE_USED of an output at the start: SCALE under FIXED (R77). -/
def scaleAtStart (d : BitVec 512) (n : Nat) : Nat := if isBlockFmt (vopOutFmt d n) && (vopNc d n).scsrc == 0 then (vopNc d n).scale else 0

/-- A task as its descriptor issues. -/
def newTask (d : BitVec 512) (serial : Nat) (gov : List Nat) : VTask :=
  { serial := serial, desc := d, row := 0, vec := 0, issued := false, inChain := 0, held := []
    out := (upTo 2).map (fun n => { part := [], pos := 0, sum := Summary.empty (vopNc d n).ofmt (scaleAtStart d n), words := 0, credited := 0, b := none })
    flags := 0, flushed := 0, gov := gov }

/-- VOP: its chain run begins, each governed output being counted in its pair (R159, R164). -/
def execVop (die site ctx : Nat) (s : State) : Host.Outcome State Fault Refusal :=
  vDesc s die site ctx 1 (fun t c d =>
    let r := (upTo 2).foldl (fun (r : VTile × List Nat) n =>
      if governed d n then
        match r.1.pair? d n with
        | some p => ({ r.1 with pairs := r.1.pairs.map (fun q => if q = p then { p with vops := p.vops + 1 } else q) }, r.2 ++ [p.vops])
        | none => ({ r.1 with pairs := r.1.pairs ++ [{ rank := dfld d (32 + 4 * n) 2, tag := dfld d (34 + 4 * n) 2, vops := 1, got := 0, b := 0 }] }, r.2 ++ [0])
      else (r.1, r.2 ++ [0])) (t, [])
    setVt s die site (r.1.setCtx ctx { c with tasks := c.tasks ++ [newTask d c.serial r.2], serial := c.serial + 1 }))

/-- KWAIT of a V-tile context (R124, R164). -/
def execVtKwait (die site ctx : Nat) (s : State) : Host.Outcome State Fault Refusal :=
  vDesc s die site ctx 2 (fun t c d =>
    if c.wait = .released then descSignal (vAdvance s die site ctx t { c with wait := .none } d) die site ctx d
    else
      let t := t.stopRunning ctx s.now
      let t := t.setCtx ctx { t.ctx ctx with st := .blocked, wait := .sent }
      sendKettle (setVt s die site t) (tileEp die site ctx) ctx (siteJob s die site) (dfld d 8 2) (if dfld d 10 1 = 0 then 2 else 3) false (dfld d 12 4))

/-- TFILL: a constant written into a rectangle of T (R164). -/
def execTfill (die site ctx : Nat) (s : State) : Host.Outcome State Fault Refusal :=
  vDesc s die site ctx 3 (fun t c d =>
    descSignal (vAdvance s die site ctx t { c with treg := (touched d).foldl (fun x k => tPut x k (dfld d 12 4)) c.treg } d) die site ctx d)

/-- Whole rows of a TLOAD taken while 4 words are queued, and rows loaded (R164). -/
def tloadRows (d : BitVec 512) : Nat → VCtx → Nat → VCtx × Nat
  | 0, c, k => (c, k)
  | n + 1, c, k =>
    let p := nth vPortInitial (dfld d 8 1) c.ports
    if dfld d 10 1 ≤ k ∨ p.queue.length < 4 then (c, k)
    else
      let row := packElems 256 ((p.queue.take 4).map BitVec.toNat)
      let at0 := 1024 * (dfld d 9 1 + k)
      tloadRows d n { c with treg := BitVec.ofNat 8192 (setBits c.treg.toNat (at0 + 1023) at0 row), ports := c.ports.set (dfld d 8 1) { p with queue := p.queue.drop 4 } } (k + 1)

/-- TLOAD: rows of T are loaded from an input port as their words come, and the descriptor completes with the last row (R164). -/
def execTload (die site ctx : Nat) (s : State) : Host.Outcome State Fault Refusal :=
  vDesc s die site ctx 4 (fun t c d =>
    let done := match c.tasks.find? (fun k => !k.issued && dfld k.desc 0 1 == 4) with
      | some k => k.row
      | none => 0
    let r := tloadRows d 8 c done
    let rest := r.1.tasks.filter (fun k => k.issued || dfld k.desc 0 1 != 4)
    let fin := decide (dfld d 10 1 ≤ r.2)
    let c' := if fin then { r.1 with tasks := rest } else { r.1 with tasks := rest ++ [{ newTask d c.serial [0, 0] with row := r.2 }] }
    let s' := if fin then descSignal (vAdvance s die site ctx t c' d) die site ctx d else setVt s die site (t.setCtx ctx c')
    freePlaces s' die site (dfld d 8 1) ctx (4 * (r.2 - done)))

/-- TOUT: rows of T are put on an output port in FP32, complete when the last word is credited (R164). -/
def execTout (die site ctx : Nat) (s : State) : Host.Outcome State Fault Refusal :=
  vDesc s die site ctx 5 (fun t c d =>
    let port := dfld d 8 1
    let ws := (upTo (4 * dfld d 10 1)).map (fun w => BitVec.ofNat 256 (c.treg.toNat / 2 ^ (1024 * dfld d 9 1 + 256 * w) % 2 ^ 256))
    let k := newTask d c.serial [0, 0]
    let k := { k with issued := true, out := (upTo 2).map (fun n => { part := [], pos := 0, sum := Summary.empty 0 0, words := if n = port then ws.length else 0, credited := 0, b := none }) }
    let t := { (t.reserve port ws.length) with outBuf := t.outBuf ++ ws.map (fun w => { port := port, ctx := ctx, serial := c.serial, word := w }) }
    vAdvance s die site ctx t { c with tasks := c.tasks ++ [k], serial := c.serial + 1 } d)

/-- Returned results taken into the chain, their places freed (R150). -/
def takeReturns (s : State) (die site : Nat) : State :=
  let r := settleChain 64 (vtOf s die site) (0, 0)
  freePlaces (freePlaces (setVt s die site r.1) die site 5 0 r.2.1) die site 6 0 r.2.2

/-- FCALL_RETURN: returned results reach the chain in request order; a head vector without its results holds the chain for a cycle (R150, R152, R169). -/
def execFcallReturn (die site : Nat) (s : State) : Host.Outcome State Fault Refusal :=
  onSite die site [.vTile] (
    let t := vtOf s die site
    let r := settleChain 64 t (0, 0)
    let s := setVt s die site r.1
    let s := if r.2 = (0, 0) && !t.chain.isEmpty then telAdd s die site 0x098 1 else s
    freePlaces (freePlaces s die site 5 0 r.2.1) die site 6 0 r.2.2)

/-- ROW_REDUCTION_WRITE: the oldest row result passes the lane tree and POST and is written to T (R146, R147, R149). -/
def execRowReductionWrite (die site ctx : Nat) (s : State) : Host.Outcome State Fault Refusal :=
  onSite die site [.vTile] (
    let t := vtOf s die site
    let c := t.ctx ctx
    match c.rows with
    | [] => s
    | r :: rs =>
      let rm := (rndOfCode r.rnd).getD .rne
      let v := laneTree (bits (sfld r.stage 8 1) 3 2) rm r.flush r.lanes
      let x := redPost r.stage rm r.flush v.1
      let c := { (c.noteRed r.serial (v.2.1 ||| x.2.1, v.2.2 + x.2.2)) with treg := tPut c.treg r.elem x.1, pend := c.pend.erase r.elem, rows := rs }
      setVt s die site (t.setCtx ctx c))

/-- Whether a task is complete (R155, R164). -/
def taskDone (c : VCtx) (k : VTask) : Bool :=
  k.issued && k.inChain == 0 && k.out.all (fun o => o.words == o.credited) && c.rows.all (fun r => r.serial != k.serial)

/-- A VOP's summary of one output as it is sent: its stages' IEEE flags are ORed in, and their flushes and those of its reductions counted (R65, R79, R155; log entry 102). -/
def VTask.summary (k : VTask) (n : Nat) : Summary :=
  let x := (nth { part := [], pos := 0, sum := Summary.empty 0 0, words := 0, credited := 0, b := none } n k.out).sum
  let f := capAdd x.flushed k.flushed
  { x with flushed := f.1, nflags := x.nflags ||| k.flags ||| (if k.flushed = 0 then 0 else 64) ||| (if f.2 then 2 ^ 30 else 0) }

/-- VOP_COMPLETE: outputs credited and reductions written, each enabled output sends its summary with the flags, and the done kettle is signalled; a TOUT ends here likewise (R155, R164). -/
def execVopComplete (die site ctx : Nat) (s : State) : Host.Outcome State Fault Refusal :=
  onSite die site [.vTile] (
    let t := vtOf s die site
    let c := t.ctx ctx
    match c.tasks.find? (taskDone c) with
    | none => s
    | some k =>
      let d := k.desc
      let s := setVt s die site (t.setCtx ctx { c with tasks := c.tasks.filter (fun x => x.serial != k.serial) })
      let s := if dfld d 0 1 ≠ 1 then s
        else if dfld d 29 1 = 0 then
          (if dfld d 32 2 = 0xFFFF then s else sendSummary s die site ctx (dfld d 32 2) (dfld d 34 2) { Summary.empty (vopNc d 0).ofmt 0 with nflags := k.flags ||| (if k.flushed = 0 then 0 else 64) })
        else (upTo 2).foldl (fun s n =>
          if vopOut d n && dfld d (32 + 4 * n) 2 != 0xFFFF then
            sendSummary s die site ctx (dfld d (32 + 4 * n) 2) (dfld d (34 + 4 * n) 2) (k.summary n)
          else s) s
      descSignal s die site ctx d)

/-- Fields of a collector entry (R157, R163). -/
def collFld (t : VTile) (n off size : Nat) : Nat := fld t.site.toNat (32 + 32 * n + off) size

/-- A summary read from its 17 words (R77). -/
def summaryOf (ws : List Word) : Summary :=
  let n := packElems 256 (ws.map BitVec.toNat)
  { saturated := fld n 0 8 % 2 ^ 48, flushed := fld n 8 8 % 2 ^ 48, nflags := fld n 16 4, ofmt := fld n 20 1 % 16, scaleUsed := fld n 21 1, elements := fld n 24 8 % 2 ^ 48
    hist := (upTo 64).map (fun k => fld n (32 + 8 * k) 8 % 2 ^ 48) }

/-- The governor's choice (R158). -/
def govern (clip headroom : Nat) (h : List Nat) (n bPrev : Nat) : Nat :=
  let allow := n * clip / 2 ^ 20
  let rec go : Nat → Nat → Nat
    | 0, _ => bPrev
    | k + 1, above =>
      if allow < above + nth 0 (k + 1) h then
        if k + 1 = 62 then 254
        else
          let e : Int := if k + 1 = 1 then -40 else (k + 1 : Int) - 41
          (min (max (e + 128 + headroom) 0) 254).toNat
      else go k (above + nth 0 (k + 1) h)
  go 62 0

/-- A collector's endpoint (R319). -/
def collectorEp (die site : Nat) : Ep := { die := die, site := site, port := portCollector, index := 0 }

/-- The words of a record that one request carries: at most 16, an S-tile's command one less, and none beyond a granule or an S-tile (R196, R229, R318). -/
def recordPiece (a n : Nat) : Nat :=
  match spaceOf a with
  | 3 => min (min n 15) ((2 ^ 21 - a % 2 ^ 21) / 32)
  | 4 => min n 16
  | _ => min (min n 16) ((4096 - a % 4096) / 32)

/-- A collector's record written by requests to the units that serve its words, which check each word; an address that no unit serves is the job's contained error (R156, R213, R229, R231, R323, R380; log entry 111). -/
def recordWrite : Nat → State → Nat → Nat → Nat → Nat → Nat → List Word → State
  | 0, s, _, _, _, _, _, _ => s
  | _ + 1, s, _, _, _, _, _, [] => s
  | f + 1, s, die, site, n, job, a, w :: ws =>
    let k := max 1 (recordPiece a (ws.length + 1))
    let data := (w :: ws).take k
    let send (typ : Nat) (dst : Ep) (arg : Nat) (data : List Word) : State := sendReq s (collectorEp die site) n job typ dst (BitVec.ofNat 64 arg) data
    if addrMalformed a then raiseContained s 0x0221 job die 1 site a
    else
      let go (s : State) : State := recordWrite f s die site n job (a + 32 * k) ((w :: ws).drop k)
      match spaceOf a with
      | 3 => go (send 1 { die := bits a 35 29, site := (spSite (bits a 28 21)).getD 0, port := portTile, index := 0 } 0 (spCommand 2 2 (bits a 20 5) k :: data))
      | 4 => go (send 8 { die := bits a 35 29, site := blockSite, port := portCore, index := 0xFFFF } (2 + k * 2 ^ 8 + bits a 22 0 * 2 ^ 32) data)
      | 8 => go (send 3 (hostEp 0) a data)
      | 0 => (placeOf s a).server.elim (raiseContained s 0x0220 job die 1 site a) (fun e => go (send 3 e a data))
      | 1 => (placeOf s a).server.elim (raiseContained s 0x0220 job die 1 site a) (fun e => go (send 3 e a data))
      | 2 => (placeOf s a).server.elim (raiseContained s 0x0220 job die 1 site a) (fun e => go (send 3 e a data))
      | _ => raiseContained s 0x0221 job die 1 site a

/-- A summary sent to a collector's next record slot (R77, R156). -/
def writeSummary (s : State) (die site n job slot : Nat) (x : Summary) : State :=
  recordWrite 17 s die site n job (fld (vtOf s die site).site.toNat (32 + 32 * n + 16) 8 + 544 * slot) (summaryWords x)

/-- A step of a collector is complete: record slot, signal, governor. Before its first choice the governor's b_prev is SCALE_USED of the step's first summary, which is SCALE where the output has one (R77, R156, R158, R159; DEDUCED, log entry 105). -/
def collectorStep (s : State) (die site n : Nat) (c : Collector) (sum : Summary) : State :=
  let t := vtOf s die site
  let f := collFld t n
  let job := siteJob s die site
  let s := writeSummary s die site n job c.slot sum
  let gov := bit (f 4 1) 0
  let b := govern (f 6 2) (f 5 1) sum.hist sum.elements (c.bLast.getD sum.scaleUsed)
  let c' := { c with count := 0, sum := Summary.empty 0 0, step := (c.step + 1) % 2 ^ 48, wrap := c.wrap || decide (c.step + 1 = 2 ^ 48)
                     slot := if c.slot + 1 < f 14 2 then c.slot + 1 else 0, bLast := if gov then some b else c.bLast }
  let s := setVt s die site { t with coll := t.coll.set n c' }
  let s := sendKettle s (collectorEp die site) n job (f 12 2) 1 true 1
  if gov then (upTo (f 10 1)).foldl (fun s k =>
    match rankEp s job (f 8 2 + k) with
    | some e => sendReq s (collectorEp die site) n job 7 e (BitVec.ofNat 64 (f 0 2 + b * 2 ^ 16 + c.step % 2 ^ 40 * 2 ^ 24)) []
    | none => s) s
  else s

/-- The summary of a drain or output that a fault ended, marked PARTIAL: it is merged at once into the step of the collector that its rank and tag name (R80, R81, R269; DESIGN CHOICE, log entry 106). -/
def givePartial (s : State) (job rank tag : Nat) (x : Summary) : State :=
  match rankEp s job rank with
  | none => s
  | some e =>
    let t := vtOf s e.die e.site
    match (upTo 8).find? (fun n => collFld t n 0 2 == tag && tag != 0) with
    | none => s
    | some n =>
      if siteKind e.site ≠ some .vTile ∨ siteJob s e.die e.site ≠ job then s
      else
        let c := nth collectorInitial n t.coll
        let x := x.markPartial
        setVt s e.die e.site { t with coll := t.coll.set n { c with count := c.count + 1, sum := if c.count = 0 then x else c.sum.merge x } }

/-- A tile's drains and outputs in progress ended by a fault of its job, its contexts FAULTED (R81, R104, R269). -/
def endTile (s : State) (job die site : Nat) : State :=
  match siteKind site with
  | some .mTile =>
    match Tab.find? (siteKey die site) s.mTiles with
    | none => s
    | some t => t.drainQ.foldl (fun s j => givePartial s job (dfld j.desc 24 2) (dfld j.desc 26 2) j.sum) (setMt s die site (t.endJob s.now))
  | some .vTile =>
    match Tab.find? (siteKey die site) s.vTiles with
    | none => s
    | some t =>
      let vops := t.ctxs.flatMap (fun c => c.tasks.filter (fun k => dfld k.desc 0 1 == 1))
      vops.foldl (fun s k => (upTo 2).foldl (fun s n =>
        if vopOut k.desc n then givePartial s job (dfld k.desc (32 + 4 * n) 2) (dfld k.desc (34 + 4 * n) 2) (k.summary n) else s) s)
        (setVt s die site (t.endJob s.now))
  | _ => s

/-- The collector steps in progress at a V-tile ended by a fault: each writes its merged summary, PARTIAL set, to its next record slot (R81, R156, R269). -/
def endCollectors (s : State) (job die site : Nat) : State :=
  match Tab.find? (siteKey die site) s.vTiles with
  | none => s
  | some t => (upTo 8).foldl (fun s n =>
    let c := nth collectorInitial n t.coll
    if c.count = 0 then s
    else
      let s := writeSummary s die site n job c.slot c.sum.markPartial
      let t := vtOf s die site
      setVt s die site { t with coll := t.coll.set n { c with count := 0, sum := Summary.empty 0 0, slot := if c.slot + 1 < collFld t n 14 2 then c.slot + 1 else 0 } }) s

/-- The numeric operations in progress at a list of sites ended by a fault of their job (R81, R269). -/
def endNumeric (s : State) (job : Nat) (sites : List (Nat × Nat)) : State :=
  let s := sites.foldl (fun s k => endTile s job k.1 k.2) s
  sites.foldl (fun s k => endCollectors s job k.1 k.2) s

/-- SUMMARY reaches a collector: it is merged under its tag, or discarded with SUMMARY_UNKNOWN_TAG (R80, R156, R157; log entry 13). -/
def execSummary (m : Msg) (s : State) : Host.Outcome State Fault Refusal :=
  applyMsg s m (fun s =>
    if siteKind m.dst.site ≠ some .vTile ∨ m.typ ≠ 6 then s
    else
      let die := m.dst.die
      let site := m.dst.site
      let t := vtOf s die site
      let tag := m.arg.toNat % 65536
      let s := ack s m
      match (upTo 8).find? (fun n => collFld t n 0 2 == tag && tag != 0) with
      | none => raiseSite s 0x0111 die site tag
      | some n =>
        let c := nth collectorInitial n t.coll
        let x := summaryOf m.data
        let sum := if c.count = 0 then x else c.sum.merge x
        if c.count + 1 = collFld t n 2 2 then collectorStep s die site n c sum
        else setVt s die site { t with coll := t.coll.set n { c with count := c.count + 1, sum := sum } })

/-- GOV_UPDATE reaches a subscriber: the pair whose collector sent it takes the block exponent (R159). -/
def execGovUpdate (m : Msg) (s : State) : Host.Outcome State Fault Refusal :=
  applyMsg s m (fun s =>
    if siteKind m.dst.site ≠ some .vTile ∨ m.typ ≠ 7 then s
    else
      let die := m.dst.die
      let site := m.dst.site
      let t := vtOf s die site
      let tag := m.arg.toNat % 65536
      let b := m.arg.toNat / 2 ^ 16 % 256
      ack (setVt s die site { t with pairs := t.pairs.map (fun p =>
        if p.tag = tag ∧ ((rankEp s (siteJob s die site) p.rank).map (fun e => (e.die, e.site))) = some (m.src.die, m.src.site)
        then { p with got := p.got + 1, b := b } else p) }) m)

/-- An F-tile. -/
def ftOf (s : State) (die site : Nat) : FTile := Tab.get fTileInitial (siteKey die site) s.fTiles

/-- An F-tile replaced. -/
def setFt (s : State) (die site : Nat) (t : FTile) : State := { s with fTiles := Tab.set (siteKey die site) t s.fTiles }

/-- Fields of a link descriptor (R167). -/
def FLink.f (l : FLink) (off size : Nat) : Nat := fld l.desc.toNat off size

/-- The numeric control word of a link (R167). -/
def FLink.nc (l : FLink) : NumCtl := numCtlOf (l.f 4 4)

/-- Whether a link has a beat ready: two request words, or a word of a MAP run (R167, R168). -/
def FLink.ready (l : FLink) : Bool :=
  let fa := (fmtOfCode l.nc.ifmtA).getD .fp32
  !l.faulted && !l.done &&
  (match l.f 0 1 with
  | 1 => decide (2 ≤ l.inQ.length)
  | 2 => decide (l.pos < l.f 16 4) && decide ((if isBlockFmt fa && l.pos % 256 == 0 then 2 else 1) ≤ l.inQ.length)
  | _ => false)

/-- An FCALL beat: 16 FP32 operands in two words give two result words (R150, R165). -/
def FLink.fcallBeat (l : FLink) : FLink × Nat × Nat :=
  let r := ((l.inQ.take 2).flatMap (fun w => elems 32 8 w.toNat)).map (funcOf .fp32 l.nc.dir l.nc.subn (l.f 1 1))
  let ws := (chunks 8 2 (r.map (·.1))).map (fun x => BitVec.ofNat 256 (packElems 32 x))
  ({ l with inQ := l.inQ.drop 2, outQ := l.outQ ++ ws, flags := r.foldl (fun a x => a ||| x.2) l.flags }, 16, 2)

/-- A beat of a MAP run: the elements of one input word mapped and packed, the run's end completed with padding (R53, R168). -/
def FLink.mapBeat (l : FLink) : FLink × Nat × Nat :=
  let fa := (fmtOfCode l.nc.ifmtA).getD .fp32
  let fo := (fmtOfCode l.nc.ofmt).getD .fp32
  let fc : NumFmt := if fa = .fp64 ∨ fo = .fp64 then .fp64 else .fp32
  let (side, q, took) := if isBlockFmt fa && l.pos % 256 == 0 then (nth 0 0 l.inQ, l.inQ.drop 1, 1) else (l.side, l.inQ, 0)
  let n := min (wordElems fa) (l.f 16 4 - l.pos)
  let codes := (elems (fmtWidth fa) (wordElems fa) (nth 0 0 q).toNat).take n
  let r := (upTo n).map (fun i =>
    let c := nth 0 i codes
    let x := (convertElem (if isBlockFmt fa then none else some (fa, c)) fc l.nc.dir false (elemVal fa side (l.pos + i) c)).bits
    let y := funcOf fc l.nc.dir l.nc.subn (l.f 1 1) x
    let z := convertElem (some (fc, y.1)) fo l.nc.dir l.nc.subn (unpack fc y.1)
    (z.bits, y.2 ||| (z.flags % 32) ||| (if fa = .fp32 ∧ (unpack fa c).isSignal then 16 else 0)))
  let endRun := decide (l.pos + n = l.f 16 4)
  let part := l.part ++ r.map (·.1)
  let per := wordElems fo
  let full := if endRun then part else part.take (part.length / per * per)
  let ws := (chunks per 64 full).map (fun x => BitVec.ofNat 256 (packElems (fmtWidth fo) x))
  let pad := if endRun && isBlockFmt fa then (ceilDiv (l.f 16 4) 256 * 256 - ceilDiv (l.f 16 4) (wordElems fa) * wordElems fa) / wordElems fa else 0
  let q := q.drop 1
  let gone := min pad q.length
  ({ l with inQ := q.drop gone, skip := pad - gone, side := side, pos := l.pos + n, part := part.drop full.length
            outQ := l.outQ ++ ws, words := l.words + ws.length, flags := r.foldl (fun a x => a ||| x.2) l.flags }, n, took + 1 + gone)

/-- A link's ready beat computed, its request places freed (R165 to R168, R170). -/
def linkBeat (s : State) (die site link : Nat) (l : FLink) : State :=
  let r := if l.f 0 1 = 1 then l.fcallBeat else l.mapBeat
  let s := telAdd (setFt s die site { links := (ftOf s die site).links.set link r.1, last := link }) die site 0x018 r.2.1
  freePlaces s die site link 0 r.2.2

/-- FCALL_BEAT: an F-tile computes a link's beat, the links alternating when both have one ready (R165 to R168, R170, R579). -/
def execFcallBeat (die site link slot : Nat) (flips : List Nat) (s : State) : Host.Outcome State Fault Refusal :=
  onSite die site [.fTile] (
    let t := ftOf s die site
    let l := nth fLinkInitial link t.links
    let other := nth fLinkInitial (1 - link) t.links
    if !siteRuns s die site || !issueOpen s die slot || decide (1 < link) || !l.ready || (other.ready && t.last == link) then s
    else
      let dec := dataDecodeList flips
      let s := telAdd s die site 0x020 dec.2.1
      if !dec.1 then raiseSite (setFt s die site { t with links := t.links.set link { l with faulted := true } }) 0x0118 die site 0
      else
        linkBeat s die site link { l with inQ := List.zipWith (fun w (x : Nat) => w ^^^ BitVec.ofNat 256 x) l.inQ (dec.2.2 ++ List.replicate l.inQ.length 0) })

/-- MAP_RUN_COMPLETE: the run's last output word is credited, the kettle is signalled and the next run starts (R168). -/
def execMapRunComplete (die site link : Nat) (s : State) : Host.Outcome State Fault Refusal :=
  onSite die site [.fTile] (
    let t := ftOf s die site
    let l := nth fLinkInitial link t.links
    if l.f 0 1 = 2 ∧ l.pos = l.f 16 4 ∧ l.outQ.isEmpty ∧ l.words = l.credited ∧ !l.done ∧ !l.faulted ∧ link < 2 then
      let l' := { l with pos := 0, side := 0, words := 0, credited := 0, runsLeft := l.runsLeft - 1, done := l.f 20 4 != 0 && decide (l.runsLeft ≤ 1) }
      let s := setFt s die site { t with links := t.links.set link l' }
      if bit (l.f 14 1) 0 then siteSignal s die site link (l.f 12 2) (bit (l.f 14 1) 1) else s
    else s)

end Sys2Proof.Machine
end

