-- ==== Sys2Proof/Machine/Grain.lean ====
section
/-! DEFINITION. Sys2Proof/Machine/Grain.lean: grain switches: slots, credits, elements and edge links (R277 to R312). -/

namespace Sys2Proof.Machine

/-- A site's grain switch. -/
def grOf (s : State) (die site : Nat) : GrainSite := Tab.get grainInitial (siteKey die site) s.grain

/-- A grain switch replaced. -/
def setGr (s : State) (die site : Nat) (g : GrainSite) : State := { s with grain := Tab.set (siteKey die site) g s.grain }

/-- Fields of a slot-table entry (R282). -/
def entValid (e : Nat) : Bool := bit e 31
def entSrc (e : Nat) : Nat := bits e 30 27
def entLane (e : Nat) : Nat := bits e 26 24
def entJob (e : Nat) : Nat := bits e 21 16
def entCircuit (e : Nat) : Nat := bits e 15 0

/-- The entry of a slot table (R281). -/
def GrainSite.entry (g : GrainSite) (table slot : Nat) : Nat := Tab.get 0 (table * 16 + slot) g.slots

/-- A switch element. -/
def GrainSite.el (g : GrainSite) (n : Nat) : GrainEl := Tab.get grainElInitial n g.els

/-- An element updated. -/
def modEl (s : State) (die site n : Nat) (f : GrainEl → GrainEl) : State :=
  let g := grOf s die site
  setGr s die site { g with els := Tab.set n (f (g.el n)) g.els }

/-- Fields of an element descriptor (R298). -/
def GrainEl.on (e : GrainEl) : Bool := bit (fld e.desc.toNat 0 1) 0
def GrainEl.mode (e : GrainEl) : Nat := fld e.desc.toNat 1 1
def GrainEl.param0 (e : GrainEl) : Nat := fld e.desc.toNat 2 1
def GrainEl.param1 (e : GrainEl) : Nat := fld e.desc.toNat 3 1
def GrainEl.watch (e : GrainEl) : Bool := bit (fld e.desc.toNat 4 1) 0
def GrainEl.job (e : GrainEl) : Nat := fld e.desc.toNat 5 1

/-- The words queued at an input. -/
def GrainEl.inQ (e : GrainEl) (i : Nat) : List Word := nth [] i e.q

/-- The element and input that a table index feeds (R281). -/
def tableElement (table : Nat) : Option (Nat × Nat) :=
  if table < 24 then none
  else if table < 26 then some (table - 24, 0)
  else if table < 30 then some (2 + (table - 26) / 2, (table - 26) % 2)
  else if table < 36 then some (4 + (table - 30) / 3, (table - 30) % 3)
  else if table < 52 then some (6 + (table - 36) / 4, (table - 36) % 4)
  else none

/-- The table index that feeds an element's input (R281). -/
def elementTable (n i : Nat) : Nat :=
  if n < 2 then 24 + n else if n < 4 then 26 + 2 * (n - 2) + i else if n < 6 then 30 + 3 * (n - 4) + i else 36 + 4 * (n - 6) + i

/-- The element and output that a source names (R283). -/
def srcElement (src lane : Nat) : Option (Nat × Nat) :=
  if src < 5 ∨ 14 < src then none else some (src - 5, if src = 5 ∨ src = 6 ∨ src = 9 ∨ src = 10 then lane % 2 else 0)

/-- The capacity of an element's input (R286). -/
def elementCapacity (n i : Nat) (e : GrainEl) : Nat :=
  if n < 2 then 4 else if n < 4 then (if i = 0 then e.param0 else e.param1) else if n < 6 then 8 else 16

/-- The source endpoint of a circuit at a site (R299). -/
def GrainSite.sourceOf (g : GrainSite) (job circuit : Nat) : Option (Nat × GrainEp) :=
  List.find? (fun (e : Nat × GrainEp) => e.2.kind == 1 && e.2.job == job && e.2.circuit == circuit) g.eps

/-- The sink endpoint of a circuit at a site (R299). -/
def GrainSite.sinkOf (g : GrainSite) (job circuit : Nat) : Option (Nat × GrainEp) :=
  List.find? (fun (e : Nat × GrainEp) => e.2.kind == 2 && e.2.job == job && e.2.circuit == circuit) g.eps

/-- An endpoint updated. -/
def modEp (s : State) (die site n : Nat) (f : GrainEp → GrainEp) : State :=
  let g := grOf s die site
  setGr s die site { g with eps := g.eps.map (fun (e : Nat × GrainEp) => if e.1 = n then (e.1, f e.2) else e) }

/-- The word that a tile has ready at a port, with the state after it is taken (R85, R133, R187, R260). -/
def tileTake (s : State) (die site : Nat) (e : GrainEp) : Option (Word × State) :=
  match siteKind site with
  | some .mTile =>
    let t := mtOf s die site
    match t.dOut, t.drainQ with
    | w :: ws, j :: _ => if e.tport = 3 ∧ j.ctx = e.ctx then some (w, drainEngine 16 (setMt s die site { t with dOut := ws }) die site) else none
    | _, _ => none
  | some .vTile =>
    let t := vtOf s die site
    if e.tport = 3 ∨ e.tport = 4 then
      match t.outBuf.find? (fun w => w.port + 3 == e.tport && w.ctx == e.ctx) with
      | some w => some (w.word, setVt s die site { t with outBuf := t.outBuf.erase w, outRes := t.outRes.set (e.tport - 3) (nth 0 (e.tport - 3) t.outRes - 1) })
      | none => none
    else if e.tport = 5 then
      match t.fReq0 with
      | w :: ws => some (w, setVt s die site { t with fReq0 := ws })
      | [] => none
    else match t.fReq1 with
      | w :: ws => if e.tport = 6 then some (w, setVt s die site { t with fReq1 := ws }) else none
      | [] => none
  | some .fTile =>
    let t := ftOf s die site
    let l := nth fLinkInitial e.tport t.links
    match l.outQ with
    | w :: ws => some (w, setFt s die site { t with links := t.links.set e.tport { l with outQ := ws } })
    | [] => none
  | some .xTile =>
    let n := enOf s die site
    if !engineRuns s die site then none
    else match List.find? (fun (x : Nat × Strm) => x.2.phase == .running && x.2.isLoad && x.2.f 12 2 == e.circuit && (Tab.find? x.2.pos x.2.staged).isSome) n.slots with
    | some x => some (Tab.get 0 x.2.pos x.2.staged, modSlot s die site x.1 (fun x => { x with pos := x.pos + 1, staged := Tab.erase x.pos x.staged }))
    | none => none
  | some _ =>
    let t := spOf s die site
    let c := Tab.get chanInitial e.tport t.chans
    match c.fifo with
    | w :: ws => if c.writes then none else some (w, setSp s die site { t with chans := Tab.set e.tport { c with fifo := ws } t.chans })
    | [] => none
  | none => none

/-- A padding word of a group's end is dropped at once and its place freed; any other word joins the queue (R54). -/
def portGive (p : VPort) (w : Word) : VPort × Nat :=
  if 0 < p.skip then ({ p with skip := p.skip - 1 }, 1) else ({ p with queue := p.queue ++ [w] }, 0)

/-- A word given to a tile's port (R85, R92, R133, R165, R187, R260). -/
def tileGive (s : State) (die site : Nat) (e : GrainEp) (w : Word) : State :=
  match siteKind site with
  | some .mTile =>
    let t := mtOf s die site
    let c := t.ctx e.ctx
    if e.tport = 0 then setMt s die site (t.setCtx e.ctx { c with aQueue := c.aQueue ++ [w] })
    else if e.tport = 1 then loadEngine 17 (setMt s die site (t.setCtx e.ctx { c with wQueue := c.wQueue ++ [w] })) die site
    else setMt s die site (t.setCtx e.ctx { c with accQueue := c.accQueue ++ [w] })
  | some .vTile =>
    let t := vtOf s die site
    if e.tport = 5 then setVt s die site { t with fRet0 := t.fRet0 ++ [w] }
    else if e.tport = 6 then setVt s die site { t with fRet1 := t.fRet1 ++ [w] }
    else
      let c := t.ctx e.ctx
      let r := portGive (nth vPortInitial e.tport c.ports) w
      freePlaces (setVt s die site (t.setCtx e.ctx { c with ports := c.ports.set e.tport r.1 })) die site e.tport e.ctx r.2
  | some .fTile =>
    let t := ftOf s die site
    let l := nth fLinkInitial e.tport t.links
    if 0 < l.skip then freePlaces (setFt s die site { t with links := t.links.set e.tport { l with skip := l.skip - 1 } }) die site e.tport 0 1
    else setFt s die site { t with links := t.links.set e.tport { l with inQ := l.inQ ++ [w] } }
  | some .xTile =>
    let n := enOf s die site
    setEn s die site { n with xIn := n.xIn ++ [(e.circuit, w)] }
  | some _ =>
    let t := spOf s die site
    let c := Tab.get chanInitial e.tport t.chans
    setSp s die site { t with chans := Tab.set e.tport { c with fifo := c.fifo ++ [w] } t.chans }
  | none => s

/-- A credit that reaches a tile's source: the word it paid for counts as credited (R98, R155, R164, R168, R265). -/
def tileCredit (s : State) (die site : Nat) (e : GrainEp) : State :=
  match siteKind site with
  | some .mTile =>
    let t := mtOf s die site
    match t.drainQ with
    | j :: js => setMt s die site { t with drainQ := { j with credited := j.credited + 1 } :: js }
    | [] => s
  | some .vTile =>
    let t := vtOf s die site
    if e.tport = 3 ∨ e.tport = 4 then
      let c := t.ctx e.ctx
      let n := e.tport - 3
      match c.tasks.find? (fun k => (k.out[n]?).any (fun o => decide (o.credited < o.words))) with
      | some k => setVt s die site (t.setCtx e.ctx (c.modTask k.serial (fun k =>
          { k with out := (k.out[n]?).elim k.out (fun o => k.out.set n { o with credited := o.credited + 1 }) })))
      | none => s
    else s
  | some .fTile =>
    let t := ftOf s die site
    let l := nth fLinkInitial e.tport t.links
    setFt s die site { t with links := t.links.set e.tport { l with credited := l.credited + 1 } }
  | some .xTile =>
    let n := enOf s die site
    match List.find? (fun (x : Nat × Strm) => x.2.isLoad && x.2.f 12 2 == e.circuit && decide (x.2.credited < x.2.pos)) n.slots with
    | some x => telAdd (modSlot s die site x.1 (fun x => { x with credited := x.credited + 1 })) die site 0x348 1
    | none => s
  | _ => s

/-- LAST_FAULT of a site's grain switch and edge link, kept apart from its tile's (R311, R312). -/
def noteGrainFault (s : State) (die site code : Nat) : State := noteFault s die (2 ^ 20 + site) code

/-- A fault of the grain fabric that names a site and a circuit, against a job (R285, R292, R293, R307). -/
def raiseGrain (s : State) (code job die site detail : Nat) : State :=
  noteGrainFault (raiseContained s code job die 1 site detail) die site code

/-- A codeword decoded at a sink, element input or edge-in buffer; an uncorrectable one is not delivered (R307). -/
def grainDecode (s : State) (die site : Nat) (w : GrainWord) (tel : Nat) : State × Option Word :=
  match decodePattern w.flip with
  | .clean => (s, some (w.word ^^^ BitVec.ofNat 256 w.flip))
  | .corrected q => (telAdd s die site tel 1, some (w.word ^^^ BitVec.ofNat 256 q))
  | .uncorrectable => (raiseGrain s 0x0401 w.job die site w.circuit, none)

/-- The neighbour of a site across a die's edge: die and X-tile site, where a grain-capable edge link ends (R301, R302). -/
def edgePeer (die site : Nat) : Option (Nat × Nat) :=
  if siteKind site = some .xTile then
    match dieNeighbour die (xEdge site).1 with
    | some n => if isHub n then none else some (n, xSite (opposite (xEdge site).1) (xEdge site).2)
    | none => none
  else none

/-- Whether a port of a site leads over its die's edge. -/
def isEdgeSide (site side : Nat) : Bool := siteKind site == some .xTile && (xEdge site).1 == side

/-- The word that an entry's source has in a slot, with the state after it is taken (R281, R286, R289, R290, R303). -/
def slotTake (s : State) (die site e slot : Nat) : Option (GrainWord × State) :=
  let g := grOf s die site
  let job := entJob e
  let circuit := entCircuit e
  if entSrc e < 4 then
    if isEdgeSide site (entSrc e) then
      match g.edgeIn.find? (fun w => w.circuit == circuit && w.job == job) with
      | some w => some (w, setGr s die site { g with edgeIn := g.edgeIn.erase w })
      | none => none
    else
      let key := (entSrc e * 8 + entLane e) * 16 + (slot + 15) % 16
      match Tab.find? key g.links with
      | some w => some (w, setGr s die site { g with links := Tab.erase key g.links })
      | none => none
  else if entSrc e = 4 then
    match g.sourceOf job circuit with
    | some (n, p) =>
      match tileTake s die site p with
      | some (w, s') =>
        if p.stopped ∨ (dieOf s die).fencedSites.contains site then none
        else if p.credits = 0 then none
        else some ({ word := w, circuit := circuit, job := job, flip := 0 }, modEp s' die site n (fun p => { p with credits := p.credits - 1 }))
      | none => none
    | none => none
  else match srcElement (entSrc e) (entLane e) with
    | none => none
    | some (n, o) =>
      let x := g.el n
      let paid := n < 2 ∧ x.mode = 0
      match if o = 0 then x.out0 else x.out1 with
      | [] => none
      | (w, i) :: rest =>
        let cred := if o = 0 then x.cred0 else x.cred1
        if ¬paid ∧ cred = 0 then none
        else
          let c := if paid then cred else cred - 1
          let owed := if n = 2 ∨ n = 3 then x.owed.set i (nth 0 i x.owed + 1) else x.owed
          let x := if o = 0 then { x with out0 := rest, cred0 := c, owed := owed } else { x with out1 := rest, cred1 := c, owed := owed }
          some ({ word := w, circuit := circuit, job := job, flip := 0 }, setGr s die site { g with els := Tab.set n x g.els })

/-- Whether a source has a word and lacks only a credit (R311). -/
def creditStall (s : State) (die site e : Nat) : Bool :=
  let g := grOf s die site
  if entSrc e = 4 then
    match g.sourceOf (entJob e) (entCircuit e) with
    | some (_, p) => !p.stopped && p.credits == 0 && (tileTake s die site p).isSome
    | none => false
  else match srcElement (entSrc e) (entLane e) with
    | some (n, o) =>
      let x := g.el n
      !(n < 2 && x.mode == 0) && (if o = 0 then x.cred0 == 0 && !x.out0.isEmpty else x.cred1 == 0 && !x.out1.isEmpty)
    | none => false

/-- Places that words hold at an input of element n: queued words, and at a join those still in its output (R286, R290, R292). -/
def GrainEl.held (n : Nat) (x : GrainEl) (i : Nat) : Nat :=
  (x.inQ i).length + (if n = 2 ∨ n = 3 then (x.out0.filter (fun p => p.2 == i)).length else 0)

/-- A word's arrival at a merge adder noted: after those before it, and before the arrivals of the same cycle at inputs of higher number (R295; log entry 109). -/
def noteArrival (a : Nat × Nat × Nat) (l : List (Nat × Nat × Nat)) : List (Nat × Nat × Nat) :=
  let same := l.reverse.takeWhile (fun b => b.1 == a.1 && b.2.1 == a.2.1 && decide (a.2.2 < b.2.2))
  l.take (l.length - same.length) ++ [a] ++ same.reverse

/-- Whether the head word of a merge adder's input is the next of its index: no other input's word of that index arrived before it (R38, R295). -/
def GrainEl.mergeTurn (x : GrainEl) (i : Nat) : Bool :=
  let k := nth 0 i x.taken
  let before := x.arrivals.takeWhile (fun a => a.2.2 != i)
  (upTo 4).all (fun j => j == i || !(decide (nth 0 j x.taken ≤ k) && decide (k < nth 0 j x.taken + (before.filter (fun a => a.2.2 == j)).length)))

/-- The join's watch after a change: the time since which one buffer is full and the other empty (R292). -/
def noteSkew (s : State) (die site n : Nat) : State :=
  if n = 2 ∨ n = 3 then
    modEl s die site n (fun x =>
      let skew := (x.held n 0 == x.param0 && x.held n 1 == 0) || (x.held n 1 == x.param1 && x.held n 0 == 0)
      { x with skewSince := if skew then some (x.skewSince.getD s.now) else none })
  else s

/-- Whether a site's border lets words of another region's site pass into it: a parted or blank site passes nothing (R309, R406). -/
def borderOpen (s : State) (die site die2 site2 : Nat) : Bool :=
  !siteParted s die2 site2 || siteRegion s die site == siteRegion s die2 site2

/-- Whether a link can take a word of a slot: it holds at most the word of the slot before, which its switch drives on in this slot (R277, R278). -/
def GrainSite.linkFree (g : GrainSite) (lane slot : Nat) : Bool :=
  List.all g.links (fun (e : Nat × GrainWord) => e.1 / 16 != lane || e.1 % 16 == (slot + 15) % 16)

/-- A word put at an entry's destination: a link, the die's edge, the tile, or an element's input; none where the place is not free (R278, R281, R303). -/
def slotPut (s : State) (die site table slot : Nat) (w : GrainWord) : Option State :=
  if table < 16 then
    let side := table / 4
    if isEdgeSide site side then
      match edgePeer die site with
      | some p => if borderOpen s die site p.1 p.2 then
          let g := grOf s die site
          some (setGr s die site { g with edgeOut := g.edgeOut ++ [w] })
        else none
      | none => none
    else match siteNeighbour site side with
      | none => none
      | some n =>
        let g := grOf s die n
        let key := (opposite side * 8 + table % 4) * 16 + slot
        if !g.linkFree (opposite side * 8 + table % 4) slot ∨ s.net.holes.contains (siteKey die n) ∨ !borderOpen s die site die n then none
        else some (setGr s die n { g with links := Tab.set key w g.links })
  else if table < 24 then
    match (grOf s die site).sinkOf w.job w.circuit with
    | none => none
    | some (n, p) =>
      if p.credits = 0 then none
      else
        let r := grainDecode (modEp s die site n (fun p => { p with credits := p.credits - 1 })) die site w 0x40020
        some (match r.2 with
          | some v => tileGive r.1 die site p v
          | none => r.1)
  else match tableElement table with
    | none => none
    | some (n, i) =>
      let x := (grOf s die site).el n
      if !x.on ∨ elementCapacity n i x ≤ x.held n i then none
      else
        let r := grainDecode s die site w 0x40020
        some (match r.2 with
          | some v => noteSkew (modEl r.1 die site n (fun x =>
              { x with q := x.q.set i (x.inQ i ++ [v]), arrivals := if 6 ≤ n then noteArrival (s.now, slot, i) x.arrivals else x.arrivals })) die site n
          | none => r.1)

/-- GRAIN_SLOT_FORWARD: in a slot, a switch drives the word of the entry's source onto its destination; a link may flip bits of the codeword (R278, R281, R286, R307). -/
def execGrainSlotForward (die site table slot flip : Nat) (s : State) : Host.Outcome State Fault Refusal :=
  if !isCompute die ∨ 480 ≤ site then .fault (.noSuchUnit die site)
  else .next (
    let e := (grOf s die site).entry table slot
    if !entValid e ∨ 16 ≤ slot ∨ s.net.holes.contains (siteKey die site) ∨ siteParted s die site then s
    else match slotTake s die site e slot with
      | none => if creditStall s die site e then telAdd s die site 0x40010 1 else s
      | some (w, s') =>
        let s' := match srcElement (entSrc e) (entLane e) with
          | some (n, _) => noteSkew s' die site n
          | none => s'
        match slotPut s' die site table slot { w with flip := w.flip ^^^ flip % 2 ^ 288 } with
        | some s'' => telAdd s'' die site 0x40008 1
        | none => s)

/-- A credit passed to the previous link of its circuit, which the slot tables read in reverse name: the tile's source or the element that drives it, the sideband of the link before, or that of the link across the die's edge; none where that site passes nothing (R277, R285, R309). -/
def creditBack (s : State) (die site slot e : Nat) : Option State :=
  if entSrc e = 4 then
    ((grOf s die site).sourceOf (entJob e) (entCircuit e)).map (fun p => tileCredit (modEp s die site p.1 (fun p => { p with credits := p.credits + 1 })) die site p.2)
  else if 4 < entSrc e then
    (srcElement (entSrc e) (entLane e)).map (fun p => modEl s die site p.1 (fun x => if p.2 = 0 then { x with cred0 := x.cred0 + 1 } else { x with cred1 := x.cred1 + 1 }))
  else
    let back (d k key : Nat) : Option State :=
      if s.net.holes.contains (siteKey d k) || !borderOpen s die site d k then none
      else
        let g := grOf s d k
        some (setGr s d k { g with backs := Tab.modify 0 key (· + 1) g.backs })
    if isEdgeSide site (entSrc e) then
      match edgePeer die site with
      | none => none
      | some p => (List.find? (fun (x : Nat × Nat) => entValid x.2 && entJob x.2 == entJob e && entCircuit x.2 == entCircuit e && x.1 / 64 == opposite (entSrc e)) (grOf s p.1 p.2).slots).bind
          (fun x => back p.1 p.2 x.1)
    else (siteNeighbour site (entSrc e)).bind (fun k => back die k ((4 * opposite (entSrc e) + entLane e) * 16 + (slot + 15) % 16))

/-- A credit that is due at a destination of a switch taken: one of a place freed at the tile's sink or at an element's input, or one that came back on an output lane's sideband (R285, R286). -/
def creditTake (s : State) (die site table slot e : Nat) : Option State :=
  let g := grOf s die site
  if table < 16 then
    let key := table * 16 + slot
    if Tab.get 0 key g.backs = 0 then none else some (setGr s die site { g with backs := Tab.modify 0 key (· - 1) g.backs })
  else if table < 24 then
    (g.sinkOf (entJob e) (entCircuit e)).bind (fun p => if p.2.owed = 0 then none else some (modEp s die site p.1 (fun p => { p with owed := p.owed - 1 })))
  else
    (tableElement table).bind (fun p =>
      let x := g.el p.1
      if nth 0 p.2 x.owed = 0 then none else some (modEl s die site p.1 (fun x => { x with owed := x.owed.set p.2 (nth 0 p.2 x.owed - 1) })))

/-- CREDIT_RETURN: the two bits that stand for a credit reach the place of an entry's word: the credit is passed to the previous link of its circuit, one link at a time; two bits that disagree are an error and give none, and two that are clear are no credit (R277, R285, R286; log entry 32). -/
def execCreditReturn (die site table slot : Nat) (first second : Bool) (s : State) : Host.Outcome State Fault Refusal :=
  if !isCompute die ∨ 480 ≤ site then .fault (.noSuchUnit die site)
  else .next (
    let e := (grOf s die site).entry table slot
    if !entValid e ∨ 16 ≤ slot ∨ s.net.holes.contains (siteKey die site) ∨ siteParted s die site then s
    else
      let due := creditTake s die site table slot e
      if first && second then (due.bind (fun s' => creditBack s' die site slot e)).getD s
      else if first || second then raiseGrain (due.getD s) 0x0402 (entJob e) die site 0
      else s)

/-- An operation of a switch element: units 0 to n − 1 of a kind start at element base. -/
def onElement (die site base unit count : Nat) (s : State) (f : Nat → GrainEl → State) : Host.Outcome State Fault Refusal :=
  if !isCompute die ∨ 480 ≤ site ∨ count ≤ unit then .fault (.noSuchUnit die site)
  else .next (
    let x := (grOf s die site).el (base + unit)
    if !x.on ∨ x.faulted ∨ siteParted s die site ∨ s.net.holes.contains (siteKey die site) then s else f (base + unit) x)

/-- A word's place at an input freed. -/
def GrainEl.free (x : GrainEl) (i : Nat) : GrainEl := { x with owed := x.owed.set i (nth 0 i x.owed + 1) }

/-- FORK_TAKE: a lockstep fork takes a word when both branches hold a credit and have sent the last one, a decoupled one when both buffers have room (R289). -/
def execForkTake (die site unit : Nat) (s : State) : Host.Outcome State Fault Refusal :=
  onElement die site 0 unit 2 s (fun n x =>
    match x.inQ 0 with
    | [] => s
    | w :: ws =>
      let lock := x.mode == 0
      let ready := if lock then x.out0.isEmpty && x.out1.isEmpty && decide (0 < x.cred0) && decide (0 < x.cred1)
        else decide (x.out0.length < x.param0) && decide (x.out1.length < x.param1)
      if !ready then s
      else modEl s die site n (fun x =>
        let x := { x with q := x.q.set 0 ws, out0 := x.out0 ++ [(w, 0)], out1 := x.out1 ++ [(w, 0)] }
        (if lock then { x with cred0 := x.cred0 - 1, cred1 := x.cred1 - 1 } else x).free 0))

/-- JOIN_PAIR: with a word at the head of both ports the join takes the pair and emits port 0's word, then port 1's (R290). -/
def execJoinPair (die site unit : Nat) (s : State) : Host.Outcome State Fault Refusal :=
  onElement die site 2 unit 2 s (fun n x =>
    match x.inQ 0, x.inQ 1, x.out0 with
    | a :: as, b :: bs, [] => noteSkew (modEl s die site n (fun x => { x with q := (x.q.set 0 as).set 1 bs, out0 := [(a, 0), (b, 1)] })) die site n
    | _, _, _ => s)

/-- JOIN_SKEW_STALL: a watched join with one buffer full and the other empty for 100 µs faults its job (R292). -/
def execJoinSkewStall (die site unit : Nat) (s : State) : Host.Outcome State Fault Refusal :=
  onElement die site 2 unit 2 s (fun n x =>
    match x.skewSince with
    | some t => if x.watch ∧ t + 100000 ≤ s.now then raiseGrain (modEl s die site n (fun x => { x with faulted := true })) 0x0403 x.job die site n else s
    | none => s)

/-- Whether a token word keeps its layout (R293). -/
def tokenOk (w : Word) : Bool :=
  let n := w.toNat
  decide (fld n 0 1 ≤ 1) && fld n 1 3 == 0 && decide (1 ≤ fld n 4 4) && decide (fld n 4 4 ≤ 2 ^ 24) && fld n 8 24 == 0

/-- STEER: the head token and its data word are consumed together; SELECT passes words of D0 or D1 to output 0, ROUTE words of D0 to output 0 or 1 (R293, R294). -/
def execSteer (die site unit : Nat) (s : State) : Host.Outcome State Fault Refusal :=
  onElement die site 4 unit 2 s (fun n x =>
    let pass (x : GrainEl) (v left : Nat) (fresh : Bool) : Option GrainEl :=
      let d := if x.mode = 0 then v else 0
      let o := if x.mode = 0 then 0 else v
      match x.inQ d with
      | [] => none
      | w :: ws =>
        if !(if o = 0 then x.out0 else x.out1).isEmpty then none
        else
          let x := { x with q := x.q.set d ws, token := if left ≤ 1 then none else some (v, left - 1) }
          let x := if o = 0 then { x with out0 := [(w, d)] } else { x with out1 := [(w, d)] }
          let x := x.free d
          some (if fresh then { x with q := x.q.set 2 (x.inQ 2).tail }.free 2 else x)
    match x.token with
    | some (v, left) => modEl s die site n (fun x => (pass x v left false).getD x)
    | none =>
      match x.inQ 2 with
      | [] => s
      | t :: _ =>
        if !tokenOk t then raiseGrain (modEl s die site n (fun x => { x with faulted := true })) 0x0404 x.job die site 0
        else modEl s die site n (fun x => (pass x (fld t.toNat 0 1) (fld t.toNat 4 4) true).getD x))

/-- Two words added lane by lane as 8 FP32 values (R295). -/
def addWords (a b : Word) : Word := BitVec.ofNat 256 (packElems 32 (addFp32Lists (elems 32 8 a.toNat) (elems 32 8 b.toNat)))

/-- MERGE_ADD: an input's next word, the words of one index in the order they arrived, is loaded as, or added to, the sum of its index; the sum of all inputs is the output word (R38, R295, R296). -/
def execMergeAdd (die site unit input : Nat) (s : State) : Host.Outcome State Fault Refusal :=
  onElement die site 6 unit 4 s (fun n x =>
    match x.inQ input with
    | [] => s
    | w :: ws =>
      let k := nth 0 input x.taken
      let old := x.sums.find? (fun m => m.index == k)
      if x.param0 ≤ input ∨ !x.mergeTurn input ∨ (old.isNone ∧ 16 ≤ x.sums.length) ∨ 16 ≤ x.out0.length then s
      else
        let m : MergeSum := match old with
          | some m => { m with inputs := m.inputs ++ [input], word := addWords m.word w }
          | none => { index := k, inputs := [input], word := w }
        let rest := x.sums.filter (fun m => m.index != k)
        let full := decide (x.param0 ≤ m.inputs.length)
        let s := modEl s die site n (fun x =>
          ({ x with q := x.q.set input ws, taken := x.taken.set input (k + 1), arrivals := x.arrivals.eraseP (fun a => a.2.2 == input), sums := if full then rest else rest ++ [m]
                    out0 := if full then x.out0 ++ [(m.word, 0)] else x.out0 }).free input)
        if old.isSome then telAdd s die site 0x40018 1 else s)

/-- The jobs that slot-table entries, endpoints and elements of a site name. -/
def grainJobs (g : GrainSite) : List Nat :=
  ((g.slots.filter (fun e => entValid e.2)).map (fun e => entJob e.2) ++ (g.eps.filter (fun e => e.2.kind != 0)).map (fun e => e.2.job)
    ++ (g.els.filter (fun e => e.2.on)).map (fun e => e.2.job)).eraseDups

/-- One event for each job of a list, or one corrected event where there is none (R534, R545). -/
def raiseJobs (s : State) (code : Nat) (jobs : List Nat) (die ukind index detail : Nat) : State :=
  if jobs.isEmpty then raiseCorrected s code 0 die ukind index detail
  else jobs.foldl (fun s j => raiseContained s code j die ukind index detail) s

/-- A change that the route tables do not yet know (R328). -/
def noteRewrite (s : State) : State := { s with net := { s.net with rewriteDue := some (s.net.rewriteDue.getD s.now) } }

/-- A lane group lost at both its ends: the mull fabric stops using it and every job with a circuit through it is faulted (R304). -/
def loseGroup (s : State) (die edge group : Nat) : State :=
  let other := (dieNeighbour die edge).map (fun n => (n, opposite edge))
  let keys := groupKey die edge group :: other.toList.map (fun o => groupKey o.1 o.2 group)
  let jobs (d e : Nat) : List Nat := if isHub d then [] else
    let g := grOf s d (xSite e group)
    ((g.xin ++ g.xout).filter (fun x => entValid x.2)).map (fun x => entJob x.2)
  let js := (jobs die edge ++ other.toList.flatMap (fun o => jobs o.1 o.2)).eraseDups
  let s := noteRewrite { s with net := { s.net with lostGroups := (s.net.lostGroups ++ keys).eraseDups } }
  let s := unitFenced s die 5 (6 * recordEdge edge + group) false
  raiseJobs s 0x0406 js die 5 (6 * recordEdge edge + group) 0

/-- Words that a good frame carries: for each edge slot valid in both tables, the oldest waiting word of its circuit (R302, R303). -/
def frameWords (out inn : Tab Nat) : List Nat → List GrainWord → List GrainWord → List GrainWord × List GrainWord
  | [], wait, got => (wait, got)
  | j :: js, wait, got =>
    match Tab.find? j inn, Tab.find? j out with
    | some e, some o =>
      if entValid e ∧ entValid o then
        match wait.find? (fun w => w.circuit == entCircuit o && w.job == entJob o) with
        | some w => frameWords out inn js (wait.erase w) (got ++ [w])
        | none => frameWords out inn js wait got
      else frameWords out inn js wait got
    | _, _ => frameWords out inn js wait got

/-- The edge and lane group of an edge link's end: an X-tile, or 6 × edge + group at a hub die (R301, R23). -/
def groupAt (die site : Nat) : Nat × Nat := if isHub die then (recordEdge (site / 6), site % 6) else xEdge site

/-- EDGE_FRAME_RECEIVE: a good frame's words enter the edge-in buffer, decoded; a bad frame is discarded and replayed, and when 8 replays in a row have failed the lane group is lost (R300 to R304, R307). -/
def execEdgeFrameReceive (die site : Nat) (crcOk : Bool) (flips : List Nat) (s : State) : Host.Outcome State Fault Refusal :=
  let e := groupAt die site
  let there := if isHub die then decide (site < 24) else isCompute die && siteKind site == some .xTile
  if !there ∨ (dieNeighbour die e.1).isNone then .fault (.noSuchUnit die site)
  else .next (
    let g := grOf s die site
    if s.net.lostGroups.contains (groupKey die e.1 e.2) then s
    else if !crcOk then
      let s := setGr s die site { g with fails := g.fails + 1 }
      if 8 ≤ g.fails then noteGrainFault (loseGroup s die e.1 e.2) die site 0x0406 else telAdd s die site 0x43008 1
    else
      let s := setGr s die site { g with fails := 0 }
      match if isHub die then none else edgePeer die site with
      | none => s
      | some p =>
        let o := grOf s p.1 p.2
        let g := grOf s die site
        let r := frameWords o.xout g.xin (upTo 125) o.edgeOut []
        let room := 128 - g.edgeIn.length
        let got := r.2.take room
        let wait := r.2.drop room ++ r.1
        let s := setGr s p.1 p.2 { o with edgeOut := wait }
        (upTo got.length).foldl (fun s k =>
          let w := nth { word := 0, circuit := 0, job := 0, flip := 0 } k got
          let d := grainDecode s die site { w with flip := w.flip ^^^ nth 0 k flips % 2 ^ 288 } 0x43010
          match d.2 with
          | some v =>
            let g := grOf d.1 die site
            setGr d.1 die site { g with edgeIn := g.edgeIn ++ [{ w with word := v, flip := 0 }] }
          | none => d.1) s)

/-- A site becomes a hole: what its router holds is lost, its near channel with it, the route tables are due for a rewrite, the map shows it, and every job with a circuit or element there is faulted (R28, R219, R308, R328, R544, R545). -/
def makeHole (s : State) (die site : Nat) : State :=
  let s := noteRewrite { s with net := { s.net with holes := s.net.holes ++ [siteKey die site], packets := s.net.packets.filter (fun p => !(p.die == die && p.site == site)) } }
  let s := unitFenced s die 2 site false
  let s := match (upTo 24).find? (fun ch => dpSite ch == some site) with
    | some ch => loseNear s die ch
    | none => s
  noteGrainFault (raiseJobs s 0x0405 (grainJobs (grOf s die site)) die 1 site 0) die site 0x0405

/-- GRAIN_CIRCUIT_HOLE: a grain switch's site becomes a hole in service (R308). -/
def execGrainCircuitHole (die site : Nat) (s : State) : Host.Outcome State Fault Refusal :=
  if !isCompute die ∨ 480 ≤ site then .fault (.noSuchUnit die site)
  else .next (if s.net.holes.contains (siteKey die site) then s else makeHole s die site)

/-- MULL_ROUTER_HOLE: a router's site becomes a hole in service (R328). -/
def execMullRouterHole (die site : Nat) (s : State) : Host.Outcome State Fault Refusal :=
  if !isCompute die ∨ 480 ≤ site then .fault (.noSuchUnit die site)
  else .next (if s.net.holes.contains (siteKey die site) then s else raiseCorrected (makeHole s die site) 0x0501 0 die 1 site 0)

end Sys2Proof.Machine
end

