-- ==== Sys2Proof/Machine/Kettles.lean ====
section
/-! DEFINITION. Sys2Proof/Machine/Kettles.lean: the kettle unit's operations, its waiters and timed runs (R348 to R374, R460 to R462). -/

namespace Sys2Proof.Machine

/-- KOP of a kettle operation (R352). -/
def kopOf (m : Msg) : Nat := bits m.arg.toNat 7 0

/-- REL of a kettle operation (R352). -/
def krelOf (m : Msg) : Bool := bit m.arg.toNat 8

/-- OPERAND of a kettle operation (R352). -/
def koperandOf (m : Msg) : Nat := bits m.arg.toNat 63 32

/-- The largest kettle value (R350). -/
def kettleTop : Nat := 2 ^ 31 - 1

/-- The consumers of a kettle taken in arrival order while the value meets their demand: the value left, those released, those kept (R355). -/
def serveConsumers (k : Nat) : Nat → List Waiter → Nat × List Waiter × List Waiter
  | v, [] => (v, [], [])
  | v, w :: ws =>
    if w.kettle = k ∧ w.observe = false then
      if w.demand ≤ v then
        let r := serveConsumers k (v - w.demand) ws
        (r.1, w :: r.2.1, r.2.2)
      else (v, [], w :: ws)
    else
      let r := serveConsumers k v ws
      (r.1, r.2.1, w :: r.2.2)

/-- Evaluation of a kettle's waiters: observers against the value as the operation left it, then consumers in order (R355). -/
def evaluate (u : KettleUnit) (k : Nat) : KettleUnit × List Waiter :=
  let kt := u.kettle k
  let seen := u.waiters.filter (fun w => w.kettle == k && w.observe && decide (w.demand ≤ kt.value))
  let rest := u.waiters.filter (fun w => !(w.kettle == k && w.observe && decide (w.demand ≤ kt.value)))
  let c := serveConsumers k kt.value rest
  ({ u with kettles := Tab.set k { kt with value := c.1 } u.kettles, waiters := c.2.2 }, seen ++ c.2.1)

/-- RELEASE requests to released waiters, in the order of their release, carrying the value after the evaluation (R356). -/
def sendReleases (s : State) (die k value : Nat) (ws : List Waiter) : State :=
  ws.foldl (fun s w => telAdd (sendReq s (kettleEp die k) w.issuer w.job 4 w.src (kettleArg 5 false value) []) die blockSite 0x218 1) s

/-- The unit takes the next operation number (R354). -/
def countOp (s : State) (die : Nat) : State :=
  let u := ktOf s die
  telAdd (setKt s die { u with opnum := satAdd (2 ^ 64 - 1) u.opnum 1 }) die blockSite 0x210 1

/-- The last-signaller record (R373). -/
def noteSignaller (kt : Kettle) (s : State) (m : Msg) (faulted : Bool) : Kettle :=
  { kt with lastTime := s.now, lastOp := kopOf m, lastSrc := m.src, lastIssuer := m.issuer, lastFaulted := faulted, lastRel := krelOf m }

/-- A kettle operation that ends in ERROR and faults its job (R361, R362). -/
def kettleError (s : State) (m : Msg) (code : Nat) : State :=
  let s := telAdd s m.dst.die blockSite 0x228 1
  let s := noteFault s m.dst.die blockSite code
  raiseContained (errorEvent s m code) code m.job m.dst.die 7 m.dst.index
    (if code = 0x0603 then 0 else koperandOf m + m.issuer % 65536 * 2 ^ 32)

/-- An operation that is not applied: KETTLE_BAD_OP (R362). -/
def badOp (s : State) (m : Msg) : State := kettleError (countOp s m.dst.die) m 0x0603

/-- The waiters evaluated after a change, and the releases sent (R355, R356). -/
def settleKettle (s : State) (die k : Nat) : State :=
  let r := evaluate (ktOf s die) k
  sendReleases (setKt s die r.1) die k (r.1.kettle k).value r.2

/-- The report of a timed run (R462). -/
def timedReport (s : State) (r : Region) (t : Timed) (run : TimedRun) (complete : Option Nat) : State :=
  let bound := (r.sig.map Sig.timedBound).getD 0
  let missed := match complete with
    | some c => decide (run.start + bound < c)
    | none => false
  let late := match complete with
    | some c => if missed then min (c - (run.start + bound)) (2 ^ 32 - 1) else 0
    | none => 0
  let flags := (match complete with
    | some _ => if missed then 2 else 1
    | none => 8) + (if run.thermal then 4 else 0)
  writeDevice s (t.reportAddr + 32 * ((run.k - 1) % t.slots))
    (leBytes 8 run.k ++ leBytes 8 run.start ++ leBytes 8 (complete.getD (2 ^ 64 - 1)) ++ leBytes 4 flags ++ leBytes 4 late)

/-- A region's entry set. -/
def setRegion (s : State) (n : Nat) (r : Region) : State := { s with regions := Tab.set n r s.regions }

/-- Whether any stack of a region is in THROTTLE or HOLD (R459). -/
def regionThermal (s : State) (r : Region) : Bool :=
  r.bounds.dieList.any (fun d => (dieOf s d).nearState == .throttle || (dieOf s d).nearState == .hold)

/-- A run past its deadline reported: the event and the job's count (R461, R472). -/
def missRun (s : State) (region job k : Nat) : State :=
  raise (modJob s job (fun j => { j with counters := Tab.modify 0 0x48 (fun v => telRaise v 1) j.counters }))
    { code := 0x0710, cls := 0, job := job, die := 0x7F, ukind := 0, index := 0, time := s.now, detail := k, region := region, ext := none, defers := false }

/-- Whether a run is past its region's deadline and not yet reported (R461). -/
def runLate (s : State) (r : Region) (x : TimedRun) : Bool := !x.missed && decide (x.start + (r.sig.map Sig.timedBound).getD 0 < s.now)

/-- A SIGNAL of at least 1 on a timed region's START_KETTLE opens a run, on its DONE_KETTLE completes the oldest open one (R461). -/
def timedSignal (s : State) (e : Ep) : State :=
  s.regions.foldl (fun s p =>
    match Tab.find? p.1 s.regions with
    | none => s
    | some r =>
      match r.timed with
      | none => s
      | some t =>
        let s1 :=
          if rankEp s r.job t.startKettle = some e then
            if 16 ≤ t.runs.length then raiseCorrected s 0x0711 r.job e.die 7 e.index 0
            else setRegion s p.1 { r with timed := some { t with next := t.next + 1, runs := t.runs ++ [{ k := t.next, start := s.now, thermal := regionThermal s r, missed := false }] } }
          else s
        if rankEp s r.job t.doneKettle = some e then
          match Tab.find? p.1 s1.regions with
          | some r' =>
            match r'.timed with
            | some t' =>
              match t'.runs with
              | [] => raiseCorrected s1 0x0712 r.job e.die 7 e.index 0
              | run :: rest => setRegion (timedReport (if runLate s1 r' run then missRun s1 p.1 r'.job run.k else s1) r' t' run (some s1.now)) p.1 { r' with timed := some { t' with runs := rest } }
            | none => s1
          | none => s1
        else s1) s

/-- SIGNAL applied: the sum within 0 to 2^31 − 1, the record, the waiters and timed runs (R351, R355, R361, R373, R461). -/
def signalOp (s : State) (m : Msg) : State :=
  let n := toSigned 32 (koperandOf m)
  if n = 0 ∨ koperandOf m = 2 ^ 31 then badOp s m
  else
    let s := countOp s m.dst.die
    let u := ktOf s m.dst.die
    let kt := u.kettle m.dst.index
    let v := (kt.value : Int) + n
    if v < 0 then
      kettleError (setKt s m.dst.die { u with kettles := Tab.set m.dst.index (noteSignaller kt s m true) u.kettles }) m 0x0601
    else if (kettleTop : Int) < v then
      kettleError (setKt s m.dst.die { u with kettles := Tab.set m.dst.index (noteSignaller kt s m true) u.kettles }) m 0x0602
    else
      let s := setKt s m.dst.die { u with kettles := Tab.set m.dst.index { noteSignaller kt s m false with value := v.toNat } u.kettles }
      let s := ack (settleKettle s m.dst.die m.dst.index) m
      if 1 ≤ n then timedSignal s m.dst else s

/-- RESET applied (R351, R355, R373). -/
def resetOp (s : State) (m : Msg) : State :=
  if kettleTop < koperandOf m then badOp s m
  else
    let s := countOp s m.dst.die
    let u := ktOf s m.dst.die
    let s := setKt s m.dst.die { u with kettles := Tab.set m.dst.index { noteSignaller (u.kettle m.dst.index) s m false with value := koperandOf m } u.kettles }
    ack (settleKettle s m.dst.die m.dst.index) m

/-- The lowest free entry of the waiter table. -/
def freeWaiter (ws : List Waiter) (room : Nat) : Nat := ((upTo room).find? (fun k => ws.all (fun w => w.slot != k))).getD 0

/-- A wait: satisfied on arrival, registered, or refused by a full table (R351, R353, R355, R359). -/
def waitOp (s : State) (m : Msg) (observe : Bool) : State :=
  let n := koperandOf m
  if n = 0 ∨ kettleTop < n then badOp s m
  else
    let u := ktOf s m.dst.die
    let kt := u.kettle m.dst.index
    let ready := decide (n ≤ kt.value) && (observe || u.waiters.all (fun w => !(w.kettle == m.dst.index && !w.observe)))
    if ready then
      let s := countOp s m.dst.die
      let u := ktOf s m.dst.die
      let v := if observe then kt.value else kt.value - n
      answer (setKt s m.dst.die { u with kettles := Tab.set m.dst.index { kt with value := v } u.kettles }) m [BitVec.ofNat 256 v]
    else if waiterRoom m.dst.die ≤ u.waiters.length then
      telAdd (refuse s m 1) m.dst.die blockSite 0x220 1
    else
      let s := countOp s m.dst.die
      let u := ktOf s m.dst.die
      let w : Waiter := { slot := freeWaiter u.waiters (u.waiters.length + 1), kettle := m.dst.index, observe := observe, demand := n, src := m.src, issuer := m.issuer, job := m.job, opnum := u.opnum, time := s.now }
      settleKettle (ack (setKt s m.dst.die { u with waiters := u.waiters ++ [w] }) m) m.dst.die m.dst.index

/-- A message whose KOP is the row's; a reserved KOP is a bad operation, and another operation's message is not this event (R351, R362). -/
def kettleRow (s : State) (m : Msg) (kop : Nat) (f : State → State) : Host.Outcome State Fault Refusal :=
  applyMsg s m (fun s => if m.typ ≠ 4 ∨ m.dst.port ≠ portKettle then s else if kopOf m = kop then f s else if kopOf m = 0 ∨ 6 < kopOf m then badOp s m else s)

def execSignal (m : Msg) (s : State) : Host.Outcome State Fault Refusal := kettleRow s m 1 (fun s => signalOp s m)

def execWaitConsume (m : Msg) (s : State) : Host.Outcome State Fault Refusal := kettleRow s m 2 (fun s => waitOp s m false)

def execWaitObserve (m : Msg) (s : State) : Host.Outcome State Fault Refusal := kettleRow s m 3 (fun s => waitOp s m true)

def execReset (m : Msg) (s : State) : Host.Outcome State Fault Refusal := kettleRow s m 4 (fun s => resetOp s m)

/-- Whether an endpoint lies in the scope of a WITHDRAW (R368). -/
def inScope (m : Msg) (job : Nat) (e : Ep) : Bool :=
  let a := m.arg.toNat
  let scope := bits a 23 16
  let sdie := bits a 31 24
  job == m.job && (
    (scope == 0) ||
    (scope == 1 && e.die == sdie && (e.port == portTile || e.port == portStream) && e.site != blockSite
      && decide (bits a 39 32 ≤ e.site % 24) && decide (e.site % 24 ≤ bits a 47 40)) ||
    (scope == 2 && e.die == sdie && e.port == portCore && e.site == blockSite && bit (bits a 63 32) e.index) ||
    (scope == 3 && isCompute e.die && decide (bits a 39 32 ≤ (dieXY e.die).1) && decide ((dieXY e.die).1 ≤ bits a 55 48)
      && decide (bits a 47 40 ≤ (dieXY e.die).2) && decide ((dieXY e.die).2 ≤ bits a 63 56)) ||
    (scope == 4 && e.die == sdie && e.port == portSeq))

/-- Whether every RELEASE sent earlier to the scope of a WITHDRAW has its final reply (R368). -/
def withdrawSettled (s : State) (die : Nat) (m : Msg) : Bool :=
  (niOf s die blockSite).out.all (fun o => !(o.msg.typ == 4 && kopOf o.msg == 5 && inScope m o.msg.job o.msg.dst))

/-- The withdrawals of a die that have settled are acknowledged (R368). -/
def settleWithdraws (s : State) (die : Nat) : State :=
  let u := ktOf s die
  let done := u.withdrawing.filter (fun m => withdrawSettled s die m)
  done.foldl ack (setKt s die { u with withdrawing := u.withdrawing.filter (fun m => !withdrawSettled s die m) })

/-- WITHDRAW: the waiters of its scope are removed unreleased, and the ACK waits for earlier RELEASEs; only H0's die block may send it (R351, R368). -/
def execWithdraw (m : Msg) (s : State) : Host.Outcome State Fault Refusal :=
  onDie m.dst.die (
    if m.typ ≠ 4 ∨ m.dst.port ≠ portKettle ∨ kopOf m ≠ 6 then s
    else if m.src.die ≠ 0x60 ∨ m.src.site ≠ blockSite then
      raiseContained (errorEvent s m 0x0503) 0x0503 m.job m.dst.die 2 0 0
    else if 4 < bits m.arg.toNat 23 16 then badOp s m
    else
      let s := countOp s m.dst.die
      let u := ktOf s m.dst.die
      settleWithdraws (setKt s m.dst.die { u with waiters := u.waiters.filter (fun w => !inScope m w.job w.src), withdrawing := u.withdrawing ++ [m] }) m.dst.die)

/-- A timed run still open after its deadline is reported once (R461). -/
def execTimedDeadlineMiss (region : Nat) (s : State) : Host.Outcome State Fault Refusal :=
  .next (match Tab.find? region s.regions with
    | some r =>
      match r.timed with
      | some t =>
        let s1 := (t.runs.filter (runLate s r)).foldl (fun s x => missRun s region r.job x.k) s
        setRegion s1 region { r with timed := some { t with runs := t.runs.map (fun x => { x with missed := x.missed || runLate s r x }) } }
      | none => s
    | none => s)

end Sys2Proof.Machine
end

