-- ==== Sys2Proof/Machine/Cluster.lean ====
section
/-! DEFINITION. Sys2Proof/Machine/Cluster.lean: cluster memory, program windows, and CORE_MSG (R378 to R380, R385). -/

namespace Sys2Proof.Machine

/-- A control core. -/
def coreOf (s : State) (die core : Nat) : Core := Tab.get coreInitial (coreKey die core) s.cores

/-- A control core replaced. -/
def setCore (s : State) (die core : Nat) (c : Core) : State := { s with cores := Tab.set (coreKey die core) c s.cores }

/-- A control core updated. -/
def modCore (s : State) (die core : Nat) (f : Core → Core) : State := setCore s die core (f (coreOf s die core))

/-- A core's stall ended: a program's M-clock cycles in XWAIT are counted (R402). -/
def endStall (s : State) (die core : Nat) : State :=
  let c := coreOf s die core
  let s := if c.wait ≠ .none ∧ c.st = .running then telAdd s die blockSite 0x310 ((s.now - c.stallFrom) * 3 / 2) else s
  modCore s die core (fun c => { c with wait := .none })

/-- A core's endpoint. -/
def coreEp (die core : Nat) : Ep := { die := die, site := blockSite, port := portCore, index := core }

/-- A window of a program descriptor: base, size, permissions R 1, W 2, X 4 (R385). -/
def progWindow (d : BitVec 1024) (k : Nat) : Nat × Nat × Nat :=
  (fld d.toNat (32 + 16 * k) 4, 2 ^ (fld d.toNat (36 + 16 * k) 1 % 64), fld d.toNat (37 + 16 * k) 1)

/-- The windows that a program descriptor uses (R385). -/
def progWindows (d : BitVec 1024) : List (Nat × Nat × Nat) := (upTo (min 6 (fld d.toNat 1 1))).map (progWindow d)

/-- Whether a signature's record for a die field reaches a die. -/
def dieField (field die : Nat) : Bool := field == die || field == 0x7F

/-- The program descriptor that a signature gives a core, the one that names the die before a broadcast one (R385, R415). -/
def Sig.program (g : Sig) (die core : Nat) : Option (BitVec 1024) :=
  match g.programs.find? (fun p => p.1 == die && p.2.1 == core) with
  | some p => some p.2.2
  | none => (g.programs.find? (fun p => p.1 == 0x7F && p.2.1 == core)).map (fun p => p.2.2)

/-- The windows on a die of a region: of every core its signature assigns, or of one core (R380, R385). -/
def Region.windows (r : Region) (die : Nat) (core : Option Nat) : List (Nat × Nat × Nat) :=
  match r.sig with
  | some g => (upTo 32).flatMap (fun c =>
      if bit (r.coreMask die) c ∧ r.bounds.dieList.contains die ∧ (core = none ∨ core = some c) then ((g.program die c).map progWindows).getD [] else [])
  | none => []

/-- The windows that an index of the CORE port admits for a job (R380). -/
def jobWindows (s : State) (die index job : Nat) : List (Nat × Nat × Nat) :=
  List.flatMap (fun (e : Nat × Region) => if e.2.job = job then e.2.windows die (if index = 0xFFFF then none else some index) else []) s.regions

/-- Whether a range lies in one window with a permission. -/
def inWindow (ws : List (Nat × Nat × Nat)) (off n perm : Nat) : Bool :=
  ws.any (fun w => decide (w.1 ≤ off) && decide (off + n ≤ w.1 + w.2.1) && w.2.2 &&& perm == perm)

/-- The job in whose window a cluster-memory word lies, 0 when none (R379). -/
def clusterOwner (s : State) (die off : Nat) : Nat :=
  match List.find? (fun (e : Nat × Region) => inWindow (e.2.windows die none) off 32 0) s.regions with
  | some e => e.2.job
  | none => 0

/-- A cluster-memory word read: corrected ones are written back and counted, an uncorrectable one raises CC_UNCORRECTABLE (R379). -/
def clusterWord (s : State) (die off : Nat) : State × Option Word :=
  let r := decodeAt s (clusterAddr die (off / 32 * 32))
  match r.2.1 with
  | some w => (if r.2.2 then telAdd r.1 die blockSite 0x318 1 else r.1, some w)
  | none => (raiseContained r.1 0x0130 (clusterOwner s die off) die 2 0 (clusterAddr die (off / 32 * 32)), none)

/-- Bytes read from cluster memory, none where a word is uncorrectable (R379). -/
def clusterRead (s : State) (die off n : Nat) : State × Option Nat :=
  let r := clusterWord s die off
  let a := off % 32
  match r.2 with
  | none => (r.1, none)
  | some w =>
    if a + n ≤ 32 then (r.1, some (fld w.toNat a n))
    else
      let q := clusterWord r.1 die (off + n - 1)
      (q.1, q.2.map (fun v => fld (w.toNat + v.toNat * 2 ^ 256) a n))

/-- Words read one after another. -/
def clusterWords : Nat → State → Nat → Nat → List Word → State × Option (List Word)
  | 0, s, _, _, acc => (s, some acc)
  | n + 1, s, die, off, acc =>
    match clusterWord s die off with
    | (s, none) => (s, none)
    | (s, some w) => clusterWords n s die (off + 32) (acc ++ [w])

/-- The reservations of other sources on the lines that a store touches are cleared (R379). -/
def clearResv (s : State) (die : Nat) (source : Option Nat) (off n : Nat) : State :=
  { s with cores := s.cores.map (fun (e : Nat × Core) =>
      match e.2.resv with
      | some l => if e.1 / 64 = die ∧ some (e.1 % 64) ≠ source ∧ off / 64 ≤ l ∧ l ≤ (off + n - 1) / 64 then (e.1, { e.2 with resv := none }) else e
      | none => e) }

/-- Bytes stored in cluster memory: read, merged and written back; false where the word read is uncorrectable (R378, R379). -/
def clusterWrite (s : State) (die : Nat) (source : Option Nat) (off n v : Nat) : State × Bool :=
  let r := clusterRead s die off n
  match r.2 with
  | none => (r.1, false)
  | some _ => (storeBytes (clearResv r.1 die source off n) (clusterAddr die off) (leBytes n v), true)

/-- Whole words written in cluster memory. -/
def clusterPut (s : State) (die : Nat) (source : Option Nat) (off : Nat) (ws : List Word) : State :=
  storeWords (clearResv s die source off (32 * ws.length)) (clusterAddr die off) ws

/-- Fields of CORE_MSG's ARG (R380). -/
def cmOp (m : Msg) : Nat := bits m.arg.toNat 7 0
def cmCount (m : Msg) : Nat := bits m.arg.toNat 15 8
def cmByteOff (m : Msg) : Nat := bits m.arg.toNat 23 16
def cmBytes (m : Msg) : Nat := bits m.arg.toNat 31 24
def cmOffset (m : Msg) : Nat := bits m.arg.toNat 63 32

/-- Whether a CORE_MSG breaks its layout (R380). -/
def cmMalformed (m : Msg) : Bool :=
  cmOffset m % 32 != 0 || !([1, 2, 3].contains (cmOp m)) ||
  (if cmOp m = 3 then cmCount m != 1 || !([1, 2, 4, 8].contains (cmBytes m)) || cmByteOff m % max 1 (cmBytes m) != 0 || decide (32 < cmByteOff m + cmBytes m) || m.data.length != 1
  else decide (cmCount m < 1) || decide (16 < cmCount m) || cmByteOff m != 0 || cmBytes m != 0 || (cmOp m == 2 && m.data.length != cmCount m))

/-- Whether every word that a CORE_MSG reaches lies in a window that its index admits, with a permission (R380, R385). -/
def cmAdmitted (s : State) (m : Msg) (perm : Nat) : Bool :=
  (upTo (if cmOp m = 3 then 1 else cmCount m)).all (fun k => inWindow (jobWindows s m.dst.die m.dst.index m.job) (cmOffset m + 32 * k) 32 perm)

/-- A CORE_MSG at its CORE port: for a job, every word must lie in a window that the index admits, else ADDR_NOT_OWNED (R231, R380). -/
def coreMsgRow (m : Msg) (op : Nat) (u : Upset) (s : State) (f : State → State) : Host.Outcome State Fault Refusal :=
  applyMsg s m (fun s =>
    let off := if cmOp m = 3 then cmOffset m + cmByteOff m else cmOffset m
    let n := if cmOp m = 3 then cmBytes m else 32 * cmCount m
    if m.dst.site ≠ blockSite ∨ m.dst.port ≠ portCore ∨ !(cmOp m == op || (op == 1 && (cmOp m == 0 || decide (3 < cmOp m)))) ∨ m.typ ≠ 8 then s
    else if cmMalformed m then errorStatus s m 0x0102
    else if clusterSize m.dst.die < off + n then
      (if m.job = 0 then errorStatus s m 0x0103
      else raiseContained (errorEvent s m 0x0221) 0x0221 m.job m.dst.die 2 0 (clusterAddr m.dst.die (cmOffset m)))
    else if m.job ≠ 0 ∧ !cmAdmitted s m (if op = 1 then 1 else 2) then
      raiseContained (errorEvent s m 0x0221) 0x0221 m.job m.dst.die 2 0 (clusterAddr m.dst.die (cmOffset m))
    else f { s with flips := addUpsets s.flips u })

/-- CORE_MSG READ: the words are answered with DATA (R380). -/
def execCoreMsgRead (m : Msg) (u : Upset) (s : State) : Host.Outcome State Fault Refusal :=
  coreMsgRow m 1 u s (fun s =>
    match clusterWords (cmCount m) s m.dst.die (cmOffset m) [] with
    | (s, some ws) => answer s m ws
    | (s, none) => errorEvent s m 0x0130)

/-- CORE_MSG WRITE: COUNT words are written (R380). -/
def execCoreMsgWrite (m : Msg) (s : State) : Host.Outcome State Fault Refusal :=
  coreMsgRow m 2 [] s (fun s => ack (clusterPut s m.dst.die none (cmOffset m) m.data) m)

/-- CORE_MSG WRITE_NARROW: the bytes of the flit's own positions are merged into their word (R378, R380). -/
def execCoreMsgWriteNarrow (m : Msg) (s : State) : Host.Outcome State Fault Refusal :=
  coreMsgRow m 3 [] s (fun s =>
    match clusterWrite s m.dst.die none (cmOffset m + cmByteOff m) (cmBytes m) (fld ((m.data.headD 0).toNat) (cmByteOff m) (cmBytes m)) with
    | (s, true) => ack s m
    | (s, false) => errorEvent s m 0x0130)

end Sys2Proof.Machine
end

