-- ==== Sys2Proof/Machine/Riscv.lean ====
section
/-! DEFINITION. Sys2Proof/Machine/Riscv.lean: the base instruction set of the control cores, RV64IMAFDC with Zicsr and Zifencei as the RISC-V specifications define it (R375; log entry 15). -/

namespace Sys2Proof.Machine

/-- What the next instruction of a core asks for. -/
inductive CoreAct where
  /-- It retires with this state of its core. -/
  | retire (c : Core)
  | load (addr size rd : Nat) (signed fp : Bool)
  | store (addr size value : Nat)
  /-- LR, SC and AMO by funct5. -/
  | amo (op addr size rd value : Nat)
  | exc (cause tval : Nat)
  | ecall
  /-- An Xenh instruction: opcode and funct3, funct7 as one number, rd, values of rs1 and rs2. -/
  | xenh (code rd : Nat) (v1 v2 : BitVec 64)
  deriving DecidableEq, Repr

/-- Encoders of the 32-bit formats, to which compressed instructions expand. -/
def encR (f7 rs2 rs1 f3 rd op : Nat) : Nat := f7 * 2 ^ 25 + rs2 * 2 ^ 20 + rs1 * 2 ^ 15 + f3 * 2 ^ 12 + rd * 2 ^ 7 + op
def encI (imm rs1 f3 rd op : Nat) : Nat := imm % 4096 * 2 ^ 20 + rs1 * 2 ^ 15 + f3 * 2 ^ 12 + rd * 2 ^ 7 + op
def encS (imm rs2 rs1 f3 op : Nat) : Nat := bits imm 11 5 * 2 ^ 25 + rs2 * 2 ^ 20 + rs1 * 2 ^ 15 + f3 * 2 ^ 12 + bits imm 4 0 * 2 ^ 7 + op
def encB (imm rs2 rs1 f3 : Nat) : Nat :=
  bits imm 12 12 * 2 ^ 31 + bits imm 10 5 * 2 ^ 25 + rs2 * 2 ^ 20 + rs1 * 2 ^ 15 + f3 * 2 ^ 12 + bits imm 4 1 * 2 ^ 8 + bits imm 11 11 * 2 ^ 7 + 0x63
def encJ (imm rd : Nat) : Nat :=
  bits imm 20 20 * 2 ^ 31 + bits imm 10 1 * 2 ^ 21 + bits imm 11 11 * 2 ^ 20 + bits imm 19 12 * 2 ^ 12 + rd * 2 ^ 7 + 0x6F

/-- A field sign-extended from a width to another, as a pattern. -/
def sx (w v n : Nat) : Nat := ofSigned v (toSigned w n)

/-- A compressed instruction of quadrant 0 expanded, none where it is reserved. -/
def expandC0 (h : Nat) : Option Nat :=
  let rd := 8 + bits h 4 2
  let rs := 8 + bits h 9 7
  let d := bits h 12 10 * 8 + bits h 6 5 * 64
  let w := bits h 12 10 * 8 + bits h 6 6 * 4 + bits h 5 5 * 64
  let sp := bits h 12 11 * 16 + bits h 10 7 * 64 + bits h 6 6 * 4 + bits h 5 5 * 8
  match bits h 15 13 with
  | 0 => if sp = 0 then none else some (encI sp 2 0 rd 0x13)
  | 1 => some (encI d rs 3 rd 0x07)
  | 2 => some (encI w rs 2 rd 0x03)
  | 3 => some (encI d rs 3 rd 0x03)
  | 5 => some (encS d rd rs 3 0x27)
  | 6 => some (encS w rd rs 2 0x23)
  | 7 => some (encS d rd rs 3 0x23)
  | _ => none

/-- A compressed instruction of quadrant 1 expanded. -/
def expandC1 (h : Nat) : Option Nat :=
  let rd := bits h 11 7
  let imm6 := bits h 12 12 * 32 + bits h 6 2
  let i := sx 6 12 imm6
  let rs := 8 + bits h 9 7
  let rt := 8 + bits h 4 2
  let j := sx 12 21 (bits h 12 12 * 2048 + bits h 11 11 * 16 + bits h 10 9 * 256 + bits h 8 8 * 1024 + bits h 7 7 * 64 + bits h 6 6 * 128 + bits h 5 3 * 2 + bits h 2 2 * 32)
  let b := sx 9 13 (bits h 12 12 * 256 + bits h 11 10 * 8 + bits h 6 5 * 64 + bits h 4 3 * 2 + bits h 2 2 * 32)
  let sp := sx 10 12 (bits h 12 12 * 512 + bits h 6 6 * 16 + bits h 5 5 * 64 + bits h 4 3 * 128 + bits h 2 2 * 32)
  match bits h 15 13 with
  | 0 => some (encI i rd 0 rd 0x13)
  | 1 => if rd = 0 then none else some (encI i rd 0 rd 0x1B)
  | 2 => some (encI i 0 0 rd 0x13)
  | 3 =>
    if imm6 = 0 then none
    else if rd = 2 then some (encI sp 2 0 2 0x13)
    else some (sx 6 20 imm6 * 4096 + rd * 128 + 0x37)
  | 4 =>
    (match bits h 11 10 with
    | 0 => some (encI imm6 rs 5 rs 0x13)
    | 1 => some (encI (1024 + imm6) rs 5 rs 0x13)
    | 2 => some (encI i rs 7 rs 0x13)
    | _ =>
      match bits h 12 12 * 4 + bits h 6 5 with
      | 0 => some (encR 32 rt rs 0 rs 0x33)
      | 1 => some (encR 0 rt rs 4 rs 0x33)
      | 2 => some (encR 0 rt rs 6 rs 0x33)
      | 3 => some (encR 0 rt rs 7 rs 0x33)
      | 4 => some (encR 32 rt rs 0 rs 0x3B)
      | 5 => some (encR 0 rt rs 0 rs 0x3B)
      | _ => none)
  | 5 => some (encJ j 0)
  | 6 => some (encB b 0 rs 0)
  | _ => some (encB b 0 rs 1)

/-- A compressed instruction of quadrant 2 expanded. -/
def expandC2 (h : Nat) : Option Nat :=
  let rd := bits h 11 7
  let rt := bits h 6 2
  let d := bits h 12 12 * 32 + bits h 6 5 * 8 + bits h 4 2 * 64
  let w := bits h 12 12 * 32 + bits h 6 4 * 4 + bits h 3 2 * 64
  let sd := bits h 12 10 * 8 + bits h 9 7 * 64
  let sw := bits h 12 9 * 4 + bits h 8 7 * 64
  match bits h 15 13 with
  | 0 => some (encI (bits h 12 12 * 32 + rt) rd 1 rd 0x13)
  | 1 => some (encI d 2 3 rd 0x07)
  | 2 => if rd = 0 then none else some (encI w 2 2 rd 0x03)
  | 3 => if rd = 0 then none else some (encI d 2 3 rd 0x03)
  | 4 =>
    if bits h 12 12 = 0 then
      (if rt = 0 then (if rd = 0 then none else some (encI 0 rd 0 0 0x67)) else some (encR 0 rt 0 0 rd 0x33))
    else if rt = 0 then (if rd = 0 then some 0x00100073 else some (encI 0 rd 0 1 0x67))
    else some (encR 0 rt rd 0 rd 0x33)
  | 5 => some (encS sd rt 2 3 0x27)
  | 6 => some (encS sw rt 2 2 0x23)
  | _ => some (encS sd rt 2 3 0x23)

/-- A compressed instruction expanded. -/
def expandC (h : Nat) : Option Nat :=
  if h % 4 = 0 then expandC0 h else if h % 4 = 1 then expandC1 h else expandC2 h

/-- A register read and written, register 0 being hard-wired. -/
def Core.get (c : Core) (r : Nat) : BitVec 64 := if r = 0 then 0 else nth 0 r c.x
def Core.put (c : Core) (r : Nat) (v : BitVec 64) : Core := if r = 0 then c else { c with x := c.x.set r v }
def Core.getF (c : Core) (r : Nat) : BitVec 64 := nth 0 r c.f
def Core.csr (c : Core) (a : Nat) : Nat := Tab.get 0 a c.csrs
def Core.setCsr (c : Core) (a v : Nat) : Core := { c with csrs := Tab.set a (v % 2 ^ 64) c.csrs }
/-- A write of a floating-point register makes the floating-point state dirty (mstatus.FS). -/
def Core.putF (c : Core) (r : Nat) (v : BitVec 64) : Core := ({ c with f := c.f.set r v }).setCsr 0x300 (setBits (c.csr 0x300) 14 13 3)

/-- A number as a 64-bit register value. -/
def x64 (n : Nat) : BitVec 64 := BitVec.ofNat 64 n

/-- The low 32 bits sign-extended. -/
def sw32 (v : BitVec 64) : BitVec 64 := x64 (sx 32 64 v.toNat)

/-- The integer operations by funct3 and the alternate bit. -/
def aluOp (f3 : Nat) (alt : Bool) (a b : BitVec 64) : BitVec 64 :=
  match f3 with
  | 0 => if alt then a - b else a + b
  | 1 => a <<< (b.toNat % 64)
  | 2 => if a.slt b then 1 else 0
  | 3 => if a.ult b then 1 else 0
  | 4 => a ^^^ b
  | 5 => if alt then a.sshiftRight (b.toNat % 64) else a >>> (b.toNat % 64)
  | 6 => a ||| b
  | _ => a &&& b

/-- The 32-bit integer operations, none where the encoding is reserved. -/
def aluOpW (f3 : Nat) (alt : Bool) (a b : BitVec 64) : Option (BitVec 64) :=
  let u := a.toNat % 2 ^ 32
  let k := b.toNat % 32
  match f3 with
  | 0 => some (sw32 (if alt then a - b else a + b))
  | 1 => some (sw32 (x64 (u * 2 ^ k)))
  | 5 => some (if alt then BitVec.ofInt 64 (toSigned 32 u / (2 ^ k : Nat)) else sw32 (x64 (u / 2 ^ k)))
  | _ => none

/-- The M extension on values of a width: MUL, MULH, MULHSU, MULHU, DIV, DIVU, REM, REMU. -/
def mulOp (w f3 : Nat) (a b : Nat) : Nat :=
  let sa := toSigned w a
  let sb := toSigned w b
  let m := 2 ^ w
  match f3 with
  | 0 => a * b % m
  | 1 => ofSigned (2 * w) (sa * sb) / m
  | 2 => ofSigned (2 * w) (sa * (b % m : Nat)) / m
  | 3 => a % m * (b % m) / m
  | 4 => if b % m = 0 then m - 1 else ofSigned w (Int.tdiv sa sb)
  | 5 => if b % m = 0 then m - 1 else a % m / (b % m)
  | 6 => if b % m = 0 then a % m else ofSigned w (Int.tmod sa sb)
  | _ => if b % m = 0 then a % m else a % m % (b % m)

/-- The AMO operations by funct5 on values of a width. -/
def amoOp (w op : Nat) (old v : Nat) : Nat :=
  let o := old % 2 ^ w
  let x := v % 2 ^ w
  match op with
  | 0x00 => (o + x) % 2 ^ w
  | 0x01 => x
  | 0x04 => o ^^^ x
  | 0x08 => o ||| x
  | 0x0C => o &&& x
  | 0x10 => if toSigned w o ≤ toSigned w x then o else x
  | 0x14 => if toSigned w o ≤ toSigned w x then x else o
  | 0x18 => min o x
  | _ => max o x

/-- Whether a funct5 names an LR, SC or AMO. -/
def amoKnown (op : Nat) : Bool := [0, 1, 2, 3, 4, 8, 0xC, 0x10, 0x14, 0x18, 0x1C].contains op

/-- The branch conditions by funct3, none where reserved. -/
def branchTaken (f3 : Nat) (a b : BitVec 64) : Option Bool :=
  match f3 with
  | 0 => some (a == b)
  | 1 => some (a != b)
  | 4 => some (a.slt b)
  | 5 => some (!a.slt b)
  | 6 => some (a.ult b)
  | 7 => some (!a.ult b)
  | _ => none

/-- The rounding direction of an rm field, DYN reading frm. -/
def rmDir (c : Core) (rm : Nat) : Option Rnd :=
  match (if rm = 7 then bits (c.csr 3) 7 5 else rm) with
  | 0 => some .rne
  | 1 => some .rtz
  | 2 => some .rdn
  | 3 => some .rup
  | 4 => some .rna
  | _ => none

/-- A floating-point register read in a format, an unboxed single reading as the canonical NaN. -/
def Core.fbits (c : Core) (f : NumFmt) (r : Nat) : Nat :=
  let v := (c.getF r).toNat
  if f = .fp64 then v else if v / 2 ^ 32 = 2 ^ 32 - 1 then v % 2 ^ 32 else canonNan .fp32

/-- A result in a format as a register value, singles NaN-boxed. -/
def boxF (f : NumFmt) (b : Nat) : BitVec 64 := if f = .fp64 then x64 b else x64 (b % 2 ^ 32 + (2 ^ 32 - 1) * 2 ^ 32)

/-- Exception flags accrued. -/
def Core.accrue (c : Core) (flags : Nat) : Core := c.setCsr 3 (c.csr 3 ||| flags % 32)

/-- The pc advanced and the instruction retired. -/
def Core.next (c : Core) (len : Nat) : Core := { c with pc := c.pc + x64 len }

/-- A floating-point result written with its flags. -/
def Core.fdone (c : Core) (len rd : Nat) (f : NumFmt) (r : Nat × Nat) : CoreAct := .retire (((c.putF rd (boxF f r.1)).accrue r.2).next len)

/-- An integer result of a floating-point instruction. -/
def Core.idone (c : Core) (len rd : Nat) (v : BitVec 64) (flags : Nat) : CoreAct := .retire (((c.put rd v).accrue flags).next len)

/-- A value rounded to a format with its flags. -/
def fround (f : NumFmt) (rm : Rnd) (v : Val) (nv : Nat) : Nat × Nat :=
  let r := roundTo f rm false v
  (r.bits, if v.isNan then nv else r.flags ||| nv)

/-- Addition, multiplication, division, square root and fused multiply-add (R59, R60). -/
def fAdd (f : NumFmt) (rm : Rnd) (a b : Val) : Nat × Nat := let r := Val.add rm a b; fround f rm r.1 (if r.2 then 16 else 0)
def fMul (f : NumFmt) (rm : Rnd) (a b : Val) : Nat × Nat := let r := Val.mul a b; fround f rm r.1 (if r.2 then 16 else 0)
def fDiv (f : NumFmt) (rm : Rnd) (a b : Val) : Nat × Nat := let r := Val.div a b; fround f rm r.1 r.2
def fSqrt (f : NumFmt) (rm : Rnd) (a : Val) : Nat × Nat := let r := Val.sqrt a; fround f rm r.1 r.2
def fMadd (f : NumFmt) (rm : Rnd) (a b c : Val) : Nat × Nat :=
  let p := Val.mul a b
  let r := Val.add rm p.1 c
  fround f rm r.1 (if p.2 || r.2 then 16 else 0)

/-- Whether a value is a signalling NaN. -/
def Val.isSnan : Val → Bool
  | .nan s => s
  | _ => false

/-- FMIN and FMAX: a lone NaN gives way, −0 is less than +0. -/
def fMinMax (f : NumFmt) (max : Bool) (x y : Nat) : Nat × Nat :=
  let a := unpack f x
  let b := unpack f y
  let flags := if a.isSnan || b.isSnan then 16 else 0
  if a.isNan && b.isNan then (canonNan f, flags)
  else if a.isNan then (y, flags)
  else if b.isNan then (x, flags)
  else
    let less := Val.lt a b || (Val.eq a b && a.sign && !b.sign)
    (if less != max then x else y, flags)

/-- FEQ, FLT and FLE by funct3 2, 1, 0. -/
def fCmp (f3 : Nat) (a b : Val) : BitVec 64 × Nat :=
  let nan := a.isNan || b.isNan
  let snan := a.isSnan || b.isSnan
  match f3 with
  | 2 => (if Val.eq a b then 1 else 0, if snan then 16 else 0)
  | 1 => (if Val.lt a b then 1 else 0, if nan then 16 else 0)
  | _ => (if Val.lt a b || Val.eq a b then 1 else 0, if nan then 16 else 0)

/-- FCLASS. -/
def fClass (f : NumFmt) (x : Nat) : Nat :=
  match unpack f x with
  | .nan s => if s then 2 ^ 8 else 2 ^ 9
  | .inf n => if n then 1 else 2 ^ 7
  | .fin n m e =>
    if m = 0 then (if n then 2 ^ 3 else 2 ^ 4)
    else if magExp m e < fmtEmin f then (if n then 2 ^ 2 else 2 ^ 5)
    else if n then 2 else 2 ^ 6

/-- A value converted to an integer of a width, out of range giving the nearest bound and NV. -/
def fToInt (w : Nat) (signed : Bool) (rm : Rnd) (v : Val) : Nat × Nat :=
  let lo : Int := if signed then -((2 ^ (w - 1) : Nat) : Int) else 0
  let hi : Int := ((if signed then 2 ^ (w - 1) else 2 ^ w : Nat) : Int) - 1
  match v with
  | .nan _ => (ofSigned w hi, 16)
  | .inf n => (ofSigned w (if n then lo else hi), 16)
  | .fin n m e =>
    let r := if m = 0 then (0, false) else if 200 < magExp m e then (2 ^ 100, false) else roundSteps rm n m e 0
    let i : Int := if n then -(r.1 : Int) else (r.1 : Int)
    if i < lo then (ofSigned w lo, 16) else if hi < i then (ofSigned w hi, 16) else (ofSigned w i, if r.2 then 1 else 0)

/-- An integer of a width as a value. -/
def intVal (w : Nat) (signed : Bool) (n : Nat) : Val :=
  let i : Int := if signed then toSigned w n else (n % 2 ^ w : Nat)
  .fin (decide (i < 0)) i.natAbs 0

/-- The OP-FP instructions, none where the encoding is reserved. -/
def opFp (c : Core) (len w : Nat) : Option CoreAct :=
  let rd := bits w 11 7
  let r1 := bits w 19 15
  let r2 := bits w 24 20
  let f3 := bits w 14 12
  let fmt? : Option NumFmt := if bits w 26 25 = 0 then some .fp32 else if bits w 26 25 = 1 then some .fp64 else none
  match fmt? with
  | none => none
  | some f =>
    let x := c.fbits f r1
    let y := c.fbits f r2
    let a := unpack f x
    let b := unpack f y
    let wd := fmtWidth f
    match bits w 31 27 with
    | 0x00 => (rmDir c f3).map (fun rm => c.fdone len rd f (fAdd f rm a b))
    | 0x01 => (rmDir c f3).map (fun rm => c.fdone len rd f (fAdd f rm a b.negate))
    | 0x02 => (rmDir c f3).map (fun rm => c.fdone len rd f (fMul f rm a b))
    | 0x03 => (rmDir c f3).map (fun rm => c.fdone len rd f (fDiv f rm a b))
    | 0x0B => if r2 = 0 then (rmDir c f3).map (fun rm => c.fdone len rd f (fSqrt f rm a)) else none
    | 0x04 =>
      let s := bits y (wd - 1) (wd - 1)
      let t := bits x (wd - 1) (wd - 1)
      if f3 = 0 then some (c.fdone len rd f (setBits x (wd - 1) (wd - 1) s, 0))
      else if f3 = 1 then some (c.fdone len rd f (setBits x (wd - 1) (wd - 1) (1 - s), 0))
      else if f3 = 2 then some (c.fdone len rd f (setBits x (wd - 1) (wd - 1) ((s + t) % 2), 0))
      else none
    | 0x05 => if f3 < 2 then some (c.fdone len rd f (fMinMax f (f3 == 1) x y)) else none
    | 0x14 => if f3 < 3 then let r := fCmp f3 a b; some (c.idone len rd r.1 r.2) else none
    | 0x08 =>
      let src : NumFmt := if f = .fp32 then .fp64 else .fp32
      if r2 = (if f = .fp32 then 1 else 0) then (rmDir c f3).map (fun rm =>
        let v := unpack src (c.fbits src r1)
        c.fdone len rd f (fround f rm v (if v.isSnan then 16 else 0))) else none
    | 0x18 =>
      if r2 < 4 then (rmDir c f3).map (fun rm =>
        let wi := if r2 < 2 then 32 else 64
        let r := fToInt wi (r2 % 2 == 0) rm a
        c.idone len rd (if wi = 32 then sw32 (x64 r.1) else x64 r.1) r.2) else none
    | 0x1A =>
      if r2 < 4 then (rmDir c f3).map (fun rm =>
        c.fdone len rd f (fround f rm (intVal (if r2 < 2 then 32 else 64) (r2 % 2 == 0) (c.get r1).toNat) 0)) else none
    | 0x1C =>
      if r2 ≠ 0 then none
      else if f3 = 0 then some (c.idone len rd (if f = .fp32 then sw32 (c.getF r1) else c.getF r1) 0)
      else if f3 = 1 then some (c.idone len rd (x64 (fClass f x)) 0)
      else none
    | 0x1E => if r2 = 0 ∧ f3 = 0 then some (c.fdone len rd f ((c.get r1).toNat, 0)) else none
    | _ => none

/-- Fields of mstatus that hold what is written: MIE, MPIE, MPP, FS, MPRV, TW; SD follows FS. -/
def mstatusOf (v : Nat) : Nat :=
  let mpp := if bits v 12 11 = 3 then 3 else 0
  let n := (v &&& 0x226088) ||| (mpp * 2 ^ 11)
  n + 2 ^ 33 + (if bits n 14 13 = 3 then 2 ^ 63 else 0)

/-- mip as it reads: MSIP, MTIP and MEIP (R388, R389). -/
def Core.mip (c : Core) (now : Nat) : Nat :=
  (if c.msip then 8 else 0) + (if c.mtimecmp ≤ now then 128 else 0) + (if c.meip then 2048 else 0)

/-- The M-clock cycles since the package timestamp's start, 3 in 2 ns (R9, R10). -/
def mCycles (now : Nat) : Nat := now * 3 / 2

/-- A CSR's value as it reads, none where no such CSR exists. -/
def csrRead (c : Core) (die core now a : Nat) : Option Nat :=
  match a with
  | 0x001 => some (bits (c.csr 3) 4 0)
  | 0x002 => some (bits (c.csr 3) 7 5)
  | 0x003 => some (bits (c.csr 3) 7 0)
  | 0x300 => some (mstatusOf (c.csr 0x300))
  | 0x301 => some (2 * 2 ^ 62 + 0x10112D)
  | 0x304 => some (c.csr 0x304 &&& 0x888)
  | 0x305 => some (c.csr 0x305)
  | 0x306 => some (c.csr 0x306)
  | 0x30A => some 0
  | 0x320 => some (c.csr 0x320 &&& 5)
  | 0x340 => some (c.csr 0x340)
  | 0x341 => some (c.csr 0x341)
  | 0x342 => some (c.csr 0x342)
  | 0x343 => some (c.csr 0x343)
  | 0x344 => some (c.mip now)
  | 0x3A0 => some (leNat ((c.pmpcfg.take 8).map (BitVec.ofNat 8)))
  | 0x3A2 => some (leNat ((c.pmpcfg.drop 8).map (BitVec.ofNat 8)))
  | 0xB00 => some ((mCycles now + c.cycleOff) % 2 ^ 64)
  | 0xB02 => some (c.instret % 2 ^ 64)
  | 0xC00 => some ((mCycles now + c.cycleOff) % 2 ^ 64)
  | 0xC01 => some (now % 2 ^ 64)
  | 0xC02 => some (c.instret % 2 ^ 64)
  | 0xCC0 => some c.xenhid
  | 0xF11 => some 0
  | 0xF12 => some 0
  | 0xF13 => some 0
  | 0xF14 => some (die * 64 + core)
  | 0xF15 => some 0
  | _ => if 0x3B0 ≤ a ∧ a ≤ 0x3BF then some (nth 0 (a - 0x3B0) c.pmpaddr)
    else if (0xB03 ≤ a ∧ a ≤ 0xB1F) ∨ (0x323 ≤ a ∧ a ≤ 0x33F) ∨ (0xC03 ≤ a ∧ a ≤ 0xC1F) then some 0 else none

/-- PMP entries written through a configuration CSR, locked ones kept and W without R dropped. -/
def pmpCfgWrite (c : Core) (base v : Nat) : Core :=
  { c with pmpcfg := (upTo 16).map (fun k =>
      let old := nth 0 k c.pmpcfg
      if base ≤ k ∧ k < base + 8 ∧ !bit old 7 then
        let b := v / 2 ^ (8 * (k - base)) % 256
        if bits b 1 0 = 2 then b &&& 0x9C else b &&& 0x9F
      else old) }

/-- A CSR written. -/
def csrWrite (c : Core) (now a v : Nat) : Core :=
  match a with
  | 0x001 => (c.setCsr 3 (setBits (c.csr 3) 4 0 v)).setCsr 0x300 (setBits (c.csr 0x300) 14 13 3)
  | 0x002 => (c.setCsr 3 (setBits (c.csr 3) 7 5 v)).setCsr 0x300 (setBits (c.csr 0x300) 14 13 3)
  | 0x003 => (c.setCsr 3 (v % 256)).setCsr 0x300 (setBits (c.csr 0x300) 14 13 3)
  | 0x300 => c.setCsr 0x300 (mstatusOf v)
  | 0x304 => c.setCsr 0x304 (v &&& 0x888)
  | 0x305 => c.setCsr 0x305 (if bits v 1 0 < 2 then v else v - v % 4)
  | 0x306 => c.setCsr 0x306 (v % 2 ^ 32)
  | 0x320 => c.setCsr 0x320 (v &&& 5)
  | 0x340 => c.setCsr 0x340 v
  | 0x341 => c.setCsr 0x341 (v - v % 2)
  | 0x342 => c.setCsr 0x342 v
  | 0x343 => c.setCsr 0x343 v
  | 0x3A0 => pmpCfgWrite c 0 v
  | 0x3A2 => pmpCfgWrite c 8 v
  | 0xB00 => { c with cycleOff := (v + 2 ^ 64 - mCycles now % 2 ^ 64) % 2 ^ 64 }
  | 0xB02 => { c with instret := v % 2 ^ 64 }
  | _ =>
    if 0x3B0 ≤ a ∧ a ≤ 0x3BF then
      let k := a - 0x3B0
      let topLocked := bit (nth 0 (k + 1) c.pmpcfg) 7 && bits (nth 0 (k + 1) c.pmpcfg) 4 3 == 1
      if bit (nth 0 k c.pmpcfg) 7 || topLocked then c else { c with pmpaddr := c.pmpaddr.set k (v % 2 ^ 54) }
    else c

/-- The CSR instructions: privilege, read-only and floating-point-off checks, then the exchange. -/
def csrOp (c : Core) (die core now len w : Nat) : Option CoreAct :=
  let a := bits w 31 20
  let f3 := bits w 14 12
  let r1 := bits w 19 15
  let src := if 4 ≤ f3 then r1 else (c.get r1).toNat
  let writes := f3 % 4 == 1 || r1 != 0
  if bits a 9 8 ≠ 0 ∧ !c.mmode then none
  else if writes && bits a 11 10 == 3 then none
  else if a < 4 ∧ bits (c.csr 0x300) 14 13 = 0 then none
  else if 0xC00 ≤ a ∧ a ≤ 0xC1F ∧ !c.mmode ∧ !bit (c.csr 0x306) (a - 0xC00) then none
  else match csrRead c die core now a with
    | none => none
    | some old =>
      let v := match f3 % 4 with
        | 1 => src
        | 2 => old ||| src
        | _ => old - (old &&& src)
      let c' := if writes then csrWrite c now a v else c
      some (.retire ((c'.put (bits w 11 7) (x64 old)).next len))

/-- The Xenh code of an opcode, funct3 and funct7, none where R390 lists none: opcode bit 5 × 2^10 + funct3 × 2^7 + funct7. -/
def xenhCode (w : Nat) : Option Nat :=
  let f3 := bits w 14 12
  let f7 := bits w 31 25
  let rd := bits w 11 7
  let r1 := bits w 19 15
  let r2 := bits w 24 20
  let code := f3 * 128 + f7
  if bits w 6 0 = 0x0B then
    match f3, f7 with
    | 0, 0 => some code
    | 0, 1 => some code
    | 1, 0 => some code
    | 1, 1 => if r2 = 0 then some code else none
    | 2, 0 => if r2 = 0 then some code else none
    | 2, 1 => if r2 = 0 then some code else none
    | 2, 2 => some code
    | 2, 3 => some code
    | _, _ => none
  else
    match f3, f7 with
    | 0, 0 => if rd = 0 then some (1024 + code) else none
    | 0, 1 => if rd = 0 then some (1024 + code) else none
    | 0, 2 => if rd = 0 then some (1024 + code) else none
    | 1, 0 => some (1024 + code)
    | 1, 1 => some (1024 + code)
    | 3, 0 => if r1 = 0 ∧ r2 = 0 then some (1024 + code) else none
    | 2, _ => if rd = 0 ∧ r1 = 0 ∧ r2 = 0 ∧ f7 < 4 then some (1024 + code) else none
    | _, _ => none

/-- A taken jump: the target's bit 0 is clear by construction. -/
def Core.jump (c : Core) (target : BitVec 64) : Core := { c with pc := target }

/-- SYSTEM instructions other than CSR accesses: ECALL, EBREAK, MRET and WFI. -/
def systemOp (c : Core) (len w : Nat) : CoreAct :=
  if w = 0x00000073 then .ecall
  else if w = 0x00100073 then .exc 3 c.pc.toNat
  else if w = 0x30200073 then
    if !c.mmode then .exc 2 w
    else
      let st := c.csr 0x300
      let mpp := bits st 12 11
      let st := setBits (setBits (setBits st 3 3 (bits st 7 7)) 7 7 1) 12 11 0
      let st := if mpp = 3 then st else setBits st 17 17 0
      .retire { (c.setCsr 0x300 st) with mmode := mpp == 3, st := if mpp = 3 then c.st else .running, pc := x64 (c.csr 0x341) }
  else if w = 0x10500073 then
    if !c.mmode ∧ bit (c.csr 0x300) 21 then .exc 2 w else .retire (c.next len)
  else .exc 2 w

/-- The action of a 32-bit instruction word; illegal instructions trap with the fetched bits in mtval. -/
def evalWord (c : Core) (die core now len raw w : Nat) : CoreAct :=
  let op := bits w 6 0
  let rd := bits w 11 7
  let f3 := bits w 14 12
  let a := c.get (bits w 19 15)
  let b := c.get (bits w 24 20)
  let f7 := bits w 31 25
  let immI := BitVec.ofInt 64 (toSigned 12 (bits w 31 20))
  let immS := BitVec.ofInt 64 (toSigned 12 (f7 * 32 + rd))
  let immU := BitVec.ofInt 64 (toSigned 32 (bits w 31 12 * 4096))
  let ill : CoreAct := .exc 2 raw
  let fpOff := bits (c.csr 0x300) 14 13 == 0
  let fin (v : BitVec 64) : CoreAct := .retire ((c.put rd v).next len)
  match op with
  | 0x37 => fin immU
  | 0x17 => fin (c.pc + immU)
  | 0x6F =>
    let imm := BitVec.ofInt 64 (toSigned 21 (bits w 31 31 * 2 ^ 20 + bits w 19 12 * 2 ^ 12 + bits w 20 20 * 2 ^ 11 + bits w 30 21 * 2))
    .retire ((c.put rd (c.pc + x64 len)).jump (c.pc + imm))
  | 0x67 => if f3 = 0 then .retire ((c.put rd (c.pc + x64 len)).jump ((a + immI) &&& ~~~(1 : BitVec 64))) else ill
  | 0x63 =>
    let imm := BitVec.ofInt 64 (toSigned 13 (bits w 31 31 * 4096 + bits w 7 7 * 2048 + bits w 30 25 * 32 + bits w 11 8 * 2))
    match branchTaken f3 a b with
    | some t => .retire (if t then c.jump (c.pc + imm) else c.next len)
    | none => ill
  | 0x03 => if f3 = 7 then ill else .load (a + immI).toNat (2 ^ (f3 % 4)) rd (decide (f3 < 4)) false
  | 0x23 => if 3 < f3 then ill else .store (a + immS).toNat (2 ^ f3) (b.toNat % 2 ^ (8 * 2 ^ f3))
  | 0x07 => if fpOff ∨ (f3 ≠ 2 ∧ f3 ≠ 3) then ill else .load (a + immI).toNat (2 ^ f3) rd false true
  | 0x27 => if fpOff ∨ (f3 ≠ 2 ∧ f3 ≠ 3) then ill else .store (a + immS).toNat (2 ^ f3) ((c.getF (bits w 24 20)).toNat % 2 ^ (8 * 2 ^ f3))
  | 0x13 =>
    if f3 = 1 then (if bits w 31 26 = 0 then fin (aluOp 1 false a (x64 (bits w 25 20))) else ill)
    else if f3 = 5 then
      (if bits w 31 26 = 0 then fin (aluOp 5 false a (x64 (bits w 25 20))) else if bits w 31 26 = 16 then fin (aluOp 5 true a (x64 (bits w 25 20))) else ill)
    else fin (aluOp f3 false a immI)
  | 0x1B =>
    if f3 = 0 then fin (sw32 (a + immI))
    else if f3 = 1 ∧ f7 = 0 then fin ((aluOpW 1 false a (x64 (bits w 24 20))).getD 0)
    else if f3 = 5 ∧ (f7 = 0 ∨ f7 = 32) then fin ((aluOpW 5 (f7 == 32) a (x64 (bits w 24 20))).getD 0)
    else ill
  | 0x33 =>
    if f7 = 0 then fin (aluOp f3 false a b)
    else if f7 = 32 ∧ (f3 = 0 ∨ f3 = 5) then fin (aluOp f3 true a b)
    else if f7 = 1 then fin (x64 (mulOp 64 f3 a.toNat b.toNat))
    else ill
  | 0x3B =>
    if f7 = 1 ∧ (f3 = 0 ∨ 4 ≤ f3) then fin (sw32 (x64 (mulOp 32 f3 (a.toNat % 2 ^ 32) (b.toNat % 2 ^ 32))))
    else if f7 = 0 ∨ (f7 = 32 ∧ (f3 = 0 ∨ f3 = 5)) then
      match aluOpW f3 (f7 == 32) a b with
      | some v => fin v
      | none => ill
    else ill
  | 0x0F => if f3 < 2 then .retire (c.next len) else ill
  | 0x2F =>
    if (f3 ≠ 2 ∧ f3 ≠ 3) ∨ !amoKnown (bits w 31 27) ∨ (bits w 31 27 = 2 ∧ bits w 24 20 ≠ 0) then ill
    else .amo (bits w 31 27) a.toNat (2 ^ f3) rd (b.toNat % 2 ^ (8 * 2 ^ f3))
  | 0x73 =>
    if f3 = 0 then (match systemOp c len w with
      | .exc 2 _ => ill
      | x => x)
    else if f3 = 4 then ill else (csrOp c die core now len w).getD ill
  | 0x53 => if fpOff then ill else (opFp c len w).getD ill
  | 0x43 => fma c len w fpOff raw false false
  | 0x47 => fma c len w fpOff raw false true
  | 0x4B => fma c len w fpOff raw true true
  | 0x4F => fma c len w fpOff raw true false
  | 0x0B => xen c w raw a b
  | 0x2B => xen c w raw a b
  | _ => ill
where
  /-- FMADD, FMSUB, FNMSUB and FNMADD: product and addend negated as named. -/
  fma (c : Core) (len w : Nat) (off : Bool) (raw : Nat) (np nc : Bool) : CoreAct :=
    let f? : Option NumFmt := if bits w 26 25 = 0 then some .fp32 else if bits w 26 25 = 1 then some .fp64 else none
    match f?, rmDir c (bits w 14 12) with
    | some f, some rm =>
      if off then .exc 2 raw
      else
        let v (r : Nat) := unpack f (c.fbits f r)
        let p := if np then (v (bits w 19 15)).negate else v (bits w 19 15)
        let q := if nc != np then (v (bits w 31 27)).negate else v (bits w 31 27)
        c.fdone len (bits w 11 7) f (fMadd f rm p (v (bits w 24 20)) q)
    | _, _ => .exc 2 raw
  xen (_ : Core) (w raw : Nat) (a b : BitVec 64) : CoreAct :=
    match xenhCode w with
    | some code => .xenh code (bits w 11 7) a b
    | none => .exc 2 raw

/-- A trap into M mode: mepc, mcause, mtval, mstatus, and the pc at mtvec, vectored interrupts at 4 × the cause (R384, R389). -/
def Core.trap (c : Core) (interrupt : Bool) (cause tval : Nat) : Core :=
  let st := c.csr 0x300
  let st := setBits (setBits (setBits st 7 7 (bits st 3 3)) 3 3 0) 12 11 (if c.mmode then 3 else 0)
  let vec := c.csr 0x305
  let c := (((c.setCsr 0x341 c.pc.toNat).setCsr 0x342 (cause + if interrupt then 2 ^ 63 else 0)).setCsr 0x343 tval).setCsr 0x300 st
  { c with mmode := true, pc := x64 (vec - vec % 4 + (if interrupt ∧ vec % 4 = 1 then 4 * cause else 0)) }

/-- A PMP entry's range: OFF, TOR, NA4 or NAPOT. -/
def pmpRange (c : Core) (k : Nat) : Option (Nat × Nat) :=
  let a := nth 0 k c.pmpaddr
  match bits (nth 0 k c.pmpcfg) 4 3 with
  | 1 => some (if k = 0 then 0 else 4 * nth 0 (k - 1) c.pmpaddr, 4 * a)
  | 2 => some (4 * a, 4 * a + 4)
  | 3 =>
    let n := (upTo 54).foldl (fun (r : Nat × Bool) i => if r.2 && bit a i then (r.1 + 1, true) else (r.1, false)) (0, true)
    let base := a / 2 ^ (n.1 + 1) * 2 ^ (n.1 + 1)
    some (4 * base, 4 * base + 2 ^ (n.1 + 3))
  | _ => none

/-- Whether PMP admits an access of a mode: the lowest-numbered entry that matches any byte decides and must hold them all; without one only M mode passes. -/
def pmpOk (c : Core) (mmode : Bool) (addr n perm : Nat) : Bool :=
  match (upTo 16).find? (fun k => match pmpRange c k with
    | some r => decide (addr < r.2) && decide (r.1 < addr + n)
    | none => false) with
  | some k =>
    match pmpRange c k with
    | some r => decide (r.1 ≤ addr) && decide (addr + n ≤ r.2) && ((mmode && !bit (nth 0 k c.pmpcfg) 7) || nth 0 k c.pmpcfg &&& perm == perm)
    | none => false
  | none => mmode

end Sys2Proof.Machine
end

