-- ==== Sys2Proof/Machine/Cores.lean ====
section
/-! DEFINITION. Sys2Proof/Machine/Cores.lean: control cores: fetch, the address map, the aperture, Xenh instructions, traps, interrupts and halting (R375 to R401). -/

namespace Sys2Proof.Machine

/-- Where a physical address of a core leads (R381, R382). -/
inductive PaTarget where
  | cluster
  | localRegs (off : Nat)
  | device (addr : Nat)
  | none
  deriving DecidableEq, Repr

/-- The address map (R381, R382). -/
def paTarget (die a : Nat) : PaTarget :=
  if 2 ^ 56 ≤ a then .none
  else if 1 ≤ bits a 55 52 ∧ bits a 55 52 ≤ 9 then .device ((bits a 55 52 - 1) * 2 ^ 59 + a % 2 ^ 52)
  else if a < clusterSize die then .cluster
  else if 0x1000000 ≤ a ∧ a < 0x1001000 then .localRegs (a - 0x1000000)
  else .none

/-- The mode under which a core's data accesses are checked: MPP while MPRV is set. -/
def Core.dataMode (c : Core) : Bool := if c.mmode && bit (c.csr 0x300) 17 then bits (c.csr 0x300) 12 11 == 3 else c.mmode

/-- Whether an access of a mode may be made: PMP, and in U mode only the job area of a compute die and the aperture's admitted spaces (R381, R383, R384, R386). -/
def paOk (c : Core) (die : Nat) (mmode : Bool) (a n perm : Nat) : Bool :=
  pmpOk c mmode a n perm &&
  (match paTarget die a with
  | .cluster => decide (a + n ≤ clusterSize die) && (mmode || (isCompute die && decide (0x100000 ≤ a)))
  | .localRegs _ => mmode
  | .device d => mmode || !(spaceOf d == 5 || spaceOf d == 6 || spaceOf d == 7)
  | .none => false)

/-- The instruction at the pc: its bits, its length and its 32-bit form, or the exception of its fetch (R376, R379). -/
def coreFetch (s : State) (die : Nat) (c : Core) : State × Sum (Nat × Nat) (Nat × Nat × Option Nat) :=
  let pc := c.pc.toNat
  let half (s : State) (a : Nat) : State × Option Nat :=
    if paOk c die c.mmode a 2 4 ∧ paTarget die a = .cluster then clusterRead s die a 2 else (s, none)
  let r := half s pc
  match r.2 with
  | none => (r.1, .inl (1, pc))
  | some h =>
    if h % 4 ≠ 3 then (r.1, .inr (h, 2, if h = 0 then none else expandC h))
    else
      let q := half r.1 (pc + 2)
      match q.2 with
      | none => (q.1, .inl (1, pc + 2))
      | some t => (q.1, .inr (h + t * 65536, 4, some (h + t * 65536)))

/-- A core-local register read (R388). -/
def clkRead (s : State) (die off : Nat) : Nat :=
  let n := off / 8 % 32
  if off / 8 = 0 then s.now
  else if 0x100 ≤ off ∧ off < 0x100 + 8 * coreCount die then (coreOf s die n).mtimecmp
  else if 0x400 ≤ off ∧ off < 0x400 + 8 * coreCount die then (if (coreOf s die n).msip then 1 else 0)
  else 0

/-- A core-local register written; CLK_MTIME and reserved offsets ignore it (R388). -/
def clkWrite (s : State) (die off size v : Nat) : State :=
  let n := off / 8 % 32
  let merge (old : Nat) : Nat := setFld old (off % 8) size v
  if 0x100 ≤ off ∧ off < 0x100 + 8 * coreCount die then modCore s die n (fun c => { c with mtimecmp := merge c.mtimecmp })
  else if 0x400 ≤ off ∧ off < 0x400 + 8 * coreCount die then modCore s die n (fun c => { c with msip := bit (merge (if c.msip then 1 else 0)) 0 })
  else s

/-- What the next instruction of a core does: a base instruction's whole effect, an exception, or the operation that another row carries out. -/
inductive CoreStep where
  | idle
  | base (s : State)
  | exc (cause tval : Nat)
  | apLoad (addr size rd : Nat) (signed fp : Bool)
  | apStore (addr size value : Nat)
  | ecall
  | xenh (code rd : Nat) (v1 v2 : BitVec 64)
  deriving DecidableEq, Repr

/-- Whether a core can issue: it runs, is not stalled and no halt is raised (R389, R391, R400); job programs only while their region runs. -/
def coreRuns (s : State) (die core : Nat) : Bool :=
  let c := coreOf s die core
  (c.st == .running || c.st == .monitor) && c.wait == .none && !c.meip && !(dieOf s die).fenced
    && (c.mmode || (match regionOfCore s die core with
      | some (_, r) => r.st == .running
      | none => false))

/-- An instruction retired: the pc of DBG_CC_PCn, instret and TEL_CC_RETIRED (R402). -/
def retire (s : State) (die core : Nat) (c : Core) : State :=
  let old := coreOf s die core
  telAdd (setCore s die core { c with lastPc := old.pc, instret := c.instret + 1 }) die blockSite 0x308 1

/-- A loaded value as a register holds it. -/
def loadValue (size v : Nat) (signed fp : Bool) : BitVec 64 :=
  if fp then (if size = 4 then boxF .fp32 v else x64 v) else if signed then x64 (sx (8 * size) 64 v) else x64 v

/-- A load's destination written and the instruction retired. -/
def finishLoad (s : State) (die core len size rd v : Nat) (signed fp : Bool) : State :=
  let c := coreOf s die core
  let x := loadValue size v signed fp
  retire s die core ((if fp then c.putF rd x else c.put rd x).next len)

/-- The result of the instruction that a core has fetched (R376 to R386). -/
def coreAct (s : State) (die core : Nat) (c : Core) (len : Nat) (act : CoreAct) : State × CoreStep :=
  let mode := c.dataMode
  match act with
  | .retire c' => (s, .base (retire s die core c'))
  | .exc cause tval => (s, .exc cause tval)
  | .ecall => (s, .ecall)
  | .xenh code rd v1 v2 => (s, .xenh code rd v1 v2)
  | .load a size rd signed fp =>
    (match paTarget die a with
    | .device d =>
      if a % size ≠ 0 then (s, .exc 4 a)
      else if addrMalformed d ∧ spaceOf d ≠ 5 then (s, .exc 5 a)
      else if spaceOf d = 5 ∧ addrMalformed (d - d % 8) then (s, .exc 5 a)
      else if !paOk c die mode a size 1 then (s, .exc 5 a)
      else (s, .apLoad a size rd signed fp)
    | .localRegs off => if a % size ≠ 0 then (s, .exc 4 a) else if !paOk c die mode a size 1 then (s, .exc 5 a)
      else (s, .base (finishLoad s die core len size rd (fld (clkRead s die off) (off % 8) size) signed fp))
    | .cluster =>
      if !paOk c die mode a size 1 then (s, .exc 5 a)
      else
        let r := clusterRead s die a size
        (match r.2 with
        | some v => (s, .base (finishLoad r.1 die core len size rd v signed fp))
        | none => (r.1, .exc 5 a))
    | .none => (s, .exc 5 a))
  | .store a size v =>
    (match paTarget die a with
    | .device d =>
      if a % size ≠ 0 then (s, .exc 6 a)
      else if addrMalformed d ∨ spaceOf d = 5 ∨ !paOk c die mode a size 2 then (s, .exc 7 a)
      else (s, .apStore a size v)
    | .localRegs off => if a % size ≠ 0 then (s, .exc 6 a) else if !paOk c die mode a size 2 then (s, .exc 7 a)
      else
        let s := clkWrite s die off size v
        (s, .base (retire s die core ((coreOf s die core).next len)))
    | .cluster =>
      if !paOk c die mode a size 2 then (s, .exc 7 a)
      else
        let r := clusterWrite s die (some core) a size v
        if r.2 then (s, .base (retire r.1 die core ((coreOf r.1 die core).next len))) else (r.1, .exc 7 a)
    | .none => (s, .exc 7 a))
  | .amo op a size rd v =>
    let lr := op == 2
    if a % size ≠ 0 then (s, .exc (if lr then 4 else 6) a)
    else if paTarget die a ≠ .cluster ∨ !paOk c die mode a size (if lr then 1 else 3) then (s, .exc (if lr then 5 else 7) a)
    else if op = 3 then
      (if c.resv = some (a / 64) then
        let r := clusterWrite s die (some core) a size v
        if r.2 then (s, .base (retire r.1 die core ({ (coreOf r.1 die core).put rd 0 with resv := none }.next len))) else (r.1, .exc 7 a)
      else (s, .base (retire s die core ({ c.put rd 1 with resv := none }.next len))))
    else
      let r := clusterRead s die a size
      (match r.2 with
      | none => (r.1, .exc (if lr then 5 else 7) a)
      | some old =>
        let x := x64 (sx (8 * size) 64 old)
        if lr then (s, .base (retire r.1 die core ({ (coreOf r.1 die core).put rd x with resv := some (a / 64) }.next len)))
        else
          let s' := (clusterWrite r.1 die (some core) a size (amoOp (8 * size) op old v)).1
          (s, .base (retire s' die core (((coreOf s' die core).put rd x).next len))))

/-- The next step of a core. -/
def coreNext (s : State) (die core : Nat) : State × CoreStep :=
  if !coreRuns s die core then (s, .idle)
  else
    let c := coreOf s die core
    match coreFetch s die c with
    | (s, .inl e) => (s, .exc e.1 e.2)
    | (s, .inr (raw, len, some w)) => coreAct s die core c len (evalWord c die core s.now len raw w)
    | (s, .inr (raw, _, none)) => (s, .exc 2 raw)

/-- The length of the instruction that a core executes: as fetched, or as kept while it stalls. -/
def coreLen (s : State) (die core : Nat) : Nat :=
  if (coreOf s die core).wait ≠ .none then (coreOf s die core).len
  else match (coreFetch s die (coreOf s die core)).2 with
  | .inr (_, len, _) => len
  | .inl _ => 4

/-- A core stalled at its instruction of n bytes. -/
def stallCore (s : State) (die core n : Nat) (w : CoreWait) : State := modCore s die core (fun c => { c with wait := w, len := n, stallFrom := s.now })

/-- A stall ended after the instruction has retired. -/
def freeCore (s : State) (die core : Nat) : State := endStall s die core

/-- A core's row: an absent core is a fault of the command, and the step is the one the row names. -/
def onCore (die core : Nat) (r : State) : Host.Outcome State Fault Refusal :=
  if isDie die && decide (core < coreCount die) then .next r else .fault (.noSuchUnit die blockSite)

/-- An exception taken: the trap, and from U mode the monitor's response, the event and the faulted core (R387, R402). -/
def coreException (s : State) (die core cause tval : Nat) : State :=
  let c := coreOf s die core
  let t := c.trap false cause tval
  if c.mmode then setCore s die core t
  else
    let job := ((regionOfCore s die core).map (fun r => r.2.job)).getD 0
    let s := setCore s die core { t with st := .faulted, wait := .none, cause := x64 cause, tval := x64 tval }
    raise s { code := 0x0131, cls := if job = 0 then 0 else 1, job := if job = 0 then 0xFF else job, die := die, ukind := 6, index := core, time := s.now
              detail := cause, region := ((regionOfCore s die core).map (·.1)).getD 0, ext := some (c.pc.toNat, tval), defers := false }

/-- CORE_INSTRUCTION: the next instruction, a base instruction that runs whole; an exception or ECALL in M mode traps within M mode (R375, R376). -/
def execCoreInstruction (die core : Nat) (u : Upset) (s : State) : Host.Outcome State Fault Refusal :=
  onCore die core (
    let s := { s with flips := addUpsets s.flips u }
    match coreNext s die core with
    | (_, .base s') => s'
    | (s', .exc cause tval) => if (coreOf s die core).mmode then coreException s' die core cause tval else s
    | (s', .ecall) => if (coreOf s die core).mmode then coreException s' die core 11 0 else s
    | _ => s)

/-- CORE_EXCEPTION: any U-mode exception other than ECALL 0 and 1 traps to the monitor, raises the event and faults the job (R387). -/
def execCoreException (die core : Nat) (u : Upset) (s : State) : Host.Outcome State Fault Refusal :=
  onCore die core (
    let s := { s with flips := addUpsets s.flips u }
    if (coreOf s die core).mmode then s
    else match coreNext s die core with
      | (s', .exc cause tval) => coreException s' die core cause tval
      | (s', .ecall) => if ((coreOf s die core).get 17).toNat ≤ 1 then s else coreException s' die core 8 0
      | _ => s)

/-- ECALL with a7 0: the core becomes DONE (R387). -/
def execEcallExit (die core : Nat) (s : State) : Host.Outcome State Fault Refusal :=
  onCore die core (
    let c := coreOf s die core
    match coreNext s die core with
    | (s', .ecall) => if !c.mmode ∧ c.get 17 = 0 then setCore s' die core { c.trap false 8 0 with st := .done, cause := 8, tval := 0 } else s
    | _ => s)

/-- ECALL with a7 1: CORE_SELF_FAULT with a0 as its detail faults the job (R387). -/
def execEcallFault (die core : Nat) (s : State) : Host.Outcome State Fault Refusal :=
  onCore die core (
    let c := coreOf s die core
    match coreNext s die core with
    | (s', .ecall) =>
      if !c.mmode ∧ c.get 17 = 1 then
        raiseContained (setCore s' die core { c.trap false 8 0 with st := .faulted, cause := 8, tval := 0 }) 0x0132
          (((regionOfCore s die core).map (fun r => r.2.job)).getD 0) die 6 core (c.get 10).toNat
      else s
    | _ => s)

/-- An interrupt taken in M mode when it is enabled, U mode always admitting it (R389). -/
def coreInterrupt (s : State) (die core bitNo : Nat) (pending : Bool) : State :=
  let c := coreOf s die core
  if pending && bit (c.csr 0x304) bitNo && (!c.mmode || bit (c.csr 0x300) 3) && (c.st == .running || c.st == .monitor) && c.wait == .none && !(dieOf s die).fenced then
    let t := c.trap true bitNo 0
    setCore s die core { t with st := .monitor, cause := if c.mmode then c.cause else x64 (bitNo + 2 ^ 63), tval := if c.mmode then c.tval else 0 }
  else s

/-- TIMER_INTERRUPT: MTIP is set while TIME has reached CMP (R388, R389). -/
def execTimerInterrupt (die core : Nat) (s : State) : Host.Outcome State Fault Refusal :=
  onCore die core (coreInterrupt s die core 7 (decide ((coreOf s die core).mtimecmp ≤ s.now)))

/-- SOFTWARE_INTERRUPT: MSIP follows CLK_MSIPn (R388, R389). -/
def execSoftwareInterrupt (die core : Nat) (s : State) : Host.Outcome State Fault Refusal :=
  onCore die core (coreInterrupt s die core 3 (coreOf s die core).msip)

/-- The job under which a core sends: its region's in U mode, 0 in M mode (R377, R383). -/
def coreJob (s : State) (die core : Nat) : Nat :=
  if (coreOf s die core).mmode then 0 else ((regionOfCore s die core).map (fun r => r.2.job)).getD 0

/-- The MSG_ID that a stalled core waits for. -/
def CoreWait.id? : CoreWait → Option Nat
  | .kettle i _ _ => some i
  | .issue i _ => some i
  | .data i _ _ => some i
  | .load i _ _ _ _ _ => some i
  | _ => Option.none

/-- A core's requests without a final reply. -/
def coreOut (s : State) (die core : Nat) : List Outst :=
  (niOf s die blockSite).out.filter (fun o => o.msg.src == coreEp die core)

/-- Posted operations without a final reply (R383, R391). -/
def corePosted (s : State) (die core : Nat) : Nat :=
  ((coreOut s die core).filter (fun o => some o.msg.msgId != (coreOf s die core).wait.id?)).length

/-- CFG_REG's ARG: offset, size and write (log entry 17). -/
def cfgArg (off size : Nat) (write : Bool) : BitVec 64 := BitVec.ofNat 64 (off + size * 2 ^ 32 + (if write then 2 ^ 40 else 0))

/-- A word that holds bytes at their own positions. -/
def wordAtPos (off v : Nat) : Word := BitVec.ofNat 256 (v * 2 ^ (8 * off))

/-- The request of an aperture access: TYPE, destination, ARG and data; none where the address is unbacked (R383). -/
def apRequest (s : State) (a size : Nat) (v : Option Nat) : Option (Nat × Ep × BitVec 64 × List Word) :=
  let d := match paTarget 0 a with
    | .device d => d
    | _ => 0
  let off := d % 32
  let mem (e : Ep) : Nat × Ep × BitVec 64 × List Word :=
    match v with
    | none => (2, e, BitVec.ofNat 64 (d - off), [1])
    | some v => (3, e, BitVec.ofNat 64 (d + size * 2 ^ 52), [wordAtPos off v])
  match spaceOf d with
  | 3 =>
    let e : Ep := { die := bits d 35 29, site := spaceSite d, port := portTile, index := 0 }
    let cmd (op : Nat) : Word := BitVec.ofNat 256 (op + 2 * 4 * 2 ^ 8 + bits d 20 5 * 2 ^ 32 + 2 ^ 64 + off * 2 ^ 160 + size * 2 ^ 168)
    some (match v with
      | none => (1, e, 0, [cmd 3])
      | some v => (1, e, 0, [cmd 4, wordAtPos off v]))
  | 4 =>
    let e : Ep := { die := bits d 35 29, site := blockSite, port := portCore, index := 0xFFFF }
    let o := bits d 22 0
    some (match v with
      | none => (8, e, BitVec.ofNat 64 (1 + 256 + (o - off) * 2 ^ 32), [])
      | some v => (8, e, BitVec.ofNat 64 (3 + 256 + off * 2 ^ 16 + size * 2 ^ 24 + (o - off) * 2 ^ 32), [wordAtPos off v]))
  | 5 => some (0x0A, { die := bits d 35 29, site := blockSite, port := portConfig, index := 0 }, cfgArg (0x10000 + bits d 15 3 * 8) 8 false, [])
  | 6 =>
    let site := bits d 28 19
    let e : Ep := { die := bits d 35 29, site := site, port := if site = blockSite then portConfig else portTile, index := 0 }
    some (0x0A, e, cfgArg (bits d 18 0) size v.isSome, v.toList.map (fun v => BitVec.ofNat 256 v))
  | 7 => some (0x0A, hostEp 0, cfgArg (bits d 25 0) size v.isSome, v.toList.map (fun v => BitVec.ofNat 256 v))
  | 8 => some (mem (hostEp 0))
  | _ => (placeOf s d).server.map mem

/-- APERTURE_LOAD: the request is sent and the core stalls until its reply (R383). -/
def execApertureLoad (die core : Nat) (s : State) : Host.Outcome State Fault Refusal :=
  onCore die core (
    match coreNext s die core with
    | (s', .apLoad a size rd signed fp) =>
      (match apRequest s' a size none with
      | some (typ, e, arg, data) =>
        let id := nextMsgId s' (coreEp die core)
        let s' := stallCore s' die core (coreLen s die core) (.load id rd a size signed fp)
        sendReq s' (coreEp die core) core (coreJob s die core) typ e arg data
      | none => coreException (raiseContained s' 0x0220 (coreJob s die core) die 6 core a) die core 5 a)
    | _ => s)

/-- APERTURE_STORE: the request is posted; a core holds at most 16 without a final reply (R383). -/
def execApertureStore (die core : Nat) (s : State) : Host.Outcome State Fault Refusal :=
  onCore die core (
    match coreNext s die core with
    | (s', .apStore a size v) =>
      if 16 ≤ corePosted s die core then s
      else
        let len := coreLen s die core
        let s' := retire s' die core ((coreOf s' die core).next len)
        (match apRequest s' a size (some v) with
        | some (typ, e, arg, data) => sendReq s' (coreEp die core) core (coreJob s die core) typ e arg data
        | none => raiseContained s' 0x0220 (coreJob s die core) die 6 core a)
    | _ => s)

/-- An Xenh instruction of a code that a core is about to execute. -/
def xenhRow (die core code : Nat) (s : State) (f : State → Nat → BitVec 64 → BitVec 64 → State) : Host.Outcome State Fault Refusal :=
  onCore die core (
    match coreNext s die core with
    | (s', .xenh k rd v1 v2) => if k = code then f s' rd v1 v2 else s
    | _ => s)

/-- An Xenh instruction, four bytes long, retired with a value in rd (R390). -/
def xenhDone (s : State) (die core rd : Nat) (v : BitVec 64) : State :=
  retire s die core (((coreOf s die core).put rd v).next 4)

/-- An Xenh instruction refused at issue: its status in rd, or XENH_REFUSED where it has no status result (R391). -/
def xenhRefuse (s : State) (die core rd status : Nat) (result : Bool) : State :=
  if result then xenhDone s die core rd (x64 status) else coreException s die core 24 status

/-- The check of a memory operand: alignment, then a window with the permission (R391). -/
def xenhOperand (s : State) (die core a n align perm : Nat) : Option (Nat × Nat) :=
  let c := coreOf s die core
  if a % align ≠ 0 then some (if perm = 2 then 6 else 4, a)
  else if paTarget die a ≠ .cluster ∨ !paOk c die c.mmode a n perm then some (if perm = 2 then 7 else 5, a)
  else none

/-- The words of a memory operand, with the access fault where one is uncorrectable (R379, R391). -/
def xenhRead (s : State) (die core a words align : Nat) : State × Sum (Nat × Nat) (List Word) :=
  match xenhOperand s die core a (32 * words) align 1 with
  | some e => (s, .inl e)
  | none =>
    match clusterWords words s die a [] with
    | (s, some ws) => (s, .inr ws)
    | (s, none) => (s, .inl (5, a))

/-- A rank checked at issue: the endpoint, or the status that refuses it (R324, R391). -/
def xenhRank (s : State) (job rank : Nat) (port : Nat) : Sum Nat Ep :=
  match rankEp s job rank with
  | none => .inl 0x0502
  | some e => if e.port = port ∧ (port ≠ portTile ∨ e.site ≠ blockSite) then .inr e else .inl 0x0106

/-- A request issued by an Xenh instruction: posted when rd is x0 and it may be, else the core stalls until the final reply (R391). -/
def xenhSend (s : State) (die core typ : Nat) (e : Ep) (data : List Word) (posted : Bool) (wait : Nat → CoreWait) : State :=
  let job := coreJob s die core
  if posted then
    (if 16 ≤ corePosted s die core then s else sendReq (xenhDone s die core 0 0) (coreEp die core) core job typ e 0 data)
  else
    let id := nextMsgId s (coreEp die core)
    sendReq (stallCore s die core 4 (wait id)) (coreEp die core) core job typ e 0 data


/-- XTISSUE: a 64-byte descriptor is sent to the rank's context (R392). -/
def execXtissue (die core : Nat) (s : State) : Host.Outcome State Fault Refusal :=
  xenhRow die core 0 s (fun s' rd v1 v2 =>
    match xenhRank s' (coreJob s die core) v2.toNat portTile with
    | .inl st => xenhRefuse s' die core rd st (rd != 0)
    | .inr e =>
      match xenhRead s' die core v1.toNat 2 64 with
      | (s', .inl x) => coreException s' die core x.1 x.2
      | (s', .inr ws) => if rd = 0 ∧ 16 ≤ corePosted s die core then s else xenhSend s' die core 5 e ws (rd == 0) (fun id => .issue id rd))

/-- XSPCMD: the command block's command word and data words are sent to the S-tile; a reply with data is written to the block's data area (R393). -/
def execXspcmd (die core : Nat) (s : State) : Host.Outcome State Fault Refusal :=
  xenhRow die core 1 s (fun s' rd v1 v2 =>
    match xenhRank s' (coreJob s die core) v2.toNat portTile with
    | .inl st => xenhRefuse s' die core rd st (rd != 0)
    | .inr e =>
      match xenhRead s' die core v1.toNat 1 32 with
      | (s', .inl x) => coreException s' die core x.1 x.2
      | (s', .inr ws) =>
        let w := (ws.headD 0).toNat
        let op := fld w 0 1
        let count := fld w 8 4
        let n := if op = 2 then count else if op = 4 then 1 else 0
        let back := if op = 1 then count else if op = 3 ∨ op = 8 then 1 else 0
        if (op = 2 ∧ (count = 0 ∨ 15 < count)) ∨ (op = 1 ∧ (count = 0 ∨ 16 < count)) ∨ op = 0 ∨ 9 < op ∨ (rd = 0 ∧ back ≠ 0) then xenhRefuse s' die core rd 0x0102 (rd != 0)
        else match (if back = 0 then none else xenhOperand s' die core (v1.toNat + 32) (32 * back) 32 2) with
          | some x => coreException s' die core x.1 x.2
          | none =>
            match (if n = 0 then (s', .inr []) else xenhRead s' die core (v1.toNat + 32) n 32) with
            | (s', .inl x) => coreException s' die core x.1 x.2
            | (s', .inr ds) =>
              if rd = 0 ∧ 16 ≤ corePosted s die core then s
              else xenhSend s' die core 1 e (ws ++ ds) (rd == 0) (fun id => if back = 0 then .issue id rd else .data id rd (v1.toNat + 32)))

/-- XSENQ: a 160-byte stream descriptor is sent to the rank's engine (R394). -/
def execXsenq (die core : Nat) (s : State) : Host.Outcome State Fault Refusal :=
  xenhRow die core 128 s (fun s' rd v1 v2 =>
    match xenhRank s' (coreJob s die core) v2.toNat portStream with
    | .inl st => xenhRefuse s' die core rd st (rd != 0)
    | .inr e =>
      match xenhRead s' die core v1.toNat 5 32 with
      | (s', .inl x) => coreException s' die core x.1 x.2
      | (s', .inr ws) => if rd = 0 ∧ 16 ≤ corePosted s die core then s else xenhSend s' die core 5 e ws (rd == 0) (fun id => .issue id rd))

/-- XSCANCEL: the job's streams of the task are cancelled; the instruction completes with 0 when each has ended and its record is written, the row then being executed again on the stalled core (R270, R394). -/
def execXscancel (die core : Nat) (s : State) : Host.Outcome State Fault Refusal :=
  onCore die core (
    let c := coreOf s die core
    match c.wait with
    | .cancel rd task =>
      let job := coreJob s die core
      let s' := cancelOn s job task
      if taskGone s' job task then freeCore (xenhDone s' die core rd 0) die core else s'
    | _ =>
      match coreNext s die core with
      | (s', .xenh 129 rd v1 _) =>
        if v1.toNat = 0 ∨ 65535 < v1.toNat then xenhRefuse s' die core rd 0x0102 true
        else
          let job := coreJob s die core
          let s' := cancelTask s' job v1.toNat
          if taskGone s' job v1.toNat then xenhDone s' die core rd 0
          else stallCore s' die core 4 (.cancel rd v1.toNat)
      | _ => s)

/-- The kettle that an Xenh instruction's rank names, its operand in range, else the refusal (R351, R391). -/
def xenhKettle (s s' : State) (die core rd : Nat) (rank : BitVec 64) (ok result : Bool) (f : Ep → State) : State :=
  match xenhRank s' (coreJob s die core) rank.toNat portKettle with
  | .inl st => xenhRefuse s' die core rd st result
  | .inr e => if ok then f e else xenhRefuse s' die core rd 0x0102 result

/-- SIGNAL's operand n as the instruction gives it: a signed 32-bit value other than 0 and −2^31 (R351). -/
def signalOk (v : BitVec 64) : Bool := v.toInt != 0 && decide (-(2 ^ 31 - 1 : Nat) ≤ v.toInt) && decide (v.toInt ≤ (2 ^ 31 - 1 : Nat))

/-- XKSIG: SIGNAL(n) is posted (R395). -/
def execXksig (die core : Nat) (s : State) : Host.Outcome State Fault Refusal :=
  xenhRow die core 1024 s (fun s' rd v1 v2 =>
    xenhKettle s s' die core rd v1 (signalOk v2) false (fun e =>
      if 16 ≤ corePosted s die core then s
      else sendReq (xenhDone s' die core 0 0) (coreEp die core) core (coreJob s die core) 4 e (kettleArg 1 false v2.toNat) []))

/-- XKRST: RESET(v) is posted (R395). -/
def execXkrst (die core : Nat) (s : State) : Host.Outcome State Fault Refusal :=
  xenhRow die core 1026 s (fun s' rd v1 v2 =>
    xenhKettle s s' die core rd v1 (decide (v2.toNat < 2 ^ 31)) false (fun e =>
      if 16 ≤ corePosted s die core then s
      else sendReq (xenhDone s' die core 0 0) (coreEp die core) core (coreJob s die core) 4 e (kettleArg 4 false v2.toNat) []))

/-- A blocking kettle wait: the operation is sent and the core stalls (R395). -/
def xenhWait (die core code kop : Nat) (s : State) : Host.Outcome State Fault Refusal :=
  xenhRow die core code s (fun s' rd v1 v2 =>
    xenhKettle s s' die core rd v1 (decide (1 ≤ v2.toNat) && decide (v2.toNat < 2 ^ 31)) false (fun e =>
      let id := nextMsgId s' (coreEp die core)
      sendReq (stallCore s' die core 4 (.kettle id rd false)) (coreEp die core) core (coreJob s die core) 4 e (kettleArg kop false v2.toNat) []))

/-- XKWAITC: WAIT_CONSUME(n) (R395). -/
def execXkwaitc (die core : Nat) (s : State) : Host.Outcome State Fault Refusal := xenhWait die core 1152 2 s

/-- XKWAITO: WAIT_OBSERVE(n) (R395). -/
def execXkwaito (die core : Nat) (s : State) : Host.Outcome State Fault Refusal := xenhWait die core 1153 3 s

/-- Whether every stream that an issuer enqueued has ended (R273). -/
def streamsDone (s : State) (e : Ep) (issuer : Nat) : Bool := streamsBefore s e issuer (niOf s e.die e.site).issued

/-- Whether an issuer's mull writes and kettle operations are done (R273). -/
def mullDone (s : State) (e : Ep) (issuer : Nat) : Bool :=
  (niOf s e.die e.site).out.all (fun o => !(o.msg.src == e && o.msg.issuer == issuer && mullWrite o.msg))

/-- Whether an issuer's writes to host space are visible (R273). -/
def hostDone (s : State) (e : Ep) (issuer : Nat) : Bool :=
  (niOf s e.die e.site).out.all (fun o => !(o.msg.src == e && o.msg.issuer == issuer && hostSpaceWrite o.msg))

/-- Whether the operations that a fence covers are done (R273, R274). -/
def fenceDone (s : State) (e : Ep) (issuer : Nat) (streams mull host : Bool) : Bool :=
  (!streams || streamsDone s e issuer) && (!mull || mullDone s e issuer) && (!host || hostDone s e issuer)

/-- An XFENCE: it completes at once when nothing that it covers is outstanding, else the core stalls (R274, R396). -/
def xenhFence (die core code : Nat) (streams mull host : Bool) (s : State) : Host.Outcome State Fault Refusal :=
  xenhRow die core code s (fun s' _ _ _ =>
    if fenceDone s' (coreEp die core) core streams mull host then xenhDone s' die core 0 0
    else stallCore s' die core 4 (.fence streams mull host))

/-- XFENCE.STREAM (R396). -/
def execXfenceStream (die core : Nat) (s : State) : Host.Outcome State Fault Refusal := xenhFence die core 1280 true false false s

/-- XFENCE.MULL (R396). -/
def execXfenceMull (die core : Nat) (s : State) : Host.Outcome State Fault Refusal := xenhFence die core 1281 false true false s

/-- XFENCE.HOST (R396). -/
def execXfenceHost (die core : Nat) (s : State) : Host.Outcome State Fault Refusal := xenhFence die core 1282 false false true s

/-- XFENCE.FULL (R396). -/
def execXfenceFull (die core : Nat) (s : State) : Host.Outcome State Fault Refusal := xenhFence die core 1283 true true true s

/-- The held SIGNAL with REL sent (R352, R395). -/
def sendHeldSignal (s : State) (die core rank n : Nat) : State :=
  match rankEp s (coreJob s die core) rank with
  | some e => sendReq (xenhDone s die core 0 0) (coreEp die core) core (coreJob s die core) 4 e (kettleArg 1 true n) []
  | none => s

/-- XKSIG.REL: SIGNAL(n) with REL, held until a FULL_FENCE issued here would complete (R45, R395). -/
def execXksigRel (die core : Nat) (s : State) : Host.Outcome State Fault Refusal :=
  xenhRow die core 1025 s (fun s' rd v1 v2 =>
    xenhKettle s s' die core rd v1 (signalOk v2) false (fun _ =>
      if fenceDone s' (coreEp die core) core true true true then sendHeldSignal s' die core v1.toNat v2.toNat
      else stallCore s' die core 4 (.hold v1.toNat v2.toNat)))

/-- XTS: the package timestamp in rd (R397). -/
def execXts (die core : Nat) (s : State) : Host.Outcome State Fault Refusal :=
  xenhRow die core 1408 s (fun s' rd _ _ => xenhDone s' die core rd (x64 s.now))

/-- A fence or held release of a core completes once everything covered is done (R274, R395). -/
def coreFenceComplete (s : State) (die core : Nat) : State :=
  let c := coreOf s die core
  match c.wait with
  | .fence a b h => if fenceDone s (coreEp die core) core a b h then freeCore (xenhDone s die core 0 0) die core else s
  | .hold rank n => if fenceDone s (coreEp die core) core true true true then freeCore (sendHeldSignal s die core rank n) die core else s
  | _ => s

/-- The status that an ERROR reply gives an Xenh instruction (R587). -/
def xenhStatus (r : Msg) : Nat :=
  if r.scode then r.status
  else if r.status = 0x0508 ∨ r.status = 0x0506 then 0x0304
  else if r.status = 0x0507 ∨ r.status = 0x0502 then 0x0301
  else 0x0401

/-- Whether an event code is of a failure whose serving unit has faulted the job itself (R361, R362, R383, R587). -/
def servingFaulted (code : Nat) : Bool := !([0x0506, 0x0507, 0x0508, 0x0502].contains code)

/-- A final reply reaches a core: its load, wait or blocking instruction ends, or a posted operation's error faults the job (R383, R391, R393, R395). -/
def coreReply (s : State) (die core : Nat) (r : Msg) : State :=
  let c := coreOf s die core
  if c.wait.id? = some r.msgId then
    match c.wait with
    | .load _ rd a size signed fp =>
      if r.typ = 0x83 then coreException (freeCore s die core) die core 5 a
      else
        let w := (r.data.headD 0).toNat
        let d := match paTarget die a with
          | .device d => d
          | _ => 0
        let v := if spaceOf d = 6 ∨ spaceOf d = 7 then fld w 0 size else if spaceOf d = 5 then fld w (a % 8) size else fld w (a % 32) size
        freeCore (finishLoad s die core (coreLen s die core) size rd v signed fp) die core
    | .kettle id rd _ =>
      if r.typ = 0x81 then freeCore (xenhDone s die core rd (x64 (fld (r.data.headD 0).toNat 0 4))) die core
      else if r.typ = 0x80 then modCore s die core (fun c => { c with wait := .kettle id rd true })
      else s
    | .issue _ rd => freeCore (xenhDone s die core rd (if r.typ = 0x83 then x64 (xenhStatus r) else 0)) die core
    | .data _ rd area =>
      if r.typ = 0x83 then freeCore (xenhDone s die core rd (x64 (xenhStatus r))) die core
      else freeCore (xenhDone (clusterPut s die (some core) area r.data) die core rd 0) die core
    | _ => s
  else if r.typ = 0x83 ∧ (r.scode ∨ !servingFaulted r.status) then
    raiseContained s 0x0133 r.job die 6 core r.status
  else s

/-- A RELEASE reaches a core that waits on a kettle (R356, R395). -/
def coreRelease (s : State) (die core value : Nat) : State :=
  match (coreOf s die core).wait with
  | .kettle _ rd _ => freeCore (xenhDone s die core rd (x64 value)) die core
  | _ => s

/-- A held request withdrawn by its source NI (R336). -/
def withdrawHeldMsg (s : State) (die site msgId : Nat) : State :=
  match outOf s die site msgId with
  | some o =>
    if o.st = .held then
      let m := { o.msg with typ := 0x0C, data := [], arg := BitVec.ofNat 64 msgId }
      setPackets (modOut s die site msgId (fun o => { o with st := .withdrawing })) (s.net.packets ++ packetsOf m 0)
    else s
  | none => s

/-- A core's withdrawn request: a blocking instruction is abandoned with pc still at it, a posted operation is listed (R400). -/
def coreWithdrawn (s : State) (die core : Nat) (m : Msg) : State :=
  if (coreOf s die core).wait.id? = some m.msgId then endStall s die core else modCore s die core (fun c => { c with relist := c.relist ++ [m] })

/-- A halt: held requests are withdrawn, the others awaited, and once none is outstanding and no kettle wait registered the core is HALTED with pc at the abandoned instruction (R369, R400). -/
def haltCore (s : State) (die core : Nat) : State :=
  let c := coreOf s die core
  if c.st = .running ∨ c.st = .monitor then
    let s := modCore s die core (fun c => { c with meip := true })
    let s := (coreOut s die core).foldl (fun s o => withdrawHeldMsg s die blockSite o.msg.msgId) s
    let registered := List.any s.kettles (fun (k : Nat × KettleUnit) => k.2.waiters.any (fun w => w.src == coreEp die core))
    if (coreOut s die core).isEmpty && !registered then modCore (endStall s die core) die core (fun c => { c with st := .halted }) else s
  else s

/-- CORE_HALT: the headstock's halt through MEIP (R389, R400). -/
def execCoreHalt (die core : Nat) (s : State) : Host.Outcome State Fault Refusal := onCore die core (haltCore s die core)

/-- A program's start: ENTRY, its arguments, every other register 0, PMP from its windows, U mode, xenhid (R386, R388). -/
def startCore (s : State) (die core job rank : Nat) (d : BitVec 1024) : State :=
  let ws := progWindows d
  let old := coreOf s die core
  let napot (w : Nat × Nat × Nat) : Nat := w.1 / 4 + (w.2.1 / 8 - 1)
  let addr := (upTo 16).map (fun k => if k < 6 then ((ws[k]?).map napot).getD 0 else if k = 6 then 0x0010000000000000 / 4 else if k = 7 then 0x00A0000000000000 / 4 else 0)
  let cfg := (upTo 16).map (fun k => if k < 6 then ((ws[k]?).map (fun w => 0x18 + w.2.2 % 8)).getD 0 else if k = 7 then 0x0B else 0)
  setCore s die core { coreInitial with
    st := .running, mmode := false, pc := x64 (fld d.toNat 8 8)
    x := (upTo 32).map (fun r => if r = 10 then x64 (fld d.toNat 16 8) else if r = 11 then x64 (fld d.toNat 24 8) else 0)
    csrs := [(0x300, 0x200000 + 0x2000), (0x304, 0x888), (0x305, old.csr 0x305), (0x306, 7)], pmpcfg := cfg, pmpaddr := addr
    lastPc := old.lastPc, instret := old.instret, cycleOff := old.cycleOff, mtimecmp := old.mtimecmp, msip := old.msip
    xenhid := rank * 2 ^ 48 + job * 2 ^ 32 + core * 2 ^ 8 + die, cause := old.cause, tval := old.tval }

end Sys2Proof.Machine
end

