-- ==== Sys2Proof/Machine/Queues.lean ====
section
/-! DEFINITION. Sys2Proof/Machine/Queues.lean: host queues, submission entries, replies, notices, doorbells and the KTL window (R478 to R493, R500). -/

namespace Sys2Proof.Machine

/-- A host queue. -/
def qOf (s : State) (q : Nat) : HQueue := Tab.get queueInitial q s.queues

/-- A host queue replaced. -/
def setQ (s : State) (q : Nat) (h : HQueue) : State := { s with queues := Tab.set q h s.queues }

/-- A host queue updated. -/
def modQ (s : State) (q : Nat) (f : HQueue → HQueue) : State := setQ s q (f (qOf s q))

/-- What the package gives the outside. -/
def emit (s : State) (o : PkgOut) : State := { s with out := s.out ++ [o] }

/-- An MSI-X vector raised: sent, left pending while its entry is masked, lost while the link is down (R478, R502). -/
def raiseVector (s : State) (v : Nat) : State :=
  if !s.link.up then s
  else if bit (Tab.get (2 ^ 96) v s.msix) 96 then { s with msixPending := (s.msixPending ++ [v]).eraseDups }
  else emit s (.msix v)

/-- Serial arithmetic: a is after b (R486). -/
def seqAfter (a b : Nat) : Bool :=
  let d := (a + 2 ^ 32 - b % 2 ^ 32) % 2 ^ 32
  decide (0 < d) && decide (d < 2 ^ 31)

/-- Ring entries (R483). -/
def HQueue.sqSize (h : HQueue) : Nat := 2 ^ (h.sqLog2 + 4)
def HQueue.cqSize (h : HQueue) : Nat := 2 ^ (h.cqLog2 + 4)

/-- Whether a command of a queue has not started and not been answered (R489). -/
def HCmd.waits (c : HCmd) : Bool := c.stage != .replied && c.stage != .started && c.stage != .working && c.reply.isNone

/-- Whether a job's own commands wait in its queue, JOB_STATUS apart (R440). -/
def jobHolds (s : State) (q : Nat) : Bool :=
  q != 64 && q != 0 && ((jobOf s q).st == .suspending || (jobOf s q).st == .suspended || (jobOf s q).st == .resuming)

/-- Whether the completion ring is full (R490). -/
def HQueue.cqFull (h : HQueue) : Bool := (h.cqTail + 1) % h.cqSize == h.cqHead

/-- A command of a queue by SEQ. -/
def HQueue.cmd? (h : HQueue) (seq : Nat) : Option HCmd := h.cmds.find? (fun c => c.seq == seq)

/-- A command updated. -/
def modCmd (s : State) (q seq : Nat) (f : HCmd → HCmd) : State :=
  modQ s q (fun h => { h with cmds := h.cmds.map (fun c => if c.seq = seq then f c else c) })

/-- Fields of a command (R487). -/
def HCmd.f (c : HCmd) (off size : Nat) : Nat := fld c.raw.toNat off size
def HCmd.opcode (c : HCmd) : Nat := c.f 0 2
def HCmd.flags (c : HCmd) : Nat := c.f 2 2
def HCmd.job (c : HCmd) : Nat := c.f 8 1
def HCmd.irq (c : HCmd) : Bool := bit c.flags 0
def HCmd.pblock (c : HCmd) : Bool := bit c.flags 1
def HCmd.fence (c : HCmd) : Nat := bits c.flags 4 2
def HCmd.ordered (c : HCmd) : Bool := bit c.flags 5

/-- The command that a queue treats next: the first that waits, but a JOB_STATUS passes the commands that wait for its job (R440, R489). -/
def nextCmd (s : State) (q : Nat) : Option HCmd :=
  let cs := (qOf s q).cmds.filter HCmd.waits
  match if jobHolds s q then cs.find? (fun c => c.opcode == 0x020B) else none with
  | some c => some c
  | none => cs.head?

/-- Whether an earlier command of a queue has started and not yet sent the operation that a fence would cover (R273, R489). -/
def behind (h : HQueue) (c : HCmd) : Bool :=
  (h.cmds.takeWhile (fun e => e.seq != c.seq)).any (fun e => e.stage == .started && e.reply.isNone && [0x0301, 0x0401, 0x0402, 0x0403, 0x0404].contains e.opcode)

/-- The parameter bytes of a command, from its entry or its block (R487, R488). -/
def HCmd.blob (c : HCmd) : Nat := if c.pblock then leNat c.params else c.raw.toNat / 2 ^ 128

/-- A parameter field at offset p (R487). -/
def HCmd.p (c : HCmd) (off size : Nat) : Nat := fld c.blob off size

/-- Replies of a queue that have become due joined to the entries to be written: in SEQ order, each after its records are visible (R490). -/
def flushList (busy : Nat → Bool) : List HCmd → List HCmd × List HEntry
  | [] => ([], [])
  | c :: cs =>
    if c.stage = .replied then
      let r := flushList busy cs
      (c :: r.1, r.2)
    else match c.reply with
      | some e =>
        if busy c.seq then (c :: cs, [])
        else
          let r := flushList busy cs
          ({ c with stage := .replied } :: r.1, e :: r.2)
      | none => (c :: cs, [])

/-- Whether a record of a command still waits for its GO (R273, R490). -/
def recordBusy (s : State) (q seq : Nat) : Bool := s.host.writes.any (fun w => w.use == .command q seq)

/-- The due replies of a queue joined to its held entries. -/
def flushReplies (s : State) (q : Nat) : State :=
  let r := flushList (recordBusy s q) (qOf s q).cmds
  modQ s q (fun h => { h with cmds := r.1, held := h.held ++ r.2 })

/-- A command's reply made (R490). -/
def finishCmd (s : State) (q seq status detail result : Nat) : State :=
  match (qOf s q).cmd? seq with
  | none => s
  | some c =>
    if c.reply.isSome then s
    else
      let e : HEntry := { notice := false, seq := seq, status := status, opcode := c.opcode, job := c.job, detail := detail, result := result, time := s.now, irq := c.irq, replayed := false, unnumbered := false }
      flushReplies (modCmd s q seq (fun c => { c with reply := some e })) q

/-- A notice posted to a queue with its next number (R492). -/
def postNotice (s : State) (q status detail : Nat) : State :=
  modQ s q (fun h =>
    let e : HEntry := { notice := true, seq := h.nextNotice, status := status, opcode := 0, job := q % 64, detail := detail, result := 0, time := s.now, irq := true, replayed := false, unnumbered := false }
    { h with nextNotice := (h.nextNotice + 1) % 2 ^ 32, held := h.held ++ [e] })

/-- The 32 bytes of a completion entry (R490). -/
def entryBytes (e : HEntry) (phase : Bool) : List Byte :=
  let flags := (if phase then 1 else 0) + (if e.notice then 2 else 0) + (if e.replayed then 4 else 0)
  leBytes 4 e.seq ++ leBytes 2 e.status ++ leBytes 2 flags ++ leBytes 2 (if e.notice then 0 else e.opcode) ++ leBytes 1 e.job ++ leBytes 1 0
    ++ leBytes 4 e.detail ++ leBytes 8 e.result ++ leBytes 8 e.time

/-- An operation on a queue: queues 0 to 64 exist (R483). -/
def onQueue (q : Nat) (r : State) : Host.Outcome State Fault Refusal :=
  if q ≤ 64 then .next r else .fault (.noSuchUnit 0x60 blockSite)

/-- REPLY_WRITE: the oldest entry to be written is written to the completion ring when the ring has room, one at a time (R490, R492). -/
def execReplyWrite (q : Nat) (s : State) : Host.Outcome State Fault Refusal :=
  onQueue q (
    let h := qOf s q
    match h.held with
    | [] => s
    | e :: rest =>
      if !h.enable || !s.link.up || h.cqFull || !h.writing.isEmpty then s
      else
        hostWrite (setQ s q { h with held := rest, writing := [e] }) (hostAddr (h.cqBase + 32 * h.cqTail)) (entryBytes e h.phase) (.cqEntry q))

/-- The last n entries of a kind kept, the order of all being kept (R491). -/
def trimKept (l : List HEntry) : List HEntry :=
  let drop (notice : Bool) (n : Nat) (l : List HEntry) : List HEntry :=
    if n < (l.filter (fun e => e.notice == notice)).length then
      match l.find? (fun e => e.notice == notice) with
      | some e => l.erase e
      | none => l
    else l
  drop true 256 (drop false 1024 l)

/-- An entry's write answered: visible, CQ_TAIL advances, it sets LAST_REPLIED or LAST_NOTICE, is retained and raises the vector; with an error it is held again (R490 to R492, R502). -/
def entryVisible (s : State) (q : Nat) (err : Bool) : State :=
  let h := qOf s q
  match h.writing with
  | [] => s
  | e :: rest =>
    if err then setQ s q { h with writing := rest, held := e :: h.held }
    else
      let fresh := !e.replayed && !e.unnumbered
      let tail := (h.cqTail + 1) % h.cqSize
      let h := { h with
        writing := rest
        cqTail := tail
        phase := if tail = 0 then !h.phase else h.phase
        kept := if fresh then trimKept (h.kept ++ [e]) else h.kept
        lastReplied := if fresh && !e.notice then e.seq else h.lastReplied
        lastNotice := if fresh && e.notice then e.seq else h.lastNotice
        cmds := if fresh && !e.notice then h.cmds.filter (fun c => c.seq != e.seq) else h.cmds }
      let s := setQ s q h
      if e.irq then raiseVector s h.vector else s

/-- SQ_TAIL: a doorbell of an enabled queue; a value out of range sets DB_ERR (R480, R485). -/
def execSqTail (q v : Nat) (s : State) : Host.Outcome State Fault Refusal :=
  onQueue q (
    let h := qOf s q
    let t := v % 65536
    if !h.enable then s else if h.sqSize ≤ t then setQ s q { h with dbErr := true } else setQ s q { h with sqTail := t })

/-- CQ_HEAD: a doorbell of an enabled queue (R480, R490). -/
def execCqHead (q v : Nat) (s : State) : Host.Outcome State Fault Refusal :=
  onQueue q (
    let h := qOf s q
    let t := v % 65536
    if !h.enable then s else if h.cqSize ≤ t then setQ s q { h with dbErr := true } else setQ s q { h with cqHead := t })

/-- The oldest retained reply or notice, or the number after the last where none is retained (R483). -/
def HQueue.oldest (h : HQueue) (notice : Bool) : Nat :=
  match h.kept.find? (fun e => e.notice == notice) with
  | some e => e.seq
  | none => ((if notice then h.lastNotice else h.lastReplied) + 1) % 2 ^ 32

/-- An armed replay run: REPLIES_EXPIRED if needed, then the retained replies and notices after the armed numbers in their order (R491). -/
def replayEntries (s : State) (h : HQueue) (q : Nat) : List HEntry :=
  match h.replay with
  | none => []
  | some (nf, rf) =>
    let old := h.oldest false
    let expired : List HEntry := if seqAfter old ((rf + 1) % 2 ^ 32) then
        [{ notice := true, seq := old, status := 0x030D, opcode := 0, job := q % 64, detail := 0, result := 0, time := s.now, irq := true, replayed := false, unnumbered := true }]
      else []
    expired ++ (h.kept.filter (fun e => seqAfter e.seq (if e.notice then nf else rf))).map (fun e => { e with replayed := true })

/-- A write of ENABLE as 1 (R484). -/
def enableQueue (s : State) (q cfg : Nat) : State :=
  let h := qOf s q
  let h := { h with vector := bits cfg 42 32 }
  if h.enable then setQ s q h
  else if h.qstate = 5 then s
  else
    let h := { h with cqLog2 := bits cfg 19 16, sqLog2 := bits cfg 3 0 }
    if q ≠ 64 ∧ q ≠ 0 ∧ (jobOf s q).st = .free then modQ s q (fun h => { h with qstate := 6 })
    else if 13 ≤ h.cqLog2 ∨ 13 ≤ h.sqLog2 then setQ s q { h with cfgErr := true }
    else setQ s q { h with
      enable := true, qstate := 1, dups := 0, sqHead := 0, sqTail := 0, cqHead := 0, cqTail := 0, phase := true, reading := false, entry := none
      held := replayEntries s h q ++ h.held.filter (fun e => !e.replayed && !e.unnumbered), replay := none }

/-- QUEUE_ENABLE: HST_Q_CFG is written with ENABLE 1 (R484). -/
def execQueueEnable (q cfg : Nat) (s : State) : Host.Outcome State Fault Refusal := onQueue q (enableQueue s q cfg)

/-- A write of ENABLE as 0: ring reads stop and the queue drains (R484). -/
def disableQueue (s : State) (q : Nat) : State :=
  modQ s q (fun h => if h.enable then { h with enable := false, qstate := 5, sqTail := h.sqHead } else h)

/-- QUEUE_DISABLE (R484). -/
def execQueueDisable (q : Nat) (s : State) : Host.Outcome State Fault Refusal := onQueue q (disableQueue s q)

/-- QUEUE_DRAINED: the ring reads and writes already issued have finished and the queue is DISABLED (R484). -/
def execQueueDrained (q : Nat) (s : State) : Host.Outcome State Fault Refusal :=
  onQueue q (modQ s q (fun h => if h.qstate = 5 ∧ !h.reading ∧ h.writing.isEmpty then { h with qstate := 0, entry := none } else h))

/-- HST_Q_REPLAY: an 8-byte write while ENABLE is 0 arms a replay (R479, R491). -/
def execHstQReplay (q v size : Nat) (s : State) : Host.Outcome State Fault Refusal :=
  onQueue q (modQ s q (fun h => if !h.enable ∧ size = 8 then { h with replay := some (bits v 63 32, bits v 31 0) } else h))

/-- An entry treated by its SEQ: accepted, dropped as a duplicate, or the queue stopped; poison stops reading (R486). -/
def acceptEntry (h : HQueue) (e : Option (BitVec 512)) : HQueue :=
  let h := { h with entry := none }
  match e with
  | none => { h with qstate := 7, rdErr := true }
  | some b =>
    let seq := fld b.toNat 4 4
    let next := (h.sqHead + 1) % h.sqSize
    if seq = (h.lastAccepted + 1) % 2 ^ 32 then
      { h with lastAccepted := seq, sqHead := next, cmds := h.cmds ++ [{ seq := seq, raw := b, params := [], stage := .accepted, reply := none, msg := none }] }
    else if !seqAfter seq h.lastAccepted then { h with dups := satAdd 65535 h.dups 1, sqHead := next }
    else { h with qstate := 4, seqErr := true }

/-- SUBMISSION_ENTRY_READ: the next entry's read is issued, and once its data has arrived the entry is treated (R485, R486). -/
def execSubmissionEntryRead (q : Nat) (s : State) : Host.Outcome State Fault Refusal :=
  onQueue q (
    let h := qOf s q
    if !h.enable ∨ h.qstate ≠ 1 then s
    else match h.entry with
      | some e => setQ s q (acceptEntry h e)
      | none =>
        if h.reading || h.sqHead == h.sqTail || decide (32 ≤ h.cmds.length) || h.cqFull || !s.link.up then s
        else hostRead (setQ s q { h with reading := true }) (hostAddr (h.sqBase + 64 * h.sqHead)) 64 (.entry q h.sqHead))

/-- The operand range of SIGNAL and RESET as 32-bit fields, and of a wait; a KTL_OP outside it is dropped with BAD_FIELD (R351, R362, R500; DEDUCED, log entry 119). -/
def operandOk (kop n : Nat) : Bool :=
  if kop = 1 then n != 0 && n != 2 ^ 31 else if kop = 4 then decide (n < 2 ^ 31) else n != 0 && decide (n < 2 ^ 31)

/-- A dropped KTL write recorded (R500). -/
def ktlDrop (s : State) (j status : Nat) : State := modQ s j (fun h => { h with ktlStatus := status, ktlDropped := satAdd (2 ^ 32 - 1) h.ktlDropped 1 })

/-- Whether a job's state admits KTL operations (R500). -/
def ktlAdmits (st : JState) : Bool := st == .active || st == .suspending || st == .suspended || st == .resuming

/-- A KTL operation of job j: checked, sent from the HOST port as the queue's, or dropped (R493, R500). -/
def ktlOp (s : State) (j kop rank operand : Nat) : State :=
  match rankEp s j rank with
  | none => ktlDrop s j 0x0502
  | some e =>
    if e.port ≠ portKettle then ktlDrop s j 0x0106
    else if !operandOk kop operand then ktlDrop s j 0x0102
    else if !ktlAdmits (jobOf s j).st then ktlDrop s j 0x0301
    else sendReq s (hostEp j) j j 4 e (kettleArg kop false operand) []

/-- A KTL row: jobs 1 to 63 have the window (R500). -/
def ktlRow (s : State) (j kop rank operand : Nat) : Host.Outcome State Fault Refusal :=
  if 1 ≤ j ∧ j ≤ 63 then .next (ktlOp s j kop (rank % 65536) (operand % 2 ^ 32)) else .next s

/-- KTL_SIGNAL (R500). -/
def execKtlSignal (j rank operand : Nat) (s : State) : Host.Outcome State Fault Refusal := ktlRow s j 1 rank operand

/-- KTL_RESET (R500). -/
def execKtlReset (j rank operand : Nat) (s : State) : Host.Outcome State Fault Refusal := ktlRow s j 4 rank operand

/-- A write of a KTL_OP register with any KOP (R500). -/
def ktlWrite (s : State) (j v : Nat) : State :=
  if bits v 63 56 = 1 ∨ bits v 63 56 = 4 then ktlOp s j (bits v 63 56) (bits v 47 32) (bits v 31 0) else ktlDrop s j 0x0102

/-- SNOOP_RESPONSE: every CXL.cache snoop is answered with RspIHitI (R475). -/
def execSnoopResponse (addr : Nat) (s : State) : Host.Outcome State Fault Refusal := .next (emit s (.snoop addr))

/-- The status that an ERROR reply or timeout gives a host command, and its DETAIL (R587). -/
def hostStatus (scode : Bool) (code : Nat) : Nat × Nat :=
  if scode then (code, 0)
  else if code = 0x0508 ∨ code = 0x0506 then (0x0304, code)
  else if code = 0x0507 ∨ code = 0x0502 then (0x0301, code)
  else (0x0401, code)

end Sys2Proof.Machine
end

