-- ==== Sys2Proof/Machine/Releases.lean ====
section
/-! DEFINITION. Sys2Proof/Machine/Releases.lean: RELEASE, replies, timeouts, withdrawals of held messages, and fences (R44, R331, R335, R336, R356 to R360, R587). -/

namespace Sys2Proof.Machine

/-- The wait commands of a host queue (R494, R498). -/
def HCmd.isWait (c : HCmd) : Bool := c.opcode == 0x0403 || c.opcode == 0x0404

/-- A released host wait: its reply is made with the value (R365, R366, R498). -/
def hostReleased (s : State) (q value : Nat) : State :=
  match (qOf s q).cmds.find? (fun c => c.isWait && c.stage == .working) with
  | some c => finishCmd s q c.seq 0 0 value
  | none => s

/-- A released wait of the sequence-table unit (R465). -/
def seqReleased (s : State) (die : Nat) : State :=
  { s with seqs := Tab.modify seqUnitInitial die (fun u => if u.waiting then { u with waiting := false, released := true } else u) s.seqs }

/-- A task context whose kettle wait ends (R104, R358). -/
def ctxReleased (s : State) (die site n : Nat) : State :=
  match siteKind site with
  | some .mTile =>
    let t := mtOf s die site
    let c := t.ctx n
    if c.st = .blocked ∧ c.wait = .sent then setMt s die site (t.setCtx n { c with st := .waiting, wait := .released }) else s
  | some .vTile =>
    let t := vtOf s die site
    let c := t.ctx n
    if c.st = .blocked ∧ c.wait = .sent then setVt s die site (t.setCtx n { c with st := .waiting, wait := .released }) else s
  | _ => s

/-- A stream whose trigger wait ends (R252). -/
def triggerReleased (s : State) (die site slot : Nat) : State :=
  modSlot s die site slot (fun x => match x.phase with
    | .trigger .sent => { x with phase := .running }
    | _ => x)

/-- The effect of a RELEASE at the waiter's endpoint (R356, R358, R365). -/
def releaseAt (s : State) (e : Ep) (issuer value : Nat) : State :=
  if e.site ≠ blockSite then
    if e.port = portStream then triggerReleased s e.die e.site issuer else ctxReleased s e.die e.site e.index
  else if e.port = portCore then coreRelease s e.die e.index value
  else if e.port = portHost then hostReleased s e.index value
  else if e.port = portSeq then seqReleased s e.die
  else s

/-- RELEASE: the waiting issuer resumes with the value (R351, R356). -/
def execRelease (m : Msg) (s : State) : Host.Outcome State Fault Refusal :=
  applyMsg s m (fun s => if m.typ = 4 ∧ kopOf m = 5 then ack (releaseAt s m.dst m.issuer (koperandOf m)) m else s)

/-- The reply of a host command's mull request (R498, R587). -/
def hostReply (s : State) (q : Nat) (o : Outst) (r : Msg) : State :=
  match (qOf s q).cmds.find? (fun c => c.msg == some o.msg.msgId && c.stage == .working) with
  | none => s
  | some c =>
    if r.typ = 0x83 then
      let st := hostStatus r.scode r.status
      let full := match o.st with
        | .refused 1 _ => true
        | _ => false
      let st := if r.status == 0x0502 && c.isWait && full then (0x0401, 0x0502) else st
      finishCmd s q c.seq st.1 st.2 0
    else if c.isWait then (if r.typ = 0x81 then finishCmd s q c.seq 0 0 (fld (r.data.headD 0).toNat 0 4) else s)
    else finishCmd s q c.seq 0 0 0

/-- A release that ended in an error or a timeout (R360). -/
def releaseLost (s : State) (o : Outst) : State :=
  raiseContained s 0x0604 o.msg.job o.msg.src.die 7 o.msg.src.index (packEp o.msg.dst * 2 ^ 32 + o.msg.issuer % 65536 * 2 ^ 16)

/-- A final outcome passed to the issuer; a reply to a discarded stream is dropped (R265, R271, R331, R353, R360, R383, R391, R587). -/
def deliver (s : State) (o : Outst) (r : Msg) : State :=
  let e := o.msg.src
  if e.site ≠ blockSite then
    if o.msg.typ = 4 then
      if (kopOf o.msg = 2 ∨ kopOf o.msg = 3) ∧ r.typ = 0x81 then releaseAt s e o.msg.issuer 0 else s
    else if e.port = portStream then
      if o.msg.issuer = recordIssuer 8 then
        (if r.typ = 0x83 then recordFailed s o.msg.job e.die e.site o.msg.arg.toNat r.status r.scode else s)
      else
        let en := enOf s e.die e.site
        if !List.any en.slots (fun (x : Nat × Strm) => x.2.outst.any (fun q => q.id == o.msg.msgId)) then s
        else setEn s e.die e.site { en with inbox := en.inbox ++ [{ id := o.msg.msgId, typ := r.typ, status := r.status, scode := r.scode, data := r.data, word := r.arg.toNat }] }
    else s
  else if e.port = portCore then coreReply s e.die e.index r
  else if e.port = portHost then hostReply s e.index o r
  else if e.port = portKettle then
    settleWithdraws (if r.typ = 0x83 then releaseLost s o else s) e.die
  else if e.port = portSeq then
    if (kopOf o.msg = 2) ∧ r.typ = 0x81 then seqReleased s e.die else s
  else s

/-- A request whose final outcome is known leaves its NI, and the next ones are sent (R332, R334). -/
def dropOut (s : State) (die site msgId : Nat) : State :=
  pump 4 (modNi s die site (fun n => { n with out := n.out.filter (fun o => o.msg.msgId != msgId) })) die site

/-- A withdrawn message counts as not sent: its issuer is told (R336, R272, R400). -/
def withdrawn (s : State) (o : Outst) : State :=
  let e := o.msg.src
  if e.site = blockSite ∧ e.port = portCore then coreWithdrawn s e.die e.index o.msg
  else if e.site ≠ blockSite ∧ e.port = portStream then
    let en := enOf s e.die e.site
    setEn s e.die e.site { en with relist := en.relist ++ [o.msg] }
  else s

/-- A reply taken at the source NI: a refusal schedules a retry, a final reply is passed to the issuer (R331, R335, R336). -/
def takeFinal (s : State) (m : Msg) : State :=
  let die := m.dst.die
  let site := m.dst.site
  if !(niOf s die site).replies.contains m || m.typ = 0x84 then s
  else
    let s := modNi s die site (fun n => { n with replies := n.replies.erase m })
    match outOf s die site m.msgId with
    | none => s
    | some o =>
      if o.msg.src ≠ m.dst then s
      else if m.typ = 0x82 then
        if o.st = .withdrawing then withdrawn (dropOut s die site m.msgId) o
        else modOut s die site m.msgId (fun o => { o with
          st := .refused m.status s.now
          partedSince := if m.status = 3 then (match o.partedSince with
            | some t => some t
            | none => some s.now) else none })
      else if o.st = .withdrawing ∧ m.typ = 0x80 ∧ m.arg = 1 then withdrawn (dropOut s die site m.msgId) o
      else deliver (dropOut s die site m.msgId) o m

/-- REPLY_RECEIVED: the source NI receives a reply (R331, R335). -/
def execReplyReceived (m : Msg) (s : State) : Host.Outcome State Fault Refusal := onDie m.dst.die (takeFinal s m)

/-- MULL_TIMEOUT: a request without its final reply at its limit is ended; a kettle wait that is still refused faults its job (R335, R359, R360). -/
def execMullTimeout (die site msgId : Nat) (s : State) : Host.Outcome State Fault Refusal :=
  onDie die (
    match outOf s die site msgId with
    | none => s
    | some o =>
      if !overdue s o ∨ (o.msg.src.port = portStream ∧ o.msg.src.site ≠ blockSite ∧ o.msg.typ ≠ 4 ∧ o.msg.issuer ≠ recordIssuer 8) then s
      else
        let full := o.msg.typ == 4 && (kopOf o.msg == 2 || kopOf o.msg == 3) && (match o.st with
          | .refused 1 _ => true
          | _ => false)
        let s := dropOut s die site msgId
        let s := if full then raiseContained s 0x0502 o.msg.job o.msg.dst.die 7 o.msg.dst.index 0 else s
        deliver s o (localReply o.msg 0x0502))

/-- A held message discarded at its destination: an S-tile command, a pending swap, or an issued descriptor (R336). -/
def discardHeld (s : State) (m : Msg) : State :=
  let s := modNi s m.dst.die m.dst.site (fun n => { n with rx := n.rx.filter (fun b => !sameMsg b.msg m) })
  if m.dst.site ≠ blockSite ∧ isSp (siteKind m.dst.site) then
    let t := spOf s m.dst.die m.dst.site
    setSp s m.dst.die m.dst.site { t with
      cmds := t.cmds.filter (fun c => !sameMsg c.msg m)
      quires := t.quires.map (fun e => (e.1, { e.2 with pending := match e.2.pending with
        | some p => if sameMsg p m then none else some p
        | none => none })) }
  else s

/-- WITHDRAW_HELD: a message still held is discarded and acknowledged, the ACK told apart by its ARG; a message already applied has had its own reply (R336; log entry 21). -/
def execWithdrawHeld (m : Msg) (s : State) : Host.Outcome State Fault Refusal :=
  onDie m.dst.die (
    if (niOf s m.dst.die m.dst.site).rx.any (fun b => sameMsg b.msg m) then
      let s := discardHeld s m
      let r : Msg := { m with typ := 0x80, dst := m.src, src := m.dst, seq := 0, status := 0, scode := false, dep := false, data := [], arg := 1 }
      { s with net := { s.net with packets := s.net.packets ++ packetsOf r 2 } }
    else s)

/-- The command of a queue whose FENCE the queue has issued: the next to start, its parameters read (R489). -/
def fencing (s : State) (q : Nat) : Option HCmd :=
  match nextCmd s q with
  | some c => if c.stage = .ready ∧ c.fence ≠ 0 then some c else none
  | none => none

/-- Whether the operations that a host queue's fence covers are done, its record writes among them (R273, R274). -/
def hostFenceDone (s : State) (q kind : Nat) : Bool :=
  fenceDone s (hostEp q) q (kind == 1 || kind == 4) (kind == 2 || kind == 4) (kind == 3 || kind == 4)
    && (!(kind == 3 || kind == 4) || s.host.writes.all (fun w => match w.use with
      | .command q' _ => q' != q
      | _ => true))

/-- FENCE_COMPLETE: a fence completes once every covered operation is done, and its issuer goes on; a host queue's release signal that waited for the same leaves (R44, R45, R273, R274). -/
def execFenceComplete (issuer : Ep) (s : State) : Host.Outcome State Fault Refusal :=
  onDie issuer.die (
    if issuer.site ≠ blockSite then s
    else if issuer.port = portCore then coreFenceComplete s issuer.die issuer.index
    else if issuer.port = portHost then
      let s' := match fencing s issuer.index with
        | some c => if !behind (qOf s issuer.index) c && hostFenceDone s issuer.index c.fence then modCmd s issuer.index c.seq (fun c => { c with stage := .fenced }) else s
        | none => s
      pump (niOf s issuer.die issuer.site).out.length s' issuer.die issuer.site
    else s)

end Sys2Proof.Machine
end

