-- ==== Sys2Proof/Machine/SiteConfig.lean ====
section
/-! DEFINITION. Sys2Proof/Machine/SiteConfig.lean: site configuration images, the writing of a signature into its sites, blanking and the scrub (R309, R405, R406, R412 to R415, R424, R452). -/

namespace Sys2Proof.Machine

/-- The frame of a die, column and index: one that names the die before a broadcast one (R412, R415). -/
def Sig.frame? (g : Sig) (die col f : Nat) : Option (BitVec 8192) :=
  match g.frames.find? (fun r => r.1 == die && r.2.1 == col && r.2.2.1 == f) with
  | some r => some r.2.2.2
  | none => (g.frames.find? (fun r => r.1 == 0x7F && r.2.1 == col && r.2.2.1 == f)).map (fun r => r.2.2.2)

/-- Word k of a site configuration image, 0 where no frame carries it (R412, R413). -/
def Sig.imageWord (g : Sig) (die site k : Nat) : Nat :=
  match g.frame? die (site % 24) (site / 24 * 32 + k / 32) with
  | some d => d.toNat / 2 ^ (256 * (k % 32)) % 2 ^ 256
  | none => 0

/-- The field of size bytes at an offset of a site configuration image (R413). -/
def Sig.image (g : Sig) (die site off size : Nat) : Nat :=
  ((upTo ((off % 32 + size + 31) / 32)).foldl (fun n i => n + g.imageWord die site (off / 32 + i) * 2 ^ (256 * i)) 0) / 2 ^ (8 * (off % 32)) % 2 ^ (8 * size)

/-- Whether a site's image holds anything from byte 0x1000 on, the tile's configuration (R413). -/
def Sig.tileUsed (g : Sig) (die site : Nat) : Bool := (upTo 896).any (fun k => g.imageWord die site (128 + k) != 0)

/-- Entry k of an S-tile's range table (R181, R413). -/
def Sig.range (g : Sig) (die site k : Nat) : SpRange :=
  let f (off size : Nat) := g.image die site (0x1100 + 16 * k + off) size
  { kind := f 0 1, readers := f 1 1, init := f 2 1, base := f 4 4, count := f 8 4 }

/-- A quire descriptor (R192, R413). -/
def Sig.quireDesc (g : Sig) (die site q : Nat) : Nat := g.image die site (0x1200 + 32 * q) 32

/-- A channel descriptor (R187, R413). -/
def Sig.chanDesc (g : Sig) (die site n : Nat) : Nat := g.image die site (0x1400 + 64 * n) 64

/-- Slots that a list of tags holds FULL in a run of slots (R193). -/
def fullIn (tags : Tab Nat) (base count : Nat) : Nat := (List.filter (fun (e : Nat × Nat) => e.2 != 0 && decide (base ≤ e.1) && decide (e.1 < base + count)) tags).length

/-- The tags after the INIT fields of a range table have acted (R181). -/
def initTags (rs : List SpRange) (tags : Tab Nat) : Tab Nat :=
  rs.foldl (fun t r =>
    if r.kind ≠ 1 ∨ r.init = 0 then t
    else
      let t := List.filter (fun (e : Nat × Nat) => !(decide (r.base ≤ e.1) && decide (e.1 < r.base + r.count))) t
      if r.init = 2 then (upTo r.count).foldl (fun t k => Tab.set (r.base + k) r.readers t) t else t) tags

/-- An S-tile as its signature loads it; its data stay, and a quire in no TAGGED range counts no FULL slot (R181, R187, R192, R193, R200, R207). -/
def Sig.loadSTile (g : Sig) (die site : Nat) (old : STile) : STile :=
  let rs := (upTo 16).map (g.range die site)
  let tags := initTags rs old.tags
  { sTileInitial with
    ranges := if rs.all (fun r => r.kind == 0) then [] else rs
    tags := tags
    gatherMode := bit (g.image die site 0x1000 1) 0
    quires := ((upTo 16).filter (fun q => bit (g.quireDesc die site q) 0)).map (fun q =>
      let f := fld (g.quireDesc die site q)
      let full (base : Nat) : Nat := if (nth { kind := 0, readers := 0, init := 0, base := 0, count := 0 } (f 1 1) rs).kind = 1 then fullIn tags base (f 8 4) else 0
      (q, { quireInitial with
        en := true, range := f 1 1, swapKettle := f 2 2, base := f 4 4, leafSlots := f 8 4, sig := bit (f 12 1) 0, rel := bit (f 12 1) 1
        full0 := full (f 4 4), full1 := full (f 4 4 + f 8 4) }))
    chans := ((upTo 8).filter (fun n => bit (g.chanDesc die site n) 0)).map (fun n =>
      (n, { chanInitial with desc := BitVec.ofNat 512 (g.chanDesc die site n), runsLeft := fld (g.chanDesc die site n) 32 4 })) }

/-- A context's descriptor and the descriptors of its ring (R121, R163, R413). -/
def Sig.ctxDesc (g : Sig) (die site base c : Nat) : BitVec 512 := BitVec.ofNat 512 (g.image die site (base + 0x440 * c) 64)
def Sig.ring (g : Sig) (die site base c count : Nat) : List (BitVec 512) :=
  (upTo (min 16 count)).map (fun k => BitVec.ofNat 512 (g.image die site (base + 0x440 * c + 64 + 64 * k) 64))

/-- An M-tile as its signature loads it; its weight store keeps its data (R94, R121, R122, R406). -/
def Sig.loadMTile (g : Sig) (die site : Nat) (old : MTile) : MTile :=
  { mTileInitial with
    row := old.row, col := old.col, rowExp := old.rowExp, colExp := old.colExp, mac := old.mac
    site := BitVec.ofNat 256 (g.image die site 0x1000 32)
    ctxs := (upTo 4).map (fun c =>
      let d := g.ctxDesc die site 0x1040 c
      if bit (dfld d 0 1) 0 then
        { mCtxInitial with desc := d, ring := if dfld d 1 1 = 0 then g.ring die site 0x1040 c (dfld d 16 1) else [], repeatsLeft := dfld d 20 4, st := .waiting }
      else mCtxInitial) }

/-- A V-tile as its signature loads it (R138, R163). -/
def Sig.loadVTile (g : Sig) (die site : Nat) : VTile :=
  { vTileInitial with
    site := BitVec.ofNat 2304 (g.image die site 0x1000 288)
    chains := ((upTo 16).filter (fun k => g.image die site (0x1200 + 288 * k) 1 != 0)).map (fun k =>
      (k, (upTo 9).map (fun i => BitVec.ofNat 256 (g.image die site (0x1200 + 288 * k + 32 * i) 32))))
    ctxs := (upTo 4).map (fun c =>
      let d := g.ctxDesc die site 0x2400 c
      if bit (dfld d 0 1) 0 then
        { vCtxInitial with desc := d, ring := if dfld d 1 1 = 0 then g.ring die site 0x2400 c (dfld d 2 1) else [], repeatsLeft := dfld d 4 4, st := .waiting }
      else vCtxInitial) }

/-- An F-tile as its signature loads it (R167). -/
def Sig.loadFTile (g : Sig) (die site : Nat) : FTile :=
  { fTileInitial with links := (upTo 2).map (fun l =>
      let d := g.image die site (0x1000 + 32 * l) 32
      { fLinkInitial with desc := BitVec.ofNat 256 d, runsLeft := fld d 20 4 }) }

/-- An endpoint entry: a source starts with its sink's capacity in credits, a sink with all its places free (R286, R299). -/
def epEntry (n : Nat) : GrainEp :=
  { circuit := bits n 63 48, kind := bits n 47 46, border := bit n 45, stopped := false, job := bits n 43 38, rate := bits n 37 31, capacity := bits n 23 16
    tport := bits n 15 12, ctx := bits n 11 10, credits := bits n 23 16, owed := 0 }

/-- A grain switch as its signature loads it (R281, R298, R299, R302). -/
def Sig.loadGrain (g : Sig) (die site : Nat) : GrainSite :=
  let x := siteKind site == some .xTile
  { grainInitial with
    slots := ((upTo 832).map (fun k => (k, g.image die site (4 * k) 4))).filter (fun e => e.2 != 0)
    els := ((upTo 10).filter (fun n => bit (g.image die site (0xD00 + 16 * n) 1) 0)).map (fun n =>
      (n, { grainElInitial with desc := BitVec.ofNat 128 (g.image die site (0xD00 + 16 * n) 16) }))
    eps := ((upTo 32).filter (fun n => bits (g.image die site (0xE00 + 8 * n) 8) 47 46 != 0)).map (fun n => (n, epEntry (g.image die site (0xE00 + 8 * n) 8)))
    xout := if x then ((upTo 125).map (fun j => (j, g.image die site (0x1000 + 4 * j) 4))).filter (fun e => e.2 != 0) else []
    xin := if x then ((upTo 125).map (fun j => (j, g.image die site (0x1200 + 4 * j) 4))).filter (fun e => e.2 != 0) else [] }

/-- The static stream descriptors of a site in slot order (R245, R413). -/
def Sig.staticStreams (g : Sig) (die site : Nat) : List (BitVec 1280) :=
  ((upTo 16).map (fun i => BitVec.ofNat 1280 (g.image die site (0x2000 + 0xA0 * i) 160))).filter (fun d => fld d.toNat 0 1 != 0)

/-- A signature's frames written into one site (R412, R413, R424 step 6). -/
def writeSite (s : State) (g : Sig) (die site : Nat) : State :=
  let key := siteKey die site
  let s := { s with grain := Tab.set key (g.loadGrain die site) s.grain }
  match siteKind site with
  | some .sTile => setSp s die site (g.loadSTile die site (spOf s die site))
  | some .dpTile => setSp s die site (g.loadSTile die site (spOf s die site))
  | some .mTile => setMt s die site (g.loadMTile die site (mtOf s die site))
  | some .vTile => setVt s die site (g.loadVTile die site)
  | some .fTile => setFt s die site (g.loadFTile die site)
  | _ => s

/-- Whether a signature has anything for a site. -/
def Sig.touches (g : Sig) (die site : Nat) : Bool := g.frames.any (fun r => (r.1 == die || r.1 == 0x7F) && r.2.1 == site % 24 && r.2.2.1 / 32 == site / 24)

/-- The sites of a region on its usable dies. -/
def regionSites (s : State) (r : Region) : List (Nat × Nat) :=
  (r.bounds.dieList.filter (fun d => !(dieOf s d).fenced)).flatMap (fun d => (r.bounds.siteList d).map (fun k => (d, k)))

/-- Whether a site key lies in a region's bounds. -/
def Region.hasKey (r : Region) (key : Nat) : Bool := r.bounds.holds (key / 1024) (key % 1024)

/-- What a circuit's sink gives: f of its endpoint, or g of the element and input that it feeds (R286). -/
def circuitEnd (s : State) (job circuit : Nat) (f : GrainEp → Nat) (g : Nat → Nat → GrainEl → Nat) : Option Nat :=
  match List.findSome? (fun (k : Nat × GrainSite) => k.2.sinkOf job circuit) s.grain with
  | some (_, p) => some (f p)
  | none => List.findSome? (fun (k : Nat × GrainSite) =>
      (List.find? (fun (e : Nat × Nat) => entValid e.2 && entJob e.2 == job && entCircuit e.2 == circuit && decide (24 * 16 ≤ e.1)) k.2.slots).bind (fun e =>
        (tableElement (e.1 / 16)).map (fun p => g p.1 p.2 (k.2.el p.1)))) s.grain

/-- The capacity of a circuit's sink, none where no sink stands (R286, R299). -/
def circuitCapacity (s : State) (job circuit : Nat) : Option Nat := circuitEnd s job circuit GrainEp.capacity elementCapacity

/-- The free places that a circuit's sink reports, none where no sink stands (R286, R309). -/
def circuitFree (s : State) (job circuit : Nat) : Option Nat := circuitEnd s job circuit GrainEp.credits (fun n i x => elementCapacity n i x - x.held n i)

/-- The circuit of an element's output at a site (R281, R283). -/
def GrainSite.outCircuit (g : GrainSite) (n o : Nat) : Option (Nat × Nat) :=
  (List.find? (fun (e : Nat × Nat) => entValid e.2 && srcElement (entSrc e.2) (entLane e.2) == some (n, o)) g.slots).map (fun e => (entJob e.2, entCircuit e.2))

/-- The credits of a site's element outputs set to the capacity of their sinks; an endpoint's were set with its entry (R286, R299). -/
def creditSite (s : State) (key : Nat) : State :=
  match Tab.find? key s.grain with
  | none => s
  | some g =>
    let cap (n o : Nat) : Nat := ((g.outCircuit n o).bind (fun c => circuitCapacity s c.1 c.2)).getD 0
    { s with grain := Tab.set key { g with els := g.els.map (fun e => (e.1, { e.2 with cred0 := cap e.1 0, cred1 := cap e.1 1 })) } s.grain }

/-- Credits that a resumed circuit had on its way back at a site dropped: those on its sidebands, and those its freed places still owed (R309). -/
def GrainSite.dropOwed (g : GrainSite) (cs : List (Nat × Nat)) : GrainSite :=
  let mine (e : Nat) : Bool := entValid e && cs.contains (entJob e, entCircuit e)
  { g with
    backs := g.backs.filter (fun b => !mine (Tab.get 0 b.1 g.slots))
    eps := g.eps.map (fun e => if cs.contains (e.2.job, e.2.circuit) then (e.1, { e.2 with owed := 0 }) else e)
    els := g.els.map (fun e => (e.1, { e.2 with owed := (upTo 4).map (fun i =>
      if (upTo 16).any (fun sl => mine (g.entry (elementTable e.1 i) sl)) then 0 else nth 0 i e.2.owed) })) }

/-- The jobs and circuits that the slot tables and endpoints of a region's sites name (R309). -/
def regionCircuits (s : State) (r : Region) : List (Nat × Nat) :=
  (List.flatMap (fun (k : Nat × GrainSite) => if r.hasKey k.1 then
      (k.2.slots.filter (fun e => entValid e.2)).map (fun e => (entJob e.2, entCircuit e.2)) ++ k.2.eps.map (fun e => (e.2.job, e.2.circuit))
    else []) s.grain).eraseDups

/-- STOPPED set or cleared at both ends of the border circuits of a region (R309). -/
def setStopped (s : State) (r : Region) (v : Bool) : State :=
  let cs := regionCircuits s r
  { s with grain := s.grain.map (fun k => (k.1, { k.2 with eps := k.2.eps.map (fun e => if e.2.border && cs.contains (e.2.job, e.2.circuit) then (e.1, { e.2 with stopped := v }) else e) })) }

/-- One word on a link of a region moved on: its entry's destination takes it (R309). -/
def flushWord (s : State) (die site key : Nat) : State :=
  let g := grOf s die site
  let slot := (key % 16 + 1) % 16
  match (upTo 52).find? (fun t => entValid (g.entry t slot) && entSrc (g.entry t slot) * 8 + entLane (g.entry t slot) == key / 16 && decide (entSrc (g.entry t slot) < 4)) with
  | some t =>
    match slotTake s die site (g.entry t slot) slot with
    | some (w, s') => (slotPut s' die site t slot w).getD s
    | none => s
  | none => s

/-- Words on the links of a region. -/
def regionLinks (s : State) (r : Region) : List (Nat × Nat) :=
  List.flatMap (fun (k : Nat × GrainSite) => if r.hasKey k.1 then k.2.links.map (fun l => (k.1, l.1)) else []) s.grain

/-- Words already on links reach their sink, element or edge-in buffer before the sites go blank, and words at an edge cross it (R309). -/
def flushLinks : Nat → State → Region → State
  | 0, s, _ => s
  | n + 1, s, r =>
    match regionLinks s r with
    | [] => s
    | ls => flushLinks n (ls.foldl (fun s l => flushWord s (l.1 / 1024) (l.1 % 1024) l.2) s) r

/-- A word that waits at an edge put into the edge-in buffer across it, decoded there, while that buffer has room (R303, R307, R309). -/
def flushEdge (s : State) (die site : Nat) (p : Nat × Nat) (w : GrainWord) : State :=
  if 128 ≤ (grOf s p.1 p.2).edgeIn.length then s
  else
    let g := grOf s die site
    let r := grainDecode (setGr s die site { g with edgeOut := g.edgeOut.erase w }) p.1 p.2 w 0x43010
    match r.2 with
    | some v =>
      let o := grOf r.1 p.1 p.2
      setGr r.1 p.1 p.2 { o with edgeIn := o.edgeIn ++ [{ w with word := v, flip := 0 }] }
    | none => r.1

/-- Words that wait at a region's edges for their slot enter the edge-in buffer across it (R303, R309). -/
def flushEdges (s : State) (r : Region) : State :=
  List.foldl (fun s (k : Nat × GrainSite) =>
    if r.hasKey k.1 then
      match edgePeer (k.1 / 1024) (k.1 % 1024) with
      | some p => k.2.edgeOut.foldl (fun s w => flushEdge s (k.1 / 1024) (k.1 % 1024) p w) s
      | none => s
    else s) s s.grain

/-- Whether no word of a region still waits to cross an edge link that works (R309). -/
def edgesFlushed (s : State) (r : Region) : Bool :=
  List.all s.grain (fun (k : Nat × GrainSite) => !r.hasKey k.1 || k.2.edgeOut.isEmpty
    || s.net.lostGroups.contains (groupKey (k.1 / 1024) (xEdge (k.1 % 1024)).1 (xEdge (k.1 % 1024)).2))

/-- A circuit's end of one kind: its site's key, its endpoint's number and the endpoint. -/
def circuitAt (s : State) (kind job circuit : Nat) : Option (Nat × Nat × GrainEp) :=
  List.findSome? (fun (k : Nat × GrainSite) => (if kind = 1 then k.2.sourceOf job circuit else k.2.sinkOf job circuit).map (fun p => (k.1, p))) s.grain

/-- The words that a circuit's source can send and its sink take brought across at once (R162, R286). -/
def carryWords (job circuit : Nat) : Nat → State → State
  | 0, s => s
  | f + 1, s =>
    match circuitAt s 1 job circuit, circuitAt s 2 job circuit with
    | some (k, n, p), some (k2, n2, q) =>
      if p.credits = 0 ∨ q.credits = 0 then s
      else match tileTake s (k / 1024) (k % 1024) p with
        | none => s
        | some (w, s) =>
          let s := modEp s (k / 1024) (k % 1024) n (fun p => { p with credits := p.credits - 1 })
          let s := modEp s (k2 / 1024) (k2 % 1024) n2 (fun p => { p with credits := p.credits - 1 })
          carryWords job circuit f (tileGive s (k2 / 1024) (k2 % 1024) q w)
    | _, _ => s

/-- The credits that a circuit's sink owes brought to its source at once. -/
def carryCredits (s : State) (job circuit : Nat) : State :=
  match circuitAt s 1 job circuit, circuitAt s 2 job circuit with
  | some (k, n, _), some (k2, n2, q) =>
    let s := modEp s (k2 / 1024) (k2 % 1024) n2 (fun p => { p with owed := 0 })
    modEp s (k / 1024) (k % 1024) n (fun p => { p with credits := p.credits + q.owed })
  | _, _ => s

/-- The beats that an F-tile link in FCALL mode has ready computed, none at a fenced tile (R162, R165). -/
def finishBeats (die site link : Nat) : Nat → State → State
  | 0, s => s
  | n + 1, s =>
    let l := nth fLinkInitial link (ftOf s die site).links
    if l.f 0 1 = 1 ∧ l.ready ∧ !(dieOf s die).fencedSites.contains site then finishBeats die site link n (linkBeat s die site link l) else s

/-- A V-tile's F links followed once: its requests reach their F-tiles, which compute them, and the results return into the chain (R152, R162). -/
def chainRound (s : State) (job die site : Nat) : State :=
  let s := (upTo 2).foldl (fun s l =>
    let d := (vtOf s die site).site.toNat
    let req := fld d (4 * l) 2
    let ret := fld d (4 * l + 2) 2
    let s := carryWords job req 64 s
    let s := match circuitAt s 2 job req with
      | some (k, _, q) => if siteKind (k % 1024) = some .fTile then finishBeats (k / 1024) (k % 1024) q.tport 32 s else s
      | none => s
    carryCredits (carryCredits (carryWords job ret 64 s) job req) job ret) s
  takeReturns s die site

/-- The vectors that have issued at a region's V-tiles leave the chain, every FCALL return having arrived (R162). -/
def finishChains (s : State) (r : Region) : State :=
  List.foldl (fun s (e : Nat × VTile) =>
    if r.hasKey e.1 then (upTo 64).foldl (fun s _ => if (vtOf s (e.1 / 1024) (e.1 % 1024)).chain.isEmpty then s else chainRound s r.job (e.1 / 1024) (e.1 % 1024)) s else s) s s.vTiles

/-- Whether no vector is in the chain of a region's V-tiles. -/
def chainsEmpty (s : State) (r : Region) : Bool := List.all s.vTiles (fun (e : Nat × VTile) => !r.hasKey e.1 || e.2.chain.isEmpty)

/-- A counter of a job raised (R472). -/
def jobCount (s : State) (j off n : Nat) : State :=
  if n = 0 then s else modJob s j (fun x => { x with counters := Tab.modify 0 off (fun v => telRaise v n) x.counters })

/-- The TEL register of a site that a job counter sums: counter offset and window offset (R472). -/
def summed (k : Option SiteKind) : List (Nat × Nat) :=
  match k with
  | some .mTile => [(0x18, 0x58), (0x20, 0x60)]
  | some .vTile => [(0x28, 0x80)]
  | some .dpTile => [(0x30, 0x348)]
  | some .xTile => [(0x30, 0x348)]
  | _ => []

/-- A site register's rise since it was last summed added to its job's counter (R472). -/
def sumSite (s : State) (j die site : Nat) (p : Nat × Nat) : State :=
  let key := cfgKey die site p.2
  let now := telGet s die site p.2 % 2 ^ 48
  let old := Tab.get 0 key (jobOf s j).base
  if now = old then s
  else modJob (jobCount s j p.1 ((now + 2 ^ 48 - old) % 2 ^ 48)) j (fun x => { x with base := Tab.set key now x.base })

/-- Every register of a region's sites summed into its job's counters (R472). -/
def sumRegion (s : State) (r : Region) : State :=
  (regionSites s r).foldl (fun s k => (summed (siteKind k.2)).foldl (fun s p => sumSite s r.job k.1 k.2 p) s) s

/-- The counters of a region's sites summed a last time before they go blank, and counted from 0 after it (R130, R472; DESIGN CHOICE, log entry 91). -/
def settleCounts (s : State) (r : Region) : State :=
  modJob (sumRegion s r) r.job (fun x => { x with base := x.base.filter (fun e => !r.hasKey (e.1 / 2 ^ 19)) })

/-- TEL registers and LAST_FAULT of a region's sites at their reset values, the mull routers' own apart (R130, R346, R406). -/
def resetRegs (s : State) (r : Region) : State :=
  { s with
    tel := s.tel.filter (fun e => decide (2 ^ 40 ≤ e.1) || !r.hasKey (e.1 / 2 ^ 19) || decide (0x50000 ≤ e.1 % 2 ^ 19))
    lastFault := s.lastFault.filter (fun e => !(r.bounds.holds (e.1 / 1024 % 1024) (e.1 % 1024))) }

/-- The sites of a region blank: S-tiles keep data and tags, M-tiles their weight data, everything else is cleared (R207, R406, R424 step 5). -/
def blankRegion (s : State) (r : Region) : State :=
  let s := resetRegs (settleCounts s r) r
  { s with
    sTiles := s.sTiles.map (fun e => if r.hasKey e.1 then (e.1, { sTileInitial with tags := e.2.tags }) else e)
    mTiles := s.mTiles.map (fun e => if r.hasKey e.1 then (e.1, { mTileInitial with row := e.2.row, col := e.2.col, rowExp := e.2.rowExp, colExp := e.2.colExp, mac := e.2.mac }) else e)
    vTiles := s.vTiles.filter (fun e => !r.hasKey e.1)
    fTiles := s.fTiles.filter (fun e => !r.hasKey e.1)
    grain := s.grain.filter (fun e => !r.hasKey e.1)
    engines := s.engines.filter (fun e => !r.hasKey e.1)
    net := { s.net with nis := s.net.nis.map (fun (e : Nat × Ni) => if r.hasKey e.1 then (e.1, { e.2 with rx := e.2.rx.filter (fun b => b.msg.dst.port == portNear || b.stage != .delivered) }) else e) } }

/-- The sequence-table units that serve a region. -/
def regionSeqs (s : State) (n : Nat) : List Nat := (List.filter (fun (e : Nat × SeqUnit) => e.2.region == n) s.seqs).map (·.1)

/-- The windows of cluster memory of a region on its dies: die, base, size (R385). -/
def regionWindows (r : Region) : List (Nat × Nat × Nat) := r.bounds.dieList.flatMap (fun d => (r.windows d none).map (fun w => (d, w.1, w.2.1)))

/-- Whether an address lies in a scratchpad of a region or in one of its cluster windows. -/
def Region.holdsAddr (r : Region) (a : Nat) : Bool :=
  if spaceOf a = 3 then (match spSite (bits a 28 21) with
    | some k => r.bounds.holds (bits a 35 29) k
    | none => false)
  else if spaceOf a = 4 then (regionWindows r).any (fun w => w.1 == bits a 35 29 && decide (w.2.1 ≤ bits a 22 0) && decide (bits a 22 0 < w.2.1 + w.2.2))
  else false

/-- The cores that a region's signature assigns: die and core. -/
def regionCores (r : Region) : List (Nat × Nat) := r.bounds.dieList.flatMap (fun d => ((upTo 32).filter (fun c => bit (r.coreMask d) c)).map (fun c => (d, c)))

/-- Cores set OFF, their registers kept for DBG where a register of R402 says so (R401). -/
def offCores (s : State) (r : Region) : State := (regionCores r).foldl (fun s c => modCore (endStall s c.1 c.2) c.1 c.2 (fun x => { x with st := .off, meip := false, relist := [] })) s

/-- The scrub of a region's sites, cores, cluster windows and sequence-table unit: all of it zero and blank (R406, R452). -/
def scrubRegion (s : State) (n : Nat) (r : Region) : State :=
  let s := blankRegion s r
  let s := (regionCores r).foldl (fun s c => setCore s c.1 c.2 coreInitial) s
  { s with
    sTiles := s.sTiles.filter (fun e => !r.hasKey e.1)
    mTiles := s.mTiles.filter (fun e => !r.hasKey e.1)
    mem := s.mem.filter (fun c => !r.holdsAddr c.1)
    flips := s.flips.filter (fun e => !r.holdsAddr e.1)
    seqs := s.seqs.filter (fun e => e.2.region != n) }

end Sys2Proof.Machine
end

