-- ==== Sys2Proof/Machine/Checks.lean ====
section
/-! DEFINITION. Sys2Proof/Machine/Checks.lean: the content checks of operation descriptors, context descriptors and chains (R15, R47, R61 to R64, R70, R97, R115, R121 to R129, R137 to R143, R159, R163, R164, R167). -/

namespace Sys2Proof.Machine

/-- Whether bytes a to b − 1 of a blob are 0 (R15). -/
def zeroBytes (n a b : Nat) : Bool := fld n a (b - a) == 0

/-- Whether a numeric control word admits every field and has its reserved bits 0 (R61 to R64). -/
def ncwOk (w : Nat) : Bool := numCtlOk w && bits w 17 16 == 0 && bits w 3 0 == 0

/-- The header that every operation descriptor begins with, its OP apart (R123). -/
def headerOk (d : Nat) : Bool := decide (fld d 1 1 < 8) && zeroBytes d 4 8

/-- The demand of a wait in a descriptor (R124, R128). -/
def demandOk (n : Nat) : Bool := decide (1 ≤ n) && decide (n < 2 ^ 31)

/-- KWAIT of either tile (R124, R164). -/
def kwaitOk (d : Nat) : Bool := decide (fld d 10 1 ≤ 1) && fld d 11 1 == 0 && demandOk (fld d 12 4) && zeroBytes d 16 64

/-- Formats that an M-tile multiplies together (R70, R115). -/
def mmaPairOk (a b : Nat) : Bool :=
  (a == b && decide (1 ≤ a) && decide (a ≤ 4)) || (a == 1 && (b == 3 || b == 4))

/-- Whether panel words lie within a context's segment window of a copy (R121, R126). -/
def panelsIn (ctx : Nat) (col : Bool) (first last : Nat) : Bool :=
  let base := fld ctx (if col then 6 else 4) 1
  let count := fld ctx (if col then 7 else 5) 1
  decide (8 * base ≤ first) && decide (last < 8 * (base + count))

/-- Whether blocks lie within a context's accumulator window, both relative to it (R94, R121). -/
def blocksIn (ctx first count : Nat) : Bool := decide (first + count ≤ fld ctx 3 1)

/-- An MMA's fields, formats and sweep bounds (R125, R126, R129). -/
def mmaOk (ctx d : Nat) : Bool :=
  let nc := numCtlOf (fld d 8 4)
  let q := if nc.ifmtA = nc.ifmtB then 1 else if nc.ifmtB = 3 then 2 else 4
  let kb := fld d 24 4
  let mb := fld d 16 2
  let nb := fld d 18 1
  ncwOk (fld d 8 4) && mmaPairOk nc.ifmtA nc.ifmtB && decide (fld d 12 1 ≤ 1)
    && decide (1 ≤ mb) && decide (mb ≤ 128) && decide (1 ≤ nb) && decide (nb ≤ 128) && zeroBytes d 21 24
    && decide (1 ≤ kb) && decide (kb ≤ 1024) && (nc.ifmtA != 3 || kb % 8 == 0) && (nc.ifmtA != 4 || kb % 4 == 0) && zeroBytes d 28 64
    && panelsIn ctx (fld d 12 1 == 1) (fld d 19 1) (fld d 19 1 + (nb - 1) * fld d 20 1 + (kb - 1) / q)
    && blocksIn ctx (fld d 13 1) (mb * nb)

/-- A WLOAD's fields; with PAIR, PW_FIRST is a multiple of 8, since a PAIR loads one row-order segment (R117, R127; DEDUCED, log entry 100). -/
def wloadOk (ctx d : Nat) : Bool :=
  let pair := bit (fld d 10 1) 0
  let first := fld d 11 1
  let count := fld d 12 2
  decide (fld d 10 1 ≤ 1) && decide (1 ≤ fld d 9 1) && decide (fld d 9 1 ≤ 4) && zeroBytes d 15 64 &&
  (if pair then count == 8 && first % 8 == 0 && fld d 14 1 % 8 == 0 && panelsIn ctx false first (first + 7) && panelsIn ctx true (fld d 14 1) (fld d 14 1 + 7)
   else decide (fld d 8 1 ≤ 1) && decide (1 ≤ count) && decide (count ≤ 256) && panelsIn ctx (fld d 8 1 == 1) first (first + count - 1))

/-- A DRAIN's fields (R97, R128). -/
def drainOk (ctx d : Nat) : Bool :=
  ncwOk (fld d 8 4) && decide ((numCtlOf (fld d 8 4)).ofmt ≤ 2) && decide (1 ≤ fld d 13 1) && decide (fld d 13 1 ≤ 128)
    && blocksIn ctx (fld d 12 1) (fld d 13 1) && decide (fld d 14 1 ≤ 3) && fld d 15 1 == 0 && zeroBytes d 18 20
    && (!bit (fld d 14 1) 1 || demandOk (fld d 20 4)) && zeroBytes d 28 64

/-- The content checks of an M-tile operation descriptor against its context descriptor (R124 to R129). A WRELEASE, ZERO or ACCOPEN whose count is 0 passes as an operation on nothing, R124 giving no range (DESIGN CHOICE, log entry 101). -/
def mDescOk (ctx : BitVec 512) (desc : BitVec 512) : Bool :=
  let c := ctx.toNat
  let d := desc.toNat
  headerOk d &&
  (match fld d 0 1 with
  | 1 => mmaOk c d
  | 2 => wloadOk c d
  | 3 =>
    let b := if fld d 8 1 = 1 then 6 else 4
    decide (fld d 8 1 ≤ 1) && decide (fld c b 1 ≤ fld d 9 1) && decide (fld d 9 1 + fld d 10 1 ≤ fld c b 1 + fld c (b + 1) 1) && zeroBytes d 11 64
  | 4 => blocksIn c (fld d 8 1) (fld d 9 1) && zeroBytes d 10 64
  | 5 => drainOk c d
  | 6 => blocksIn c (fld d 8 1) (fld d 9 1) && fld d 10 2 != 0 && decide (fld d 14 1 ≤ 1) && zeroBytes d 15 64
  | 7 => kwaitOk d
  | _ => false)

/-- Whether two windows of blocks or segments overlap; an empty one overlaps none. -/
def overlap (a na b nb : Nat) : Bool := decide (0 < na) && decide (0 < nb) && decide (a < b + nb) && decide (b < a + na)

/-- A circuit field of a tile descriptor: a circuit number, or none (R280). -/
def circuitField (n : Nat) : Bool := decide (n < 2 ^ 15) || n == 0xFFFF

/-- An M-tile context descriptor (R121). -/
def mCtxOk (desc : BitVec 512) : Bool :=
  let d := desc.toNat
  decide (fld d 0 1 ≤ 1) && decide (fld d 1 1 ≤ 1) && decide (fld d 2 1 ≤ 127) && decide (fld d 2 1 + fld d 3 1 ≤ 128)
    && decide (fld d 4 1 ≤ 31) && decide (fld d 4 1 + fld d 5 1 ≤ 32) && decide (fld d 6 1 ≤ 31) && decide (fld d 6 1 + fld d 7 1 ≤ 32)
    && circuitField (fld d 8 2) && circuitField (fld d 10 2) && circuitField (fld d 12 2) && circuitField (fld d 14 2)
    && decide (1 ≤ fld d 16 1) && decide (fld d 16 1 ≤ 16) && zeroBytes d 17 20 && zeroBytes d 24 64

/-- The windows of different contexts of an M-tile do not overlap (R94). -/
def mWindowsApart (cs : List (BitVec 512)) : Bool :=
  (upTo cs.length).all (fun i => (upTo i).all (fun j =>
    let a := (nth 0 i cs).toNat
    let b := (nth 0 j cs).toNat
    !overlap (fld a 2 1) (fld a 3 1) (fld b 2 1) (fld b 3 1) && !overlap (fld a 4 1) (fld a 5 1) (fld b 4 1) (fld b 5 1)
      && !overlap (fld a 6 1) (fld a 7 1) (fld b 6 1) (fld b 7 1)))

/-- The selectors that a stage's operation uses: a alone, a and b, or all three (R142). -/
def stageOperands (op : Nat) : Nat :=
  if op = 0 ∨ op = 7 ∨ op = 10 then 1 else if op = 4 ∨ op = 9 then 3 else 2

/-- The selectors of a stage that it uses (R139, R141). -/
def stageSels (w : Nat) : List Nat := (upTo (stageOperands (fld w 0 1))).map (fun k => fld w (2 + 2 * k) 2)

/-- A selector of stage k: its fields, and a TAP of an earlier stage only (R140, R143). -/
def selOk (k sel : Nat) : Bool :=
  bits sel 3 0 != 7 && bits sel 15 13 == 0 && (!bit sel 7 || bits sel 6 4 == 0) && (decide (bits sel 3 0 < 8) || decide (bits sel 3 0 - 8 < k))

/-- A stage entry at position k (R139 to R142, R165). -/
def stageOk (k w : Nat) : Bool :=
  let op := fld w 0 1
  let flags := fld w 1 1
  let red := fld w 8 1
  decide (op ≤ 10) && decide (flags < 16) && (if op = 10 then bits flags 3 2 != 0 && decide (1 ≤ fld w 10 1) && decide (fld w 10 1 ≤ 14) else bits flags 3 2 == 0 && fld w 10 1 == 0)
    && (stageSels w).all (selOk k) && ((upTo 3).drop (stageOperands op)).all (fun i => fld w (2 + 2 * i) 2 == 0)
    && bits red 1 0 != 3 && bits red 3 2 != 3 && decide (red < 64)
    && (bits red 1 0 != 1 || decide (fld w 9 1 ≤ 31)) && (bits red 1 0 != 2 || decide (fld w 9 1 ≤ 7))
    && fld w 11 1 == 0 && zeroBytes w 24 32

/-- The first row of a chain's COL reductions, 8 when it has none (R139, R143). -/
def colFrom (stages : List Nat) : Nat := ((stages.filter (fun w => bits (fld w 8 1) 1 0 == 2)).map (fun w => fld w 9 1)).foldl min 8

/-- A chain against the rules of the signature's load, with the functions bound to the tile's links (R138, R143). -/
def chainOk (f0 f1 : Nat) (ws : List Word) : Bool :=
  let head := (nth 0 0 ws).toNat
  let n := fld head 0 1
  let stages := ((upTo n).map (fun k => (nth 0 (1 + k) ws).toNat))
  let links := (stages.filter (fun w => fld w 0 1 == 10)).map (fun w => bits (fld w 1 1) 3 2)
  decide (1 ≤ n) && decide (n ≤ 8) && zeroBytes head 1 32
    && (upTo n).all (fun k => stageOk k (nth 0 k stages))
    && (upTo 2).all (fun o => decide ((stages.filter (fun w => bit (fld w 1 1) o)).length ≤ 1))
    && decide ((stages.filter (fun w => bits (fld w 8 1) 1 0 != 0)).length ≤ 2)
    && (upTo 2).all (fun l => decide ((links.filter (fun m => bit m l)).length ≤ 1))
    && stages.all (fun w => fld w 0 1 != 10 || ((!bit (fld w 1 1) 2 || fld w 10 1 == f0) && (!bit (fld w 1 1) 3 || fld w 10 1 == f1)))
    && stages.all (fun w => (stageSels w).all (fun sel => !(bits sel 3 0 == 4 || bits sel 3 0 == 5)
        || (decide (colFrom stages = 8) || (!bit sel 7 && decide (bits sel 6 4 < colFrom stages)))))

/-- Whether a chain reads an input port (R140, R143). -/
def chainReads (stages : List Nat) (port : Nat) : Bool := stages.any (fun w => (stageSels w).any (fun sel => bits sel 3 0 == port + 1))

/-- A VOP against its fields and its chain (R137, R143, R148, R153, R164). -/
def vopOk (chains : Tab (List Word)) (d : Nat) : Bool :=
  let nc0 := numCtlOf (fld d 8 4)
  let nc1 := numCtlOf (fld d 12 4)
  let mode (p : Nat) := fld d 18 2 / 16 ^ p % 16
  let fmt (p : Nat) := if p = 0 then nc0.ifmtA else if p = 1 then nc0.ifmtB else nc1.ifmtA
  let nc (o : Nat) := if o = 0 then nc0 else nc1
  ncwOk (fld d 8 4) && ncwOk (fld d 12 4) && decide (fld d 17 1 ≤ 2) && bits (fld d 18 2) 15 12 == 0
    && (upTo 3).all (fun p => decide (mode p ≤ 4) && (mode p == 0 || decide (fmt p ≤ 4)) && (mode p != 4 || decide (fld d 20 4 ≤ 256)))
    && decide (1 ≤ fld d 20 4) && decide (fld d 20 4 ≤ 2 ^ 24) && fld d 24 4 != 0 && decide (fld d 28 1 ≤ 7) && decide (fld d 29 1 ≤ 3)
    && zeroBytes d 30 32 && zeroBytes d 40 64
    && (match Tab.find? (fld d 16 1) chains with
      | some ws =>
        let stages := (upTo (fld (nth 0 0 ws).toNat 0 1)).map (fun k => (nth 0 (1 + k) ws).toNat)
        (upTo 3).all (fun p => mode p != 0 || !chainReads stages p)
          && (upTo 2).all (fun o => stages.any (fun w => bit (fld w 1 1) o) == bit (fld d 29 1) o)
          && stages.all (fun w => bits (fld w 8 1) 1 0 != 2 || decide (fld d 20 4 ≤ 32 * (8 - fld w 9 1)))
      | none => false)
    && (fld d 29 1 != 0 || fld d 32 2 == 0xFFFF || fld d 34 2 != 0)
    && (upTo 2).all (fun o => !bit (fld d 29 1) o || (decide ((nc o).ofmt ≤ 4)
        && (fld d (32 + 4 * o) 2 == 0xFFFF || fld d (34 + 4 * o) 2 != 0)
        && !((nc o).scsrc == 1 && decide (3 ≤ (nc o).ofmt) && fld d (32 + 4 * o) 2 == 0xFFFF)))

/-- The content checks of a V-tile operation descriptor, the limit on governed pairs apart (R129, R163, R164). -/
def vDescOk (chains : Tab (List Word)) (desc : BitVec 512) : Bool :=
  let d := desc.toNat
  let rows := decide (1 ≤ fld d 10 1) && decide (fld d 9 1 + fld d 10 1 ≤ 8) && zeroBytes d 11 64
  headerOk d &&
  (match fld d 0 1 with
  | 1 => vopOk chains d
  | 2 => kwaitOk d
  | 3 => decide (1 ≤ fld d 9 1) && decide (fld d 8 1 + fld d 9 1 ≤ 8) && decide (1 ≤ fld d 11 1) && decide (fld d 10 1 + fld d 11 1 ≤ 32) && zeroBytes d 16 64
  | 4 => decide (fld d 8 1 ≤ 2) && rows
  | 5 => decide (fld d 8 1 ≤ 1) && rows
  | _ => false)

/-- The governed collector rank and tag pairs that a descriptor names (R159). -/
def govPairs (desc : BitVec 512) : List (Nat × Nat) :=
  if dfld desc 0 1 = 1 then ((upTo 2).filter (governed desc)).map (fun o => (dfld desc (32 + 4 * o) 2, dfld desc (34 + 4 * o) 2)) else []

/-- The distinct governed pairs that a tile tracks, or whose VOPs wait in its rings and queues (R159). -/
def VTile.govAll (t : VTile) (more : List (BitVec 512)) : List (Nat × Nat) :=
  (t.pairs.map (fun p => (p.rank, p.tag)) ++ t.ctxs.flatMap (fun c => (c.ring ++ c.queue).flatMap govPairs) ++ more.flatMap govPairs).eraseDups

/-- A V-tile context descriptor (R163). -/
def vCtxOk (desc : BitVec 512) : Bool :=
  let d := desc.toNat
  decide (fld d 0 1 ≤ 1) && decide (fld d 1 1 ≤ 1) && decide (1 ≤ fld d 2 1) && decide (fld d 2 1 ≤ 16) && fld d 3 1 == 0
    && (upTo 5).all (fun p => circuitField (fld d (8 + 2 * p) 2)) && zeroBytes d 18 64

/-- A V-tile's site descriptor: its links, functions and collector entries (R157, R163). -/
def vSiteOk (d : Nat) : Bool :=
  (upTo 4).all (fun p => circuitField (fld d (2 * p) 2)) && (upTo 2).all (fun l => decide (fld d (8 + l) 1 ≤ 14)) && zeroBytes d 10 32
    && (upTo 8).all (fun k =>
      let e := fld d (32 + 32 * k) 32
      (fld e 0 2 == 0 && fld e 11 1 == 0 && zeroBytes e 24 32) || (fld e 2 2 != 0 && decide (fld e 4 1 ≤ 1) && decide (fld e 5 1 ≤ 3) && decide (fld e 10 1 ≤ 32) && fld e 11 1 == 0
        && fld e 14 2 != 0 && fld e 16 8 % 32 == 0 && !addrMalformed (fld e 16 8) && zeroBytes e 24 32))

/-- The ports that collectors and governed tiles are named by (R156, R159). -/
def tilePorts : List Nat := [portTile, portCollector]

/-- The kettle rank of a descriptor's header, used under SIG (R123). -/
def headRanks (desc : BitVec 512) : List (Nat × List Nat) := if bit (dfld desc 1 1) 0 then [(dfld desc 2 2, [portKettle])] else []

/-- The ranks that an M-tile descriptor uses and the ports they must name (R123, R124, R128). -/
def mDescRanks (desc : BitVec 512) : List (Nat × List Nat) :=
  headRanks desc ++
  (match dfld desc 0 1 with
  | 5 => (if bit (dfld desc 14 1) 1 then [(dfld desc 16 2, [portKettle])] else []) ++ [(dfld desc 24 2, tilePorts)]
  | 6 => [(dfld desc 12 2, [portKettle])]
  | 7 => [(dfld desc 8 2, [portKettle])]
  | _ => [])

/-- The ranks that a V-tile descriptor uses and the ports they must name (R123, R159, R164). -/
def vDescRanks (desc : BitVec 512) : List (Nat × List Nat) :=
  headRanks desc ++
  (match dfld desc 0 1 with
  | 1 => ((upTo 2).filter (fun o => dfld desc (32 + 4 * o) 2 != 0xFFFF && (bit (dfld desc 29 1) o || (o == 0 && dfld desc 29 1 == 0)))).map (fun o => (dfld desc (32 + 4 * o) 2, tilePorts))
  | 2 => [(dfld desc 8 2, [portKettle])]
  | _ => [])

/-- Whether every rank of a list is VALID in a job's table and names one of its ports (R324; log entry 86). -/
def ranksOk (s : State) (job : Nat) (l : List (Nat × List Nat)) : Bool := l.all (fun r => (rankStatus s job r.1 r.2).isNone)

/-- An F-tile's link descriptor (R47, R165, R167, R168). -/
def fLinkOk (desc : Word) : Bool :=
  let d := desc.toNat
  let nc := numCtlOf (fld d 4 4)
  if fld d 0 1 = 0 then fld d 2 2 == 0 && fld d 15 1 == 0 && zeroBytes d 24 32
  else decide (fld d 0 1 ≤ 2) && decide (1 ≤ fld d 1 1) && decide (fld d 1 1 ≤ 14) && fld d 2 2 == 0 && ncwOk (fld d 4 4)
    && circuitField (fld d 8 2) && circuitField (fld d 10 2) && decide (fld d 14 1 ≤ 3) && fld d 15 1 == 0 && zeroBytes d 24 32
    && (if fld d 0 1 = 1 then nc.ifmtA == 0 && nc.ofmt == 0 else (nc.ofmt == 0 || nc.ofmt == 5 || nc.ofmt == 1 || nc.ofmt == 2) && fld d 16 4 != 0)

end Sys2Proof.Machine
end

