-- ==== Sys2Proof/Machine/Messages.lean ====
section
/-! DEFINITION. Sys2Proof/Machine/Messages.lean: TILE_ISSUE to contexts and stream engines, and CFG_FRAME at a configuration controller (R129, R159, R245, R251, R336, R392, R394, R416, R420). -/

namespace Sys2Proof.Machine

/-- Whether a message is held at its destination NI (R336). -/
def isHeld (s : State) (m : Msg) : Bool := (niOf s m.dst.die m.dst.site).rx.any (fun b => sameMsg b.msg m && b.stage == .held)

/-- A full queue holds the message, HELD being sent once (R336, R392). -/
def holdOnce (s : State) (m : Msg) : State := if isHeld s m then s else hold s m

/-- The descriptor that a TILE_ISSUE carries in its first two words (R392). -/
def issueDesc (m : Msg) : BitVec 512 := BitVec.ofNat 512 ((nth 0 0 m.data).toNat + (nth 0 1 m.data).toNat * 2 ^ 256)

/-- The stream descriptor that a message to a STREAM port carries in five words (R394, R497). -/
def streamDesc (m : Msg) : BitVec 1280 := BitVec.ofNat 1280 ((upTo 5).foldl (fun n k => n + (nth 0 k m.data).toNat * 2 ^ (256 * k)) 0)

/-- A descriptor for an ISSUED context: refused when it fails its content checks or the context takes none, HELD while the queue of 16 is full, else enqueued and acknowledged; its ranks are checked with it (R129, R159, R324, R392; log entry 86). -/
def tileIssue (s : State) (m : Msg) : State :=
  let die := m.dst.die
  let site := m.dst.site
  let n := m.dst.index
  let d := issueDesc m
  match siteKind site with
  | some .mTile =>
    let t := mtOf s die site
    let c := t.ctx n
    if 4 ≤ n ∨ dfld c.desc 0 1 ≠ 1 ∨ dfld c.desc 1 1 ≠ 1 then errorStatus s m 0x0106
    else if !mDescOk c.desc d || !ranksOk s (siteJob s die site) (mDescRanks d) then errorStatus s m 0x0105
    else if 16 ≤ c.queue.length then holdOnce s m
    else ack (setMt s die site (t.setCtx n { c with queue := c.queue ++ [d] })) m
  | some .vTile =>
    let t := vtOf s die site
    let c := t.ctx n
    if 4 ≤ n ∨ dfld c.desc 0 1 ≠ 1 ∨ dfld c.desc 1 1 ≠ 1 then errorStatus s m 0x0106
    else if !vDescOk t.chains d || decide (8 < (t.govAll [d]).length) || !ranksOk s (siteJob s die site) (vDescRanks d) then errorStatus s m 0x0105
    else if 16 ≤ c.queue.length then holdOnce s m
    else ack (setVt s die site (t.setCtx n { c with queue := c.queue ++ [d] })) m
  | _ => errorStatus s m 0x0106

/-- A stream descriptor for an engine, with the sender as its issuer (R245, R247, R251). -/
def streamIssue (s : State) (m : Msg) : State :=
  if !hasEngine m.dst.die m.dst.site then errorStatus s m 0x0106
  else
    let n := (((niOf s m.src.die m.src.site).out.find? (fun o => sameMsg o.msg m)).map Outst.serial).getD 0
    let r := enqueueStream s m.dst.die m.dst.site m.job (some (m.src, m.issuer)) n (streamDesc m)
    if r.2 = 0 then ack r.1 m else errorStatus r.1 m r.2

/-- TILE_ISSUE: a descriptor arrives at an ISSUED context or at a stream engine (R245, R318, R392). -/
def execTileIssue (m : Msg) (s : State) : Host.Outcome State Fault Refusal :=
  applyMsg s m (fun s => if m.typ ≠ 5 then s else if m.dst.port = portStream then streamIssue s m else tileIssue s m)

/-- The staging area of a die's configuration controller. -/
def stageOf (s : State) (die : Nat) : DieStage := Tab.get dieStageInitial die s.cfg.dies

/-- A staging area replaced. -/
def setStageOf (s : State) (die : Nat) (d : DieStage) : State := { s with cfg := { s.cfg with dies := Tab.set die d s.cfg.dies } }

/-- The load identifier on the fabric: the low 16 bits of the load count (R418). -/
def loadTag (s : State) : Nat := ((s.cfg.load.map Load.id).getD 0) % 65536

/-- The 1,024 bytes of a frame as a number: word k in bits [256k+255:256k] (R412, R420). -/
def frameData (ws : List Word) : BitVec 8192 := BitVec.ofNat 8192 ((upTo 32).foldl (fun n k => n + (nth 0 k ws).toNat * 2 ^ (256 * k)) 0)

/-- The CRC-32 of a frame: bytes 24 to 27 of its ARG, then its bytes (R420). -/
def frameCrc (die col f : Nat) (data : BitVec 8192) : Nat := crc32 (leBytes 1 die ++ leBytes 1 col ++ leBytes 2 f ++ leBytes 1024 data.toNat)

/-- A frame taken by a controller: FRAMES and FSUM rise and the record is staged (R420, R421). -/
def takeFrame (d : DieStage) (die col f : Nat) (data : BitVec 8192) : DieStage :=
  { d with frames := (d.frames + 1) % 65536, fsum := (d.fsum + frameCrc die col f data) % 2 ^ 64
           taken := d.taken.filter (fun r => !(r.1 == die && r.2.1 == col && r.2.2.1 == f)) ++ [(die, col, f, data)] }

/-- CFG_FRAME: taken only while enrolled in the frame's load and addressed to this die or to all; any other frame is discarded without a reply (R420). -/
def execCfgFrame (m : Msg) (s : State) : Host.Outcome State Fault Refusal :=
  onDie m.dst.die (
    let a := m.arg.toNat
    let d := stageOf s m.dst.die
    let drop (s : State) : State := modNi s m.dst.die m.dst.site (fun n => { n with rx := n.rx.filter (fun b => !sameMsg b.msg m) })
    if m.typ ≠ 9 ∨ m.dst.port ≠ portConfig then s
    else if d.enrolled && s.cfg.load.isSome && bits a 47 32 == loadTag s && (fld a 0 1 == m.dst.die || fld a 0 1 == 0x7F) then
      ack (setStageOf s m.dst.die (takeFrame d (fld a 0 1) (fld a 1 1) (fld a 2 2) (frameData m.data))) m
    else drop s)

end Sys2Proof.Machine
end

