-- ==== Sys2Proof/Machine/Windows.lean ====
section
/-! DEFINITION. Sys2Proof/Machine/Windows.lean: the registers of configuration space: every window's reads, and the writes that clear sticky bits (R130, R169 to R171, R209, R241 to R243, R276, R311, R312, R346, R347, R372 to R374, R402, R434, R435). -/

namespace Sys2Proof.Machine

/-- LAST_FAULT of a register group in bits [63:48]: 0 the tile or the kettle unit, then by groups of 2^20 (R130). -/
def lastFaultReg (s : State) (die group site : Nat) : Nat := Tab.get 0 (siteKey die (group + site)) s.lastFault % 65536 * 2 ^ 48

/-- State codes of R104. -/
def CtxState.code : CtxState → Nat
  | .off => 0
  | .waiting => 1
  | .ready => 2
  | .running => 3
  | .blocked => 4
  | .done => 5
  | .faulted => 6

/-- A status register of four contexts (R130). -/
def ctxStatus (states : List CtxState) (running : Option Nat) : Nat :=
  (match running with
  | some n => 2 ^ 18 + n % 4 * 2 ^ 16
  | none => 0) + (upTo 4).foldl (fun n c => n + (nth .off c states).code * 16 ^ c) 0

/-- WAITED in A-clock cycles of 1/3 ns, 0 while the context runs (R130). -/
def waitedReg (s : State) (st : CtxState) (from_ : Nat) : Nat :=
  if st = .running ∨ st = .off then 0 else min (3 * (s.now - from_)) (2 ^ 32 - 1) * 2 ^ 32

/-- Two-bit fields packed. -/
def pack2 (l : List Nat) : Nat := packElems 2 l

/-- Segment state codes (R90). -/
def SegState.code : SegState → Nat
  | .empty => 0
  | .loading => 1
  | .ready => 2
  | .regen => 3

/-- Accumulator block state codes (R95). -/
def AccState.code : AccState → Nat
  | .accum => 0
  | .tagged _ _ => 1
  | .draining => 2

/-- An M-tile's registers (R130). -/
def mtWin (s : State) (die site off : Nat) : Nat :=
  let t := mtOf s die site
  if off = 0 then lastFaultReg s die 0 site + ctxStatus ((upTo 4).map t.shown) t.running
  else if 8 ≤ off ∧ off ≤ 0x20 then
    let n := off / 8 - 1
    let c := t.ctx n
    waitedReg s (t.shown n) c.waitedFrom + c.pos % 16 * 2 ^ 16 + (c.aQueue.length + c.side.length)
  else if off = 0x28 ∨ off = 0x30 then pack2 ((upTo 32).map (fun g => (t.segState (off == 0x30) g).code))
  else if 0x38 ≤ off ∧ off ≤ 0x50 then pack2 ((upTo 32).map (fun b => (t.accState (32 * (off / 8 - 7) + b)).code))
  else telGet s die site off

/-- A V-tile's registers (R169). -/
def vtWin (s : State) (die site off : Nat) : Nat :=
  let t := vtOf s die site
  if off = 0 then lastFaultReg s die 0 site + ctxStatus ((upTo 4).map t.shown) t.running
  else if 8 ≤ off ∧ off ≤ 0x20 then
    let n := off / 8 - 1
    let c := t.ctx n
    let words (p : Nat) : Nat := (nth vPortInitial p c.ports).queue.length
    waitedReg s (t.shown n) c.waitedFrom + c.pos % 16 * 2 ^ 16 + words 2 * 2 ^ 10 + words 1 * 2 ^ 5 + words 0
  else if 0x40 ≤ off ∧ off ≤ 0x78 then
    let c := nth collectorInitial (off / 8 - 8) t.coll
    (if c.wrap then 2 ^ 63 else 0) + c.bLast.getD 0 * 2 ^ 48 + c.step % 2 ^ 48
  else if 0x1000 ≤ off ∧ off < 0x2000 then (t.ctx (off / 0x400 - 4)).treg.toNat / 2 ^ (8 * (off % 0x400)) % 2 ^ 64
  else telGet s die site off

/-- An F-tile's link state: OFF, IDLE, ACTIVE, FAULTED (R170). -/
def FLink.state (l : FLink) : Nat :=
  if fld l.desc.toNat 0 1 = 0 then 0 else if l.faulted then 3 else if l.inQ.isEmpty && l.outQ.isEmpty && l.part.isEmpty then 1 else 2

/-- The beats of a link in its pipeline: results that still wait for the link's circuit, two words to an FCALL beat (R150, R171; log entry 30). -/
def FLink.outstanding (l : FLink) : Nat := min 32 (if fld l.desc.toNat 0 1 = 1 then (l.outQ.length + 1) / 2 else l.outQ.length)

/-- An F-tile's registers (R170, R171). -/
def ftWin (s : State) (die site off : Nat) : Nat :=
  let t := ftOf s die site
  let l (n : Nat) : FLink := nth fLinkInitial n t.links
  if off = 0 then lastFaultReg s die 0 site + (l 1).state * 4 + (l 0).state
  else if off = 8 ∨ off = 0x10 then
    let x := l (off / 8 - 1)
    let runs := if fld x.desc.toNat 0 1 = 2 then (if fld x.desc.toNat 20 4 = 0 then 2 ^ 32 - 1 else x.runsLeft) else 0
    runs * 2 ^ 32 + x.flags % 32 * 2 ^ 16 + x.outstanding
  else telGet s die site off

/-- A channel's state (R209). -/
def chanState (s : State) (die site n : Nat) : Nat :=
  let t := spOf s die site
  let c := Tab.get chanInitial n t.chans
  let held := match Tab.find? (siteKey die site) s.grain with
    | some g => List.any g.eps (fun (e : Nat × GrainEp) => e.2.kind == 1 && e.2.tport == n && e.2.credits == 0)
    | none => false
  if !bit (c.f 0 1) 0 then 0 else if c.faulted then 6 else if c.done then 5
  else if !c.writes && !c.fifo.isEmpty && held then 4
  else match chanAccs t n c with
    | [] => 1
    | as => if as.any t.accReady then 2 else 3

/-- An S-tile's registers (R209). -/
def spWin (s : State) (die site off : Nat) : Nat :=
  let t := spOf s die site
  if off = 0 then lastFaultReg s die 0 site + (if siteParted s die site then 2 ^ 16 else 0) + t.gather.length * 2 ^ 8 + (if t.gatherMode then 1 else 0)
  else if 8 ≤ off ∧ off ≤ 0x40 then
    let n := off / 8 - 1
    let c := Tab.get chanInitial n t.chans
    if !bit (c.f 0 1) 0 then 0
    else (if c.f 32 4 = 0 then 2 ^ 32 - 1 else c.runsLeft) * 2 ^ 32 + c.pos % 2 ^ 24 * 2 ^ 8 + chanState s die site n
  else if 0x80 ≤ off ∧ off < 0x180 then
    (if off % 16 = 0 then qgenReg (t.quire (off / 16 - 8)) else qfullReg (t.quire (off / 16 - 8)))
  else if 0x10000 ≤ off ∧ off < 0x18000 then packElems 4 ((upTo 16).map (fun i => t.tag (2 * (off - 0x10000) + i)))
  else telGet s die site off

/-- Granules of a die's near-direct space backed on a channel: none of a LOST one or of a fenced die (R212, R216, R241). -/
def chanGranules (s : State) (die ch : Nat) : Nat :=
  let good := (dieOf s die).goodCh
  let n := min (2 ^ 24) (good.length * 699051)
  if (dieOf s die).fenced || (dieOf s die).lostCh.contains ch then 0
  else match (upTo good.length).find? (fun i => nth 64 i good == ch) with
  | some i => n / good.length + (if i < n % good.length then 1 else 0)
  | none => 0

/-- DBG_NEAR_CH (R241). -/
def nearChReg (s : State) (die ch : Nat) : Nat :=
  let d := dieOf s die
  let st := if d.lostCh.contains ch then 3 else if d.goodCh.contains ch && !d.fenced then 2 else 0
  chanGranules s die ch * 2 ^ 28 + min 1024 (Tab.get 0 ch d.spares) * 2 ^ 16 + (if refreshDoubled s die then 4 else 0) + st

/-- How a running stream stands to its next local word: 2 it can go on, 4 it waits on a tag or credit, 5 on a GEN change (R258, R260, R276). -/
def localState (s : State) (die site : Nat) (x : Strm) (n : Nat) : Nat :=
  if engineX site then
    if !x.isLoad && (enOf s die site).xIn.any (fun p => p.1 == x.f 12 2) then 2 else 4
  else
    let t := spOf s die site
    match fillReady t x n with
    | none => 5
    | some (base, _) =>
      let sl := localSlot x base n
      if (if x.isLoad then t.writeReady sl (bits (x.f 11 1) 1 0) else t.readReady sl (bits (x.f 11 1) 1 0)) then 2 else 4

/-- A stream's state (R276). -/
def slotState (s : State) (die site slot : Nat) : Nat :=
  match slotOf s die site slot with
  | none => 0
  | some x =>
    match x.phase with
    | .trigger _ => 1
    | .ending 1 _ _ _ _ _ => 7
    | .ending _ _ _ _ _ _ => 6
    | .recording _ _ => 2
    | .faulted _ _ _ => 7
    | .running =>
      if x.isLoad then
        (if (Tab.find? x.pos x.staged).isSome then localState s die site x x.pos else if x.pos < x.issued then 3 else 2)
      else if x.issued < min (passWords x.desc) (x.pos + x.prefetch) then localState s die site x x.issued
      else if x.outst.isEmpty then 2 else 3

/-- A stream engine's registers (R276). -/
def stWin (s : State) (die site off : Nat) : Nat :=
  let e := enOf s die site
  if off = 0x300 then
    lastFaultReg s die (2 ^ 22) site + (1024 - e.reserved) * 2 ^ 16 + e.queue.length * 2 ^ 8 + e.slots.length * 2 ^ 4 + (if engineX site then 1 else 0)
  else if 0x308 ≤ off ∧ off ≤ 0x340 then
    match slotOf s die site (off / 8 - 0x61) with
    | some x => x.task * 2 ^ 48 + x.pos % 2 ^ 32 * 2 ^ 16 + slotState s die site (off / 8 - 0x61)
    | none => 0
  else telGet s die site off

/-- A border endpoint entry as it reads (R299, R311). -/
def epReg (e : GrainEp) : Nat :=
  e.circuit * 2 ^ 48 + e.kind * 2 ^ 46 + (if e.border then 2 ^ 45 else 0) + (if e.stopped then 2 ^ 44 else 0) + e.job * 2 ^ 38 + e.rate * 2 ^ 31
    + e.capacity * 2 ^ 16 + e.tport * 2 ^ 12 + e.ctx * 2 ^ 10 + min e.credits 127

/-- DBG_GS_ELn of an element (R311). -/
def elReg (n : Nat) (x : GrainEl) : Nat :=
  let q (i : Nat) : Nat := (x.inQ i).length
  let state := if !x.on then 0 else if x.faulted then 4
    else if (upTo 4).all (fun i => q i == 0) && x.out0.isEmpty && x.out1.isEmpty then 1
    else if (!x.out0.isEmpty && x.cred0 == 0) || (!x.out1.isEmpty && x.cred1 == 0) then 3 else 2
  state * 2 ^ 60 + (if n < 2 then x.out1.length * 2 ^ 16 + x.out0.length * 2 ^ 8 + q 0 else q 3 * 2 ^ 24 + q 2 * 2 ^ 16 + q 1 * 2 ^ 8 + q 0)

/-- A lane group's state at an X-tile: ABSENT, LOST or GOOD; the edge links of a hub fenced at start are absent (R312, R517). -/
def groupState (s : State) (die site : Nat) : Nat :=
  let e := xEdge site
  match dieNeighbour die e.1 with
  | none => 0
  | some n => if s.net.lostGroups.contains (groupKey die e.1 e.2) then 3 else if isHub n && (dieOf s n).fenced then 0 else 2

/-- A grain switch's registers, an X-tile's edge registers among them (R311, R312). -/
def gsWin (s : State) (die site off : Nat) : Nat :=
  let g := grOf s die site
  let two (f : Nat → Nat) (k : Nat) : Nat := f k + f (k + 1) * 2 ^ 32
  if off = 0x40000 then
    lastFaultReg s die (2 ^ 20) site + (if List.any g.eps (fun (e : Nat × GrainEp) => e.2.stopped) then 2 ^ 33 else 0)
      + (if s.net.holes.contains (siteKey die site) then 2 ^ 32 else 0) + g.eps.length * 2 ^ 16
      + (upTo 10).foldl (fun n k => n + (if (g.el k).on then 2 ^ k else 0)) 0
  else if 0x40100 ≤ off ∧ off < 0x40200 then ((Tab.find? ((off - 0x40100) / 8) g.eps).map epReg).getD 0
  else if 0x40200 ≤ off ∧ off < 0x40250 then elReg ((off - 0x40200) / 8) (g.el ((off - 0x40200) / 8))
  else if 0x40300 ≤ off ∧ off < 0x403A0 then (g.el ((off - 0x40300) / 16)).desc.toNat / 2 ^ (64 * (off / 8 % 2)) % 2 ^ 64
  else if 0x41000 ≤ off ∧ off < 0x41D00 then two (fun k => Tab.get 0 k g.slots) ((off - 0x41000) / 4)
  else if siteKind site = some .xTile ∧ off = 0x43000 then
    let count (t : Tab Nat) : Nat := (List.filter (fun (e : Nat × Nat) => entValid e.2) t).length
    count g.xout * 2 ^ 32 + count g.xin * 2 ^ 24 + groupState s die site
  else if siteKind site = some .xTile ∧ 0x43400 ≤ off ∧ off < 0x435F8 then two (fun k => if k < 125 then Tab.get 0 k g.xout else 0) ((off - 0x43400) / 4)
  else if siteKind site = some .xTile ∧ 0x43600 ≤ off ∧ off < 0x437F8 then two (fun k => if k < 125 then Tab.get 0 k g.xin else 0) ((off - 0x43600) / 4)
  else telGet s die site off

/-- Ports of a router that are present (R346). -/
def portsReg (die site : Nat) : Nat :=
  if isHub die then 31 else (upTo 5).foldl (fun n p => n + (if portPresent die site p then 2 ^ p else 0)) 0

/-- A route-table entry: ADAPT and ESC of a reachable target, or FENCED (R347). -/
def routeEntry (ports : List Nat) (esc : Nat) (reach fenced : Bool) : Nat :=
  if reach && !fenced then 2 ^ 15 + ports.foldl (fun n p => n + 2 ^ (11 + p)) 0 + esc % 8 * 2 ^ 8 else if fenced then 2 ^ 7 else 0

/-- An entry of the die table of a router (R325, R347). -/
def dieTable (s : State) (die site d : Nat) : Nat :=
  if !isDie d then 0
  else if d = die then routeEntry [] 4 true (s.net.tableFenced.contains d)
  else routeEntry (dieDirs s die d) (Config.escapePort (siteKey die site) (siteKey d 0) % 4) (dieDistance s die d).isSome (s.net.tableFenced.contains d)

/-- An entry of the site table of a router (R325, R347). -/
def siteTable (s : State) (die site e : Nat) : Nat :=
  if isHub die ∨ 484 ≤ e then 0
  else if e = site then routeEntry [] 4 true (s.net.tableHoles.contains (siteKey die e))
  else
    let ports := match targetDistance s die site e with
      | some d => (upTo 4).filter (fun p => match siteNeighbour site p with
          | some n => decide ((targetDistance s die n e).map (· + 1) = some d)
          | none => false)
      | none => []
    routeEntry ports (Config.escapePort (siteKey die site) (siteKey die e) % 4) (targetDistance s die site e).isSome (decide (e < 480) && s.net.tableHoles.contains (siteKey die e))

/-- A mull router's and NI's registers (R346, R347). -/
def mrWin (s : State) (die site off : Nat) : Nat :=
  let ni := niOf s die site
  let block := site == blockSite && isCompute die
  let four (f : Nat → Nat) (k : Nat) : Nat := f k + f (k + 1) * 2 ^ 16 + f (k + 2) * 2 ^ 32 + f (k + 3) * 2 ^ 48
  if off = 0x50000 then
    lastFaultReg s die (2 ^ 23) site + (if s.net.holes.contains (siteKey die site) then 2 ^ 45 else 0) + (ni.out.filter (fun o => o.st != .queued)).length * 2 ^ 36
      + ni.rx.length * 2 ^ 27 + ni.flows.length * 2 ^ 18 + (if block then 0 else portsReg die site)
  else if block then telGet s die site off
  else if 0x50100 ≤ off ∧ off < 0x50100 + 0x20 * portCount die then
    let x := Tab.get portTelInitial (siteKey die site * 16 + (off - 0x50100) / 0x20) s.net.tel
    if off % 0x20 = 0 then x.wstart else if off % 0x20 = 8 then packElems 16 (x.hist.take 4) else if off % 0x20 = 0x10 then packElems 16 (x.hist.drop 4) else 0
  else if 0x51000 ≤ off ∧ off < 0x510C8 then four (dieTable s die site) ((off - 0x51000) / 2)
  else if 0x52000 ≤ off ∧ off < 0x523C8 then four (siteTable s die site) ((off - 0x52000) / 2)
  else telGet s die site off

/-- The registers of a tile site's window (R227). -/
def siteWin (s : State) (die site off : Nat) : Nat :=
  if 0x50000 ≤ off then mrWin s die site off
  else if 0x40000 ≤ off then gsWin s die site off
  else match siteKind site with
    | some .mTile => mtWin s die site off
    | some .vTile => vtWin s die site off
    | some .fTile => ftWin s die site off
    | some .sTile => spWin s die site off
    | some .dpTile => if off = 0x200 then nearChReg s die (dpChannel site) else if 0x300 ≤ off ∧ off ≤ 0x360 then stWin s die site off else spWin s die site off
    | some .xTile => stWin s die site off
    | _ => 0

/-- DBG_NEAR_STACK (R242). -/
def nearStackReg (s : State) (die : Nat) : Nat :=
  let d := dieOf s die
  let t (k : Nat) : Nat := min 255 (nth 0 k d.nearTemps)
  let st := if d.fenced then 4 else match d.nearState with
    | .normal => 0
    | .double => 1
    | .throttle => 2
    | .hold => 3
  t 3 * 2 ^ 48 + t 2 * 2 ^ 40 + t 1 * 2 ^ 32 + t 0 * 2 ^ 24 + min 255 (maxOf d.nearTemps) * 2 ^ 16 + d.goodCh.length * 2 ^ 8 + st

/-- DBG_FAR_CH (R243). -/
def farChReg (s : State) (hub c : Nat) : Nat :=
  match Tab.find? c (dieOf s hub).far with
  | some x => x.vendor % 256 * 2 ^ 32 + x.refreshRate % 256 * 2 ^ 8 + (match x.st with
    | .absent => 0
    | .training => 1
    | .good => 2
    | .trainFailed => 3
    | .unsupported => 4
    | .lost => 5)
  | none => 0

/-- Registered waiters of a kettle. -/
def kettleWaiters (u : KettleUnit) (k : Nat) : List Waiter := u.waiters.filter (fun w => w.kettle == k)

/-- DBG_KT_STATEk (R372). -/
def kettleStateReg (u : KettleUnit) (k : Nat) : Nat :=
  let kt := u.kettle k
  (match kt.owner with
  | some j => 2 ^ 63 + j % 64 * 2 ^ 56
  | none => 0) + (kettleWaiters u k).length * 2 ^ 32 + kt.value

/-- The second word of DBG_KT_LASTk (R373). -/
def kettleLastReg (kt : Kettle) : Nat :=
  kt.lastOp * 2 ^ 56 + packEp kt.lastSrc % 2 ^ 21 * 2 ^ 32 + kt.lastIssuer % 65536 * 2 ^ 16 + (if kt.lastFaulted then 2 ^ 15 else 0)

/-- A word of DBG_KT_WAITw (R374). -/
def waiterReg (u : KettleUnit) (w i : Nat) : Nat :=
  match u.waiters.find? (fun x => x.slot == w) with
  | none => 0
  | some x =>
    match i with
    | 0 => x.opnum
    | 1 => 2 ^ 63 + (if x.observe then 2 ^ 62 else 0) + x.kettle * 2 ^ 43 + x.demand
    | 2 => packEp x.src % 2 ^ 21 * 2 ^ 32 + x.issuer % 65536 * 2 ^ 16
    | _ => x.time

/-- State codes of a core, XWAIT while it waits (R402). -/
def Core.stateCode (c : Core) : Nat :=
  match c.st with
  | .off => 0
  | .monitor => 1
  | .running => if c.wait = .none then 2 else 3
  | .done => 4
  | .faulted => 5
  | .halted => 6

/-- XPEND of a core (R402). -/
def Core.xpend (c : Core) : Nat :=
  match c.wait with
  | .none => 0
  | .kettle _ _ _ => 1
  | .issue _ _ => 2
  | .data _ _ _ => 2
  | .cancel _ _ => 2
  | .load _ _ _ _ _ _ => 3
  | .fence _ _ _ => 4
  | .hold _ _ => 5

/-- DBG_CC_STATEn (R402). -/
def coreStateReg (s : State) (die n : Nat) : Nat :=
  let c := coreOf s die n
  c.stateCode * 2 ^ 60 + (if c.mmode then 2 ^ 59 else 0) + c.xpend * 2 ^ 56 + (((regionOfCore s die n).map (fun r => r.2.job)).getD 0) % 64 * 2 ^ 48 + min 16 (corePosted s die n)

/-- DBG_CC_STATUS (R402). -/
def ccStatusReg (s : State) (die : Nat) : Nat :=
  let u := Tab.get seqUnitInitial die s.seqs
  lastFaultReg s die (2 ^ 21) blockSite
    + (match Tab.find? u.region s.regions with
      | some r => 2 ^ 40 + r.job % 64 * 2 ^ 32
      | none => 0)
    + (upTo (coreCount die)).foldl (fun n k => n + (if (coreOf s die k).st = .running then 2 ^ k else 0)) 0

/-- State codes of a region (R407). -/
def RState.code : RState → Nat
  | .blank => 1
  | .running => 2
  | .parted => 3
  | .suspended => 4
  | .faulted => 5

/-- The region that holds a column of a die, one that is not suspended (R403, R434). -/
def columnRegion (s : State) (die col : Nat) : Option (Nat × Region) :=
  List.find? (fun (e : Nat × Region) => e.2.st != .suspended && e.2.bounds.holds die col) s.regions

/-- DBG_CFG_COLn (R434). -/
def cfgColReg (s : State) (die col : Nat) : Nat :=
  match columnRegion s die col with
  | some (n, r) =>
    n * 2 ^ 52 + r.job % 64 * 2 ^ 42 + r.st.code * 2 ^ 32 + (upTo 20).foldl (fun m row => m + (if siteGated s die (24 * row + col) then 2 ^ row else 0)) 0
  | none => 0

/-- DBG_CFG_STATUS (R434). -/
def cfgStatusReg (s : State) (die : Nat) : Nat :=
  let d := stageOf s die
  let state := if !d.enrolled then 0 else match s.cfg.load with
    | some l => (match l.phase with
      | .verify => 0
      | .stage => 1
      | .check => 2
      | .commit => 3
      | .parting => 3)
    | none => 0
  lastFaultReg s die (2 ^ 24) blockSite + state * 2 ^ 32 + (if d.enrolled then loadTag s * 2 ^ 16 else 0)
    + (if List.any s.regions (fun (e : Nat × Region) => e.2.st != .suspended && e.2.bounds.dieList.contains die && (match e.2.bounds with
      | .dies _ _ _ _ => true
      | .columns _ _ _ => false)) then 1 else 0)

/-- PREV_EPOCH (R433, R435). -/
def prevEpochReg (s : State) : Nat :=
  match s.cfg.prevEpoch with
  | some e => 2 ^ 63 + e % 2 ^ 63
  | none => 0

/-- The registers of a die block (R242, R243, R346, R372 to R374, R402, R434, R435). -/
def blockWin (s : State) (die off : Nat) : Nat :=
  let u := ktOf s die
  if off = 0x100 ∧ isCompute die then nearStackReg s die
  else if off = 0x200 then
    lastFaultReg s die 0 blockSite + u.waiters.length * 2 ^ 16 + (List.filter (fun (e : Nat × Kettle) => e.2.owner.isSome) u.kettles).length
  else if off = 0x208 then u.opnum
  else if off = 0x300 then ccStatusReg s die
  else if isCompute die ∧ off = 0x400 then cfgStatusReg s die
  else if isCompute die ∧ off = 0x408 then (stageOf s die).frames
  else if isCompute die ∧ off = 0x410 then (stageOf s die).fsum
  else if isCompute die ∧ 0x500 ≤ off ∧ off < 0x5C0 then cfgColReg s die ((off - 0x500) / 8)
  else if die = 0x60 ∧ off = 0x440 then s.cfg.epoch
  else if die = 0x60 ∧ off = 0x448 then prevEpochReg s
  else if 0x8000 ≤ off ∧ off < 0x8000 + 0x20 * coreCount die then
    let n := (off - 0x8000) / 0x20
    let c := coreOf s die n
    match off / 8 % 4 with
    | 0 => c.lastPc.toNat
    | 1 => coreStateReg s die n
    | 2 => c.cause.toNat
    | _ => c.tval.toNat
  else if 0x10000 ≤ off ∧ off < 0x10000 + 8 * kettleCount die then kettleStateReg u ((off - 0x10000) / 8)
  else if 0x20000 ≤ off ∧ off < 0x20000 + 16 * kettleCount die then
    let kt := u.kettle ((off - 0x20000) / 16)
    if off / 8 % 2 = 0 then kt.lastTime else kettleLastReg kt
  else if isHub die ∧ 0x40000 ≤ off ∧ off < 0x42000 ∧ off % 0x100 = 0 then farChReg s die ((off - 0x40000) / 0x100)
  else if 0x50000 ≤ off ∧ off < 0x60000 then mrWin s die blockSite off
  else if 0x60000 ≤ off ∧ off < 0x60000 + 0x20 * waiterRoom die then waiterReg u ((off - 0x60000) / 0x20) (off / 8 % 4)
  else telGet s die blockSite off

/-- The 8 bytes at an aligned offset of a window of configuration space (R226, R227). -/
def winReg (s : State) (die site off : Nat) : Nat :=
  (if site = blockSite then blockWin s die off else siteWin s die site off) % 2 ^ 64

/-- Whether a window exists (R227). -/
def winExists (die site : Nat) : Bool := if site = blockSite then isDie die else isCompute die && decide (site < 480)

/-- A write to a window clears the sticky bits that it sets; every other bit is read-only (R130, R169, R171, R209). -/
def winWrite (s : State) (die site off size v : Nat) : State :=
  let o := off / 8 * 8
  let w := v % 2 ^ (8 * size) * 2 ^ (8 * (off % 8))
  let s := if bit w 63 && (Tab.find? (cfgKey die site o) s.tel).isSome then
      { s with tel := Tab.modify 0 (cfgKey die site o) (fun r => r % 2 ^ 63) s.tel } else s
  match siteKind site with
  | some .vTile =>
    if site ≠ blockSite ∧ 0x40 ≤ o ∧ o ≤ 0x78 ∧ bit w 63 then
      let t := vtOf s die site
      setVt s die site { t with coll := t.coll.set (o / 8 - 8) { nth collectorInitial (o / 8 - 8) t.coll with wrap := false } }
    else s
  | some .fTile =>
    if o = 8 ∨ o = 0x10 then
      let t := ftOf s die site
      let l := nth fLinkInitial (o / 8 - 1) t.links
      setFt s die site { t with links := t.links.set (o / 8 - 1) { l with flags := l.flags &&& (31 - bits w 20 16) } }
    else s
  | some k =>
    if isSp (some k) ∧ 0x80 ≤ o ∧ o < 0x180 ∧ o % 16 = 0 ∧ bit w 2 then
      let t := spOf s die site
      setSp s die site { t with quires := t.quires.map (fun e => if e.1 = o / 16 - 8 then (e.1, { e.2 with genWrap := false }) else e) }
    else s
  | none => s

end Sys2Proof.Machine
end

