-- ==== Sys2Proof/Machine/Parting.lean ====
section
/-! DEFINITION. Sys2Proof/Machine/Parting.lean: the parting of regions, their quiet state, and scan-out and scan-in (R109, R162, R207, R208, R271, R272, R309, R310, R336, R337, R368, R369, R400, R401, R424, R425, R442, R446 to R449). -/

namespace Sys2Proof.Machine

/-- The next state of an outcome, the old one where there is none. -/
def nextOr (s : State) : Host.Outcome State Fault Refusal → State
  | .next t => t
  | _ => s

/-- Whether an endpoint is one of a region's issuers: its sites' tiles and engines, its cores, and the unit that serves it (R369). -/
def Region.issues (s : State) (n : Nat) (r : Region) (e : Ep) : Bool :=
  if e.site ≠ blockSite then (e.port == portTile || e.port == portStream) && r.bounds.holds e.die e.site
  else (e.port == portCore && r.bounds.dieList.contains e.die && bit (r.coreMask e.die) e.index)
    || (e.port == portSeq && (Tab.get seqUnitInitial e.die s.seqs).region == n)

/-- Registered waits of a scope removed unreleased in every kettle unit (R368, R369). -/
def withdrawWaits (s : State) (p : Ep → Nat → Bool) : State :=
  { s with kettles := s.kettles.map (fun e => (e.1, { e.2 with waiters := e.2.waiters.filter (fun w => !p w.src w.job) })) }

/-- Whether a RELEASE sent earlier to a scope still lacks its final reply (R368). -/
def releasesDue (s : State) (p : Ep → Nat → Bool) : Bool :=
  List.any s.net.nis (fun (e : Nat × Ni) => e.2.out.any (fun o => o.msg.typ == 4 && kopOf o.msg == 5 && p o.msg.dst o.msg.job))

/-- Whether a delivered message still waits for its unit. -/
def isDelivered (s : State) (m : Msg) : Bool := (niOf s m.dst.die m.dst.site).rx.any (fun b => sameMsg b.msg m && b.stage == .delivered)

/-- Whether a message is a command that its S-tile has begun (R198, R208). -/
def inProgress (s : State) (m : Msg) : Bool :=
  m.dst.site != blockSite && isSp (siteKind m.dst.site) && (spOf s m.dst.die m.dst.site).cmds.any (fun c => sameMsg c.msg m)

/-- A delivered message applied by the row of its TYPE (R318, R337). -/
def applyDelivered (s : State) (m : Msg) : State :=
  let rows : List (State → Host.Outcome State Fault Refusal) :=
    if m.typ = 1 then [execRead m [], execWrite m [], execReadNarrow m [], execWriteNarrow m [], execFill m [], execCopy m [], execLeafSwap m, execQuireQuery m, execGatherFlush m]
    else if m.typ = 4 then [execRelease m]
    else if m.typ = 5 then [execTileIssue m]
    else if m.typ = 6 then [execSummary m]
    else if m.typ = 7 then [execGovUpdate m]
    else if m.typ = 0x0C then [execWithdrawHeld m]
    else []
  rows.foldl (fun s f => if isDelivered s m then nextOr s (f s) else s) s

/-- Complete messages of a site's NI applied in flow order, as many rounds as given (R334, R337). -/
def applyComplete : Nat → State → Nat → Nat → State
  | 0, s, _, _ => s
  | n + 1, s, die, site =>
    let own (b : RxBuf) : Bool := b.msg.dst.port != portNear
    let s := ((niOf s die site).rx.filter (fun b => own b && (b.stage == .partialMsg || b.stage == .waitOrder))).foldl (fun s b => completeMessage s die site b.msg.src b.msg.issuer b.msg.msgId) s
    let s := ((niOf s die site).rx.filter (fun b => own b && b.stage == .delivered && !inProgress s b.msg)).foldl (fun s b => applyDelivered s b.msg) s
    applyComplete n s die site

/-- A site's NI as its region is parted: complete messages are applied, held and incomplete ones refused, and a command in progress keeps its place (R208, R337). -/
def partNi (s : State) (die site : Nat) : State :=
  match Tab.find? (siteKey die site) s.net.nis with
  | none => s
  | some ni =>
    let s := applyComplete ni.rx.length s die site
    ((niOf s die site).rx.filter (fun b => b.msg.dst.port != portNear && !(b.stage == .delivered && inProgress s b.msg))).foldl
      (fun s b => emitReply (discardHeld s b.msg) b.msg 0x82 3 false []) s

/-- A region parted: its NIs first, then its border circuits and its state (R309, R337, R424 step 3). -/
def partRegion (s : State) (n : Nat) : State :=
  match Tab.find? n s.regions with
  | none => s
  | some r =>
    let s := (regionSites s r).foldl (fun s k => partNi s k.1 k.2) s
    let s := setStopped s r true
    match Tab.find? n s.regions with
    | some r => setRegion s n { r with st := .parted }
    | none => s

/-- The requests of a region's sites that have no final reply, the routers' telemetry apart. -/
def regionOut (s : State) (r : Region) : List Outst :=
  List.flatMap (fun (e : Nat × Ni) => if r.hasKey e.1 then e.2.out.filter (fun o => [portStream, portTile, portCollector].contains o.msg.src.port && o.msg.typ != 0x0B) else []) s.net.nis

/-- Whether a request is a stream's host read or host write (R255, R271). -/
def hostRequest (typ : Nat) (m : Msg) : Bool := m.typ == typ && m.src.port == portStream && m.dst.port == portHost && m.dst.site == blockSite

/-- The host reads or the host writes of a region's streams that have no final reply (R272). -/
def hostOut (s : State) (r : Region) (typ : Nat) : List Msg := ((regionOut s r).map Outst.msg).filter (hostRequest typ)

/-- The host reads or the host writes of a region's streams no longer awaited: their answers are dropped (R271, R272). -/
def dropHost (s : State) (r : Region) (typ : Nat) : State :=
  { s with net := { s.net with nis := s.net.nis.map (fun (e : Nat × Ni) => if r.hasKey e.1 then (e.1, { e.2 with out := e.2.out.filter (fun o => !hostRequest typ o.msg) }) else e) } }

/-- The issuers of a parted region stopped: cores halted, held requests withdrawn, words on links brought to their sinks, vectors in the chains finished (R162, R271, R309, R336, R400). -/
def haltRegion (s : State) (n : Nat) : State :=
  match Tab.find? n s.regions with
  | none => s
  | some r =>
    let s := (regionCores r).foldl (fun s c => haltCore s c.1 c.2) s
    let s := (regionOut s r).foldl (fun s o => withdrawHeldMsg s o.msg.src.die o.msg.src.site o.msg.msgId) s
    let s := flushLinks 64 (flushEdges s r) r
    if r.st = .parted then finishChains s r else s

/-- Whether a core has stopped. -/
def coreStopped (c : Core) : Bool := c.st != .running && c.st != .monitor

/-- Whether a parted region is quiet (R271, R309, R400, R424 step 4, R446 step 3). -/
def regionQuiet (s : State) (n : Nat) (suspend : Bool) : Bool :=
  match Tab.find? n s.regions with
  | none => true
  | some r =>
    (regionCores r).all (fun c => coreStopped (coreOf s c.1 c.2)) && (regionOut s r).all (fun o => suspend && (hostRequest 2 o.msg || hostRequest 3 o.msg)) && (regionLinks s r).isEmpty && edgesFlushed s r
      && (!suspend || chainsEmpty s r)

/-- Kettle waits withdrawn, then regions parted and brought to rest; whether they are quiet: while they are not, the step is taken again (R368, R369, R424 steps 2 to 4). -/
def partStep (s : State) (ns : List Nat) (suspend : Bool) : State × Bool :=
  let held := ns.filterMap (fun n => (Tab.find? n s.regions).map (fun r => (n, r)))
  let scope (e : Ep) (_ : Nat) : Bool := held.any (fun r => r.2.issues s r.1 e)
  let s := withdrawWaits s scope
  if releasesDue s scope && held.any (fun r => r.2.st == .running) then (s, false)
  else
    let s := (held.filter (fun r => r.2.st == .running || (!suspend && r.2.st == .blank))).foldl (fun s r => partRegion s r.1) s
    let s := (held.filter (fun r => r.2.st != .suspended)).foldl (fun s r => haltRegion s r.1) s
    let s := if suspend then s else held.foldl (fun s r => dropHost s r.2 2) s
    (s, held.all (fun r => regionQuiet s r.1 suspend))

/-- Commands in progress at a site that goes blank are refused: their source sends them again (R208, R335, R337). -/
def refuseProgress (s : State) (die site : Nat) : State :=
  match Tab.find? (siteKey die site) s.net.nis with
  | none => s
  | some ni => (ni.rx.filter (fun b => inProgress s b.msg)).foldl (fun s b => emitReply (discardHeld s b.msg) b.msg 0x82 3 false []) s

/-- A quiet region's streams discarded, its sites blanked and its cores OFF (R271, R401, R406, R424 step 5). -/
def blankSites (s : State) (n : Nat) : State :=
  match Tab.find? n s.regions with
  | none => s
  | some r =>
    let s := (regionSites s r).foldl (fun s k => if (Tab.find? (siteKey k.1 k.2) s.engines).isSome then discardStreams s k.1 k.2 (fun a => !r.holdsAddr a) else s) s
    offCores (blankRegion ((regionSites s r).foldl (fun s k => refuseProgress s k.1 k.2) s) r) r

/-- Near page numbers that a byte count needs. -/
def pagesFor (n : Nat) : Nat := ceilDiv n (2 ^ 21)

/-- Bytes of a site's scan record (R442). -/
def scanRecord (k : Option SiteKind) : Nat :=
  match k with
  | some .sTile => 2120 * 1024
  | some .dpTile => 2160 * 1024
  | some .mTile => 384 * 1024
  | some .vTile => 96 * 1024
  | some .fTile => 36 * 1024
  | some .xTile => 96 * 1024
  | _ => 0

/-- Bytes of a scan area of bounds on a die (R442). -/
def scanSize (b : Bounds) (die : Nat) : Nat := (4 + 8320) * 1024 + (b.siteList die).foldl (fun n k => n + scanRecord (siteKind k)) 0

/-- The address of a scan area's page. -/
def scanAddr (die page : Nat) : Nat := nearAddr die (page * 2 ^ 21)

/-- The 64-byte scan header (R447). -/
def scanHeader (s : State) (n : Nat) (r : Region) (die : Nat) : List Byte :=
  let seq := (regionSeqs s n).contains die
  leBytes 4 0x4E414353 ++ leBytes 2 1 ++ leBytes 2 n ++ leBytes 1 r.job ++ leBytes 1 die ++ leBytes 2 (r.bounds.siteList die).length ++ leBytes 4 (r.coreMask die)
    ++ leBytes 8 s.now ++ leBytes 8 (scanSize r.bounds die) ++ leBytes 1 (1 + (if seq then 2 else 0)) ++ leBytes 31 0

/-- A kettle wait that was withdrawn is recorded as not sent, so that it is sent again (R369). -/
def stalledM (c : MCtx) : MCtx := if c.wait = .sent then { c with wait := .none, st := if c.st = .blocked then .waiting else c.st } else c
def stalledV (c : VCtx) : VCtx := if c.wait = .sent then { c with wait := .none, st := if c.st = .blocked then .waiting else c.st } else c

/-- A tile's times as a scan holds them: the time waited and the time to the next audit pass (R109, R118). -/
def MTile.timesOut (t : MTile) (now : Nat) : MTile :=
  { t with ctxs := t.ctxs.map (fun c => { c with waitedFrom := now - c.waitedFrom }), auditAt := t.auditAt - now }

/-- A scanned tile's times counted on from now (R109). -/
def MTile.timesIn (t : MTile) (now : Nat) : MTile :=
  { t with ctxs := t.ctxs.map (fun c => { c with waitedFrom := now - c.waitedFrom }), auditAt := now + t.auditAt }

/-- A V-tile's times as a scan holds them, and counted on from a time: the one is the other's inverse (R160, R162). -/
def VTile.timesOut (t : VTile) (now : Nat) : VTile := { t with ctxs := t.ctxs.map (fun c => { c with waitedFrom := now - c.waitedFrom }) }

/-- A grain switch's time as a scan holds it, the time for which a join has been skewed, and counted on from a time: the one is the other's inverse (R292, R310). -/
def GrainSite.timesOut (g : GrainSite) (now : Nat) : GrainSite :=
  { g with els := g.els.map (fun e => (e.1, { e.2 with skewSince := e.2.skewSince.map (fun t => now - t) })) }

def stalledS (x : Strm) : Strm := match x.phase with
  | .trigger .sent => { x with phase := .trigger .none }
  | _ => x

/-- What a region's scan-out captures (R109, R162, R208, R272, R310, R400, R447). -/
def scanOf (s : State) (n : Nat) (r : Region) : Scan :=
  let own {α : Type} (t : Tab α) : Tab α := t.filter (fun e => r.hasKey e.1)
  let cores := regionCores r
  { sTiles := own s.sTiles
    mTiles := (own s.mTiles).map (fun e => (e.1, MTile.timesOut { e.2 with ctxs := e.2.ctxs.map stalledM } s.now))
    vTiles := (own s.vTiles).map (fun e => (e.1, VTile.timesOut { e.2 with ctxs := e.2.ctxs.map stalledV } s.now))
    fTiles := own s.fTiles
    grain := (own s.grain).map (fun e => (e.1, e.2.timesOut s.now))
    engines := (own s.engines).map (fun e => (e.1, { e.2 with slots := e.2.slots.map (fun x => (x.1, stalledS x.2)) }))
    cores := cores.map (fun c => (coreKey c.1 c.2, coreOf s c.1 c.2))
    seq := (s.seqs.filter (fun e => e.2.region == n)).map (fun e => (e.1, { e.2 with waiting := false }))
    cells := s.mem.filter (fun c => r.holdsAddr c.1)
    reads := hostOut s r 2
    writes := hostOut s r 3
    complete := true }

/-- A quiet region scanned out into its scan areas; its dropped reads and listed writes leave the HOST port (R272, R446 step 4). -/
def scanOut (s : State) (n : Nat) : State :=
  match Tab.find? n s.regions with
  | none => s
  | some r =>
    let s' := r.scanAreas.foldl (fun s a => storeBytes s (scanAddr a.1 a.2.1) (scanHeader s n r a.1)) s
    setRegion (dropHost (dropHost s' r 2) r 3) n { r with scan := some (scanOf s n r) }

/-- Whether a scan area reads as complete: MAGIC, REGION and COMPLETE stand in its header and no codeword of it is uncorrectable (R450). -/
def scanReadable (s : State) (n : Nat) (r : Region) : Bool :=
  r.scanAreas.all (fun a =>
    let base := scanAddr a.1 a.2.1
    let h := leNat (memGetList s.mem base 64)
    fld h 0 4 == 0x4E414353 && fld h 6 2 == n && bit (fld h 32 1) 0
      && s.flips.all (fun f => !(decide (base ≤ f.1) && decide (f.1 < base + scanSize r.bounds a.1) && decodePattern f.2 == .uncorrectable)))

/-- A table's entries set over another's. -/
def Tab.over {α : Type} (new old : Tab α) : Tab α := new.foldl (fun t e => Tab.set e.1 e.2 t) old

/-- Dropped host reads, listed host writes and withdrawn held requests of an engine sent again as new messages, their streams following the new numbers (R272). -/
def relistEngine (s : State) (key : Nat) : State :=
  let die := key / 1024
  let site := key % 1024
  let ms := (enOf s die site).relist
  let s := setEn s die site { enOf s die site with relist := [] }
  ms.foldl (fun s m =>
    let id := nextMsgId s (streamEp die site)
    let e := enOf s die site
    let s := setEn s die site { e with slots := e.slots.map (fun x => (x.1, { x.2 with outst := x.2.outst.map (fun o => if o.id == m.msgId then { o with id := id } else o) })) }
    sendReq s m.src m.issuer m.job m.typ m.dst m.arg m.data) s

/-- Posted operations that a halt withdrew sent again (R400). -/
def relistCore (s : State) (key : Nat) : State :=
  let die := key / 64
  let core := key % 64
  let ms := (coreOf s die core).relist
  ms.foldl (fun s m => sendReq s m.src m.issuer m.job m.typ m.dst m.arg m.data) (modCore s die core (fun c => { c with relist := [] }))

/-- A region's state scanned in over its written configuration (R449 step 2). -/
def scanIn (s : State) (sc : Scan) : State :=
  let s := { s with
    sTiles := Tab.over sc.sTiles s.sTiles, mTiles := Tab.over (sc.mTiles.map (fun e => (e.1, e.2.timesIn s.now))) s.mTiles, vTiles := Tab.over (sc.vTiles.map (fun e => (e.1, e.2.timesOut s.now))) s.vTiles, fTiles := Tab.over sc.fTiles s.fTiles
    grain := Tab.over (sc.grain.map (fun e => (e.1, e.2.timesOut s.now))) s.grain, engines := Tab.over sc.engines s.engines, cores := Tab.over sc.cores s.cores, seqs := Tab.over sc.seq s.seqs
    mem := sc.cells.foldl (fun m c => memPut m c.1 c.2) s.mem }
  (sc.reads ++ sc.writes).foldl (fun s m => let e := enOf s m.src.die m.src.site; setEn s m.src.die m.src.site { e with relist := e.relist ++ [m] }) s

/-- What waits for a resumed region's start: engines and cores send what a withdrawal took back, streams wait on their triggers again, and halted cores run on (R272, R369, R400, R449). -/
def restartRegion (s : State) (sc : Scan) : State :=
  let s := sc.engines.foldl (fun s e =>
    e.2.slots.foldl (fun s x => triggerPass s (e.1 / 1024) (e.1 % 1024) x.1) (relistEngine s e.1)) s
  sc.cores.foldl (fun s e =>
    let s := relistCore s e.1
    modCore s (e.1 / 64) (e.1 % 64) (fun c => if c.st = .halted then { c with st := .running, meip := false } else c)) s

end Sys2Proof.Machine
end

