-- ==== Sys2Proof/Machine/SiteChecks.lean ====
section
/-! DEFINITION. Sys2Proof/Machine/SiteChecks.lean: the checks of a load's staged configuration against the rules of the tiles, the S-tiles, the grain fabric, the programs and the good-unit map (R24, R181, R187 to R192, R200, R279 to R302, R308, R316, R385, R413, R416, R422, R458, R463). -/

namespace Sys2Proof.Machine

/-- One region of a load: its number, its job and its signature. -/
structure LoadPart where
  region : Nat
  job : Nat
  sig : Sig
  deriving DecidableEq, Repr

/-- The sites of a load's part on its usable dies. -/
def LoadPart.sites (p : LoadPart) (s : State) : List (Nat × Nat) :=
  (p.sig.bounds.dieList.filter (fun d => !(dieOf s d).fenced)).flatMap (fun d => (p.sig.bounds.siteList d).map (fun k => (d, k)))

/-- A job's rank table with a region's old entries removed and its new ones written (R416, R424 step 6, R432). -/
def rewriteRanks (t : Tab Nat) (old new : Option Sig) : Tab Nat :=
  let t := ((old.map Sig.ranks).getD []).foldl (fun t r => Tab.erase r.1 t) t
  ((new.map Sig.ranks).getD []).foldl (fun t r => if bit r.2 63 then Tab.set r.1 r.2 t else Tab.erase r.1 t) t

/-- The package as it would be with the load's sites and ranks written: what the checks look at (R416, R421, R422). -/
def nextSites (s : State) (ps : List LoadPart) : State :=
  ps.foldl (fun s p =>
    let s := modJob s p.job (fun j => { j with rankTable := rewriteRanks j.rankTable ((Tab.find? p.region s.regions).bind Region.sig) (some p.sig) })
    (p.sites s).foldl (fun s k => writeSite s p.sig k.1 k.2) s) s

/-- The part of a load that holds a site. -/
def partAt (ps : List LoadPart) (die site : Nat) : Option LoadPart := ps.find? (fun p => p.sig.bounds.holds die site)

/-- An M-tile's configuration (R94, R121, R122, R129). -/
def mSiteOk (g : Sig) (die site : Nat) : Bool :=
  !g.tileUsed die site ||
  (let t := g.loadMTile die site mTileInitial
  decide (1 ≤ fld t.site.toNat 0 1) && zeroBytes t.site.toNat 1 32
    && (upTo 4).all (fun c =>
      let d := g.ctxDesc die site 0x1040 c
      if bit (dfld d 0 1) 0 then mCtxOk d && (dfld d 1 1 != 0 || (g.ring die site 0x1040 c (dfld d 16 1)).all (mDescOk d)) else dfld d 0 1 == 0 && zeroBytes d.toNat 17 20 && zeroBytes d.toNat 24 64)
    && mWindowsApart (((upTo 4).map (g.ctxDesc die site 0x1040)).filter (fun d => bit (dfld d 0 1) 0)))

/-- A V-tile's configuration (R138, R143, R159, R163). -/
def vTileOk (g : Sig) (die site : Nat) : Bool :=
  !g.tileUsed die site ||
  (let t := g.loadVTile die site
  let site0 := t.site.toNat
  vSiteOk site0 && List.all t.chains (fun (c : Nat × List Word) => chainOk (fld site0 8 1) (fld site0 9 1) c.2)
    && (upTo 4).all (fun c =>
      let d := g.ctxDesc die site 0x2400 c
      if bit (dfld d 0 1) 0 then vCtxOk d && (dfld d 1 1 != 0 || (g.ring die site 0x2400 c (dfld d 2 1)).all (vDescOk t.chains)) else dfld d 0 1 == 0 && dfld d 3 1 == 0 && zeroBytes d.toNat 18 64)
    && decide ((t.govAll []).length ≤ 8))

/-- An F-tile's configuration (R167). -/
def fTileOk (g : Sig) (die site : Nat) : Bool := (g.loadFTile die site).links.all (fun l => fLinkOk l.desc)

/-- A range-table entry (R181). -/
def rangeOk (g : Sig) (die site k : Nat) : Bool :=
  let r := g.range die site k
  let z (off n : Nat) : Bool := g.image die site (0x1100 + 16 * k + off) n == 0
  decide (r.kind ≤ 2) && decide (r.init ≤ 2) && z 3 1 && z 12 4
    && (r.kind == 0 || (decide (1 ≤ r.count) && decide (r.base + r.count ≤ 65536) && (if r.kind = 1 then decide (1 ≤ r.readers) && decide (r.readers ≤ 15) else r.readers == 0)))

/-- Whether a run of slots lies in one used range (R181). -/
def inRange (rs : List SpRange) (base count : Nat) : Bool :=
  rs.any (fun r => (r.kind == 1 || r.kind == 2) && decide (r.base ≤ base) && decide (base + count ≤ r.base + r.count))

/-- A quire descriptor (R192). -/
def quireOk (rs : List SpRange) (d : Nat) : Bool :=
  if fld d 0 1 = 0 then decide (fld d 12 1 ≤ 3) && zeroBytes d 13 32
  else
    let r := nth { kind := 0, readers := 0, init := 0, base := 0, count := 0 } (fld d 1 1) rs
    fld d 0 1 == 1 && decide (fld d 1 1 < 16) && (r.kind == 1 || r.kind == 2) && decide (1 ≤ fld d 8 4) && decide (fld d 8 4 ≤ 32768)
      && decide (r.base ≤ fld d 4 4) && decide (fld d 4 4 + 2 * fld d 8 4 ≤ r.base + r.count) && decide (fld d 12 1 ≤ 3) && zeroBytes d 13 32

/-- A channel descriptor (R187 to R189). -/
def chanOk (rs : List SpRange) (quire : Nat → Nat) (d : Nat) : Bool :=
  if fld d 0 1 % 2 = 0 then decide (fld d 0 1 ≤ 3) && decide (fld d 8 1 ≤ 3) && zeroBytes d 9 12 && zeroBytes d 36 64
  else
    let writes := bit (fld d 0 1) 1
    let mode := fld d 1 1
    let ic := fld d 20 4
    let oc := fld d 28 4
    let rows := if mode = 1 then 16 else if mode = 2 then 8 else 1
    let last := fld d 12 4 + (oc - 1) * fld d 24 4 + (ic - 1) * (if mode = 0 then fld d 16 4 else 1) + (rows - 1) * fld d 16 4
    bit (fld d 0 1) 0 && decide (fld d 0 1 ≤ 3) && decide (mode ≤ 2) && (mode == 0 || !writes) && decide (fld d 2 2 < 0x8000)
      && (decide (fld d 4 1 < 16) || fld d 4 1 == 0xFF) && decide (fld d 5 1 ≤ (if writes then 3 else 2)) && decide (fld d 8 1 ≤ 3) && zeroBytes d 9 12
      && decide (fld d 12 4 < 65536) && decide (fld d 16 4 < 65536) && decide (1 ≤ ic) && decide (ic ≤ 65536) && decide (fld d 24 4 < 65536)
      && decide (1 ≤ oc) && decide (oc ≤ 65536) && zeroBytes d 36 64 && decide (ic * oc * rows ≤ 2 ^ 24)
      && !(writes && fld d 16 4 == 0 && decide (1 < ic)) && (mode == 0 || decide (1 ≤ fld d 16 4))
      && (if fld d 4 1 = 0xFF then inRange rs (fld d 12 4) (last + 1 - fld d 12 4)
          else fld (quire (fld d 4 1)) 0 1 == 1 && decide (last < fld (quire (fld d 4 1)) 8 4))

/-- An S-tile's configuration (R181, R187 to R192, R200). -/
def sSiteOk (g : Sig) (die site : Nat) : Bool :=
  let rs := (upTo 16).map (g.range die site)
  decide (g.image die site 0x1000 1 ≤ 1) && g.image die site 0x1001 31 == 0 && (upTo 16).all (rangeOk g die site)
    && (upTo 16).all (fun i => (upTo i).all (fun j =>
      let a := nth { kind := 0, readers := 0, init := 0, base := 0, count := 0 } i rs
      let b := nth { kind := 0, readers := 0, init := 0, base := 0, count := 0 } j rs
      a.kind == 0 || b.kind == 0 || !overlap a.base a.count b.base b.count))
    && (upTo 16).all (fun q => quireOk rs (g.quireDesc die site q)) && (upTo 8).all (fun n => chanOk rs (g.quireDesc die site) (g.chanDesc die site n))

/-- Bytes of a site's image that its kind gives no meaning must be 0 (R413). -/
def imageZeros (g : Sig) (die site : Nat) : Bool :=
  let z (a b : Nat) : Bool := (upTo ((b - a) / 32)).all (fun k => g.imageWord die site (a / 32 + k) == 0)
  z 0xDA0 0xE00 && z 0xF00 0x1000 &&
  (match siteKind site with
  | some .mTile => g.image die site 0x1020 32 == 0 && z 0x2140 0x8000
  | some .vTile => z 0x1120 0x1200 && z 0x3500 0x8000
  | some .fTile => z 0x1040 0x8000
  | some .sTile => z 0x1020 0x1100 && z 0x1600 0x8000
  | some .dpTile => z 0x1020 0x1100 && z 0x1600 0x2000 && z 0x2A00 0x8000
  | some .xTile => g.image die site 0x11F4 12 == 0 && g.image die site 0x13F4 12 == 0 && z 0x1400 0x2000 && z 0x2A00 0x8000
  | _ => true)

/-- The static streams of a site: empty slots hold 0, the others pass the checks of an enqueue (R251, R413). -/
def staticOk (h : State) (g : Sig) (job die site : Nat) : Bool :=
  if !hasEngine die site then true
  else (upTo 16).all (fun i =>
    let d := BitVec.ofNat 1280 (g.image die site (0x2000 + 0xA0 * i) 160)
    if fld d.toNat 0 1 = 0 then d == 0 else (streamCheck h die site job d).isNone)

/-- The number that a tile's descriptors give a port's circuit, none where the port has none (R85, R121, R163, R167, R187, R260, R299). -/
def portCircuit (h : State) (g : Sig) (die site tport ctx : Nat) : Option (Nat × Bool) :=
  match siteKind site with
  | some .mTile =>
    let d := ((mtOf h die site).ctx ctx).desc
    if dfld d 0 1 = 1 ∧ tport < 4 then some (dfld d (8 + 2 * tport) 2, tport == 3) else none
  | some .vTile =>
    let t := vtOf h die site
    if tport = 5 ∨ tport = 6 then none
    else if dfld (t.ctx ctx).desc 0 1 = 1 ∧ tport < 5 then some (dfld (t.ctx ctx).desc (8 + 2 * tport) 2, decide (3 ≤ tport)) else none
  | some .xTile => none
  | some .fTile => none
  | some _ =>
    let c := Tab.get chanInitial tport (spOf h die site).chans
    if bit (c.f 0 1) 0 ∧ tport < 8 ∧ g.touches die site then some (c.f 2 2, !c.writes) else none
  | none => none

/-- Whether a tile's descriptors name an endpoint's circuit on its port, in its direction (R299). -/
def epNamed (h : State) (g : Sig) (die site : Nat) (e : GrainEp) : Bool :=
  let source := e.kind == 1
  match siteKind site with
  | some .vTile =>
    let d := (vtOf h die site).site.toNat
    if e.tport = 5 then fld d (if source then 0 else 2) 2 == e.circuit
    else if e.tport = 6 then fld d (if source then 4 else 6) 2 == e.circuit
    else portCircuit h g die site e.tport e.ctx == some (e.circuit, source)
  | some .fTile =>
    let d := (nth fLinkInitial e.tport (ftOf h die site).links).desc.toNat
    decide (e.tport < 2) && fld d 0 1 != 0 && fld d (if source then 10 else 8) 2 == e.circuit
  | some .xTile => e.tport == 0
  | some _ => portCircuit h g die site e.tport e.ctx == some (e.circuit, source)
  | none => false

/-- The words that a tile's port holds as a sink; an M-tile's ACC port holds 17 of each circuit (R85, R286; DESIGN CHOICE, log entry 107). -/
def portCapacity (site tport : Nat) : Nat :=
  match siteKind site with
  | some .mTile => if tport = 0 then 32 else if tport = 1 then 16 else 17
  | some .vTile => if tport < 3 then 16 else 64
  | some .fTile => 64
  | some .xTile => 32
  | some _ => 16
  | none => 0

/-- The lanes that a circuit can use at a tile's port: an M-tile's A port 3 and its others 1, a V-tile's inputs and outputs 4 and its F links 2, an F-tile's links 2; the local port has 8 (R85, R133, R150, R277). -/
def portLanes (site tport : Nat) : Nat :=
  match siteKind site with
  | some .mTile => if tport = 0 then 3 else 1
  | some .vTile => if tport < 5 then 4 else 2
  | some .fTile => 2
  | _ => 8

/-- The grain entries of a site that a predicate on table, slot and entry selects. -/
def GrainSite.pick (g : GrainSite) (p : Nat → Nat → Nat → Bool) : List (Nat × Nat × Nat) :=
  (g.slots.filter (fun e => entValid e.2 && p (e.1 / 16) (e.1 % 16) e.2)).map (fun e => (e.1 / 16, e.1 % 16, e.2))

/-- An endpoint entry as its image gives it (R286, R299). -/
def endpointOk (h : State) (g : Sig) (job die site n : Nat) : Bool :=
  let raw := g.image die site (0xE00 + 8 * n) 8
  let e := epEntry raw
  let gr := grOf h die site
  if e.kind = 0 then raw == 0
  else
    e.kind != 3 && bits raw 30 24 == 0 && bits raw 9 7 == 0 && bits raw 6 0 == 0 && !bit raw 44 && e.job == job && decide (e.circuit < 0x8000)
      && decide (1 ≤ e.rate) && decide (e.rate ≤ 64) && epNamed h g die site e
      && (let own := if e.kind = 1 then gr.pick (fun _ _ x => entSrc x == 4 && entCircuit x == e.circuit)
            else gr.pick (fun t _ x => decide (16 ≤ t) && decide (t < 24) && entCircuit x == e.circuit)
          own.length == e.rate && decide ((own.map (fun x => if e.kind = 1 then entLane x.2.2 else x.1)).eraseDups.length ≤ portLanes site e.tport))
      && (if e.kind = 2 then e.capacity == portCapacity site e.tport
          else decide (1 ≤ e.capacity) && decide (e.capacity ≤ 64) && (circuitCapacity h job e.circuit).all (· == e.capacity))

/-- An element descriptor; of one that is not enabled only the values that its layout defines are asked for (R298). -/
def elementOk (job n : Nat) (d : Nat) : Bool :=
  if fld d 0 1 = 0 then
    decide (fld d 1 1 ≤ (if n < 2 ∨ n = 4 ∨ n = 5 then 1 else 0)) && decide (fld d 4 1 ≤ (if n = 2 ∨ n = 3 then 1 else 0)) && decide (fld d 5 1 < 64) && zeroBytes d 6 16
  else
    let m := fld d 1 1
    let p0 := fld d 2 1
    let p1 := fld d 3 1
    fld d 0 1 == 1 && fld d 5 1 == job && zeroBytes d 6 16 &&
    (if n < 2 then decide (m ≤ 1) && fld d 4 1 == 0 && (if m = 1 then decide (1 ≤ p0) && decide (p0 ≤ 32) && decide (1 ≤ p1) && decide (p1 ≤ 32) else p0 == 0 && p1 == 0)
     else if n < 4 then m == 0 && decide (fld d 4 1 ≤ 1) && decide (1 ≤ p0) && decide (p0 ≤ 64) && decide (1 ≤ p1) && decide (p1 ≤ 64)
     else if n < 6 then decide (m ≤ 1) && p0 == 0 && p1 == 0 && fld d 4 1 == 0
     else m == 0 && decide (2 ≤ p0) && decide (p0 ≤ 4) && p1 == 0 && fld d 4 1 == 0)

/-- The lanes that a source has (R282). -/
def laneOk (src lane : Nat) : Bool :=
  if src < 4 then decide (lane < 4) else if src = 4 then true else if src = 5 ∨ src = 6 ∨ src = 9 ∨ src = 10 then decide (lane < 2) else decide (src < 15) && lane == 0

/-- Whether a side of a site leads to an edge link that grain circuits can use, or to a neighbouring site (R20, R302). -/
def sideOk (die site side : Nat) : Bool := if isEdgeSide site side then (edgePeer die site).isSome else (siteNeighbour site side).isSome

/-- Whether two entries carry the same circuit. -/
def sameCircuit (a b : Nat) : Bool := entJob a == entJob b && entCircuit a == entCircuit b

/-- A circuit's slots of a site that lead to, or come from, one of its sides. -/
def GrainSite.towards (g : GrainSite) (side e : Nat) : List (Nat × Nat × Nat) := g.pick (fun t _ x => decide (t < 16) && t / 4 == side && sameCircuit x e)
def GrainSite.comes (g : GrainSite) (side e : Nat) : List (Nat × Nat × Nat) := g.pick (fun _ _ x => entSrc x == side && sameCircuit x e)

/-- The word that a site drives onto a link is taken across it under the same circuit; across a border, where the circuit stands it stands in the same slots and lanes (R279, R280). -/
def outMeets (h : State) (ps : List LoadPart) (job die site t slot e : Nat) : Bool :=
  let side := t / 4
  if isEdgeSide site side then true
  else match siteNeighbour site side with
    | none => false
    | some k =>
      let g := grOf h die k
      let met := g.pick (fun _ sl x => sl == (slot + 1) % 16 && entSrc x == opposite side && entLane x == t % 4)
      match partAt ps die k with
      | some _ => met.any (fun x => sameCircuit x.2.2 e)
      | none => siteJob h die k == job && met.all (fun x => sameCircuit x.2.2 e)
          && (let there := g.comes (opposite side) e
              there.isEmpty || (!met.isEmpty && there.length == ((grOf h die site).towards side e).length))

/-- The word that an entry takes from a link is driven there under the same circuit (R279, R280). -/
def inMeets (h : State) (ps : List LoadPart) (job die site slot e : Nat) : Bool :=
  let side := entSrc e
  if isEdgeSide site side then true
  else match siteNeighbour site side with
    | none => false
    | some k =>
      let g := grOf h die k
      let d := g.entry (4 * opposite side + entLane e) ((slot + 15) % 16)
      match partAt ps die k with
      | some _ => entValid d && sameCircuit d e
      | none => siteJob h die k == job && (!entValid d || sameCircuit d e)
          && (let there := g.towards (opposite side) e
              there.isEmpty || (entValid d && there.length == ((grOf h die site).comes side e).length))

/-- Where an entry's words come from at a site: a side, the tile, or an element's output. -/
def entFrom (e : Nat) : Nat := if entSrc e < 5 then entSrc e else 8 * entSrc e + entLane e

/-- Where a table's words go at a site: a side, the tile, or an element's input. -/
def tableTo (t : Nat) : Nat := if t < 16 then t / 4 else if t < 24 then 4 else t

/-- An entry keeps its circuit on one path of one rate: the circuit's words that come from one place go to one place and no others go there, at most 64 in a frame, and where the circuit passes the site more than once it does so at one rate (R279). -/
def pathOk (g : GrainSite) (t e : Nat) : Bool :=
  let own := g.pick (fun _ _ x => sameCircuit x e)
  own.all (fun x => (entFrom x.2.2 == entFrom e) == (tableTo x.1 == tableTo t)
      && (own.filter (fun y => tableTo y.1 == tableTo x.1)).length == (own.filter (fun y => tableTo y.1 == tableTo t)).length)
    && decide ((own.filter (fun y => tableTo y.1 == tableTo t)).length ≤ 64)

/-- One slot-table entry (R279 to R284). -/
def slotEntryOk (h : State) (ps : List LoadPart) (job die site t slot e : Nat) : Bool :=
  let g := grOf h die site
  bits e 23 22 == 0 &&
  (!entValid e ||
    (entJob e == job && decide (entCircuit e < 0x8000) && decide (entSrc e < 15) && laneOk (entSrc e) (entLane e)
      && (decide (4 ≤ entSrc e) || sideOk die site (entSrc e)) && (decide (16 ≤ t) || sideOk die site (t / 4))
      && (entSrc e != 4 || (g.sourceOf job (entCircuit e)).isSome)
      && (!(decide (16 ≤ t) && decide (t < 24)) || (g.sinkOf job (entCircuit e)).isSome)
      && (match srcElement (entSrc e) (entLane e) with
        | some (n, o) => (g.el n).on && (g.pick (fun _ _ x => srcElement (entSrc x) (entLane x) == some (n, o))).all (fun x => sameCircuit x.2.2 e)
        | none => true)
      && (match tableElement t with
        | some (n, _) => (g.el n).on && (g.pick (fun u _ _ => u == t)).all (fun x => sameCircuit x.2.2 e)
        | none => true)
      && (decide (4 < entSrc e) || (g.pick (fun _ sl x => sl == slot && entSrc x == entSrc e && entLane x == entLane e)).length == 1)
      && (g.pick (fun u sl x => sl == slot && tableTo u == tableTo t && decide (t < u) && entSrc x == entSrc e && sameCircuit x e)).all (fun x => decide (entLane e < entLane x.2.2))
      && pathOk g t e
      && (decide (16 ≤ t) || outMeets h ps job die site t slot e) && (decide (4 ≤ entSrc e) || inMeets h ps job die site slot e)))

/-- The edge slots that a circuit owns in an edge slot table. -/
def edgeSlots (t : Tab Nat) (e : Nat) : Nat := (List.filter (fun (x : Nat × Nat) => entValid x.2 && sameCircuit x.2 e) t).length

/-- An X-tile's edge slot tables: their entries, the limit of 93, the slots of the mull fabric, the circuits' shares, and agreement with the peer (R24, R302, R316). -/
def edgeTablesOk (h : State) (ps : List LoadPart) (job die site : Nat) : Bool :=
  let g := grOf h die site
  let side := (xEdge site).1
  let entryOk (x : Nat × Nat) : Bool := entValid x.2 && bits x.2 30 22 == 0 && entJob x.2 == job && decide (entCircuit x.2 < 0x8000) && x.1 % 4 != 0
  let outs := g.pick (fun t _ _ => decide (t < 16) && t / 4 == side)
  let ins := g.pick (fun _ _ x => entSrc x == side)
  let share (t : Tab Nat) (own : List (Nat × Nat × Nat)) : Bool :=
    own.all (fun x => decide (ceilDiv (9 * (own.filter (fun y => sameCircuit y.2.2 x.2.2)).length) 4 ≤ edgeSlots t x.2.2))
      && List.all t (fun (x : Nat × Nat) => own.any (fun y => sameCircuit y.2.2 x.2))
  List.all g.xout entryOk && List.all g.xin entryOk && decide (g.xout.length ≤ 93) && decide (g.xin.length ≤ 93) && share g.xout outs && share g.xin ins &&
  (match edgePeer die site with
  | none => g.xout.isEmpty && g.xin.isEmpty
  | some (d, k) =>
    let p := grOf h d k
    match partAt ps d k with
    | some _ => (upTo 125).all (fun j => Tab.get 0 j g.xout == Tab.get 0 j p.xin && Tab.get 0 j g.xin == Tab.get 0 j p.xout)
        && outs.all (fun x => (p.comes (opposite side) x.2.2).length == (g.towards side x.2.2).length)
        && ins.all (fun x => (p.towards (opposite side) x.2.2).length == (g.comes side x.2.2).length)
    | none =>
      let agree (a b : Tab Nat) (j : Nat) : Bool :=
        let x := Tab.get 0 j a
        let y := Tab.get 0 j b
        x == y || (x != 0 && y == 0 && edgeSlots b x == 0) || (x == 0 && y != 0 && edgeSlots a y == 0)
      (g.xout.isEmpty && g.xin.isEmpty) || (siteJob h d k == job && (upTo 125).all (fun j => agree g.xout p.xin j && agree g.xin p.xout j)
        && outs.all (fun x => let n := (p.comes (opposite side) x.2.2).length
          n == 0 || n == (g.towards side x.2.2).length)
        && ins.all (fun x => let n := (p.towards (opposite side) x.2.2).length
          n == 0 || n == (g.comes side x.2.2).length)))

/-- The site and element input that a circuit's words reach over links (R281). -/
def circuitElement (h : State) (job c : Nat) : Option (Nat × Nat) :=
  List.findSome? (fun (k : Nat × GrainSite) =>
    ((k.2.pick (fun t _ x => decide (24 ≤ t) && entJob x == job && entCircuit x == c)).head?).bind (fun x => (tableElement x.1).map (fun n => (k.1, n.1)))) h.grain

/-- The site of a circuit's sink endpoint. -/
def circuitSink (h : State) (job c : Nat) : Option Nat := List.findSome? (fun (k : Nat × GrainSite) => (k.2.sinkOf job c).map (fun _ => k.1)) h.grain

/-- The circuits of an element's outputs. -/
def elementOuts (h : State) (key n : Nat) : List Nat := (upTo 2).filterMap (fun o => ((Tab.get grainInitial key h.grain).outCircuit n o).map (·.2))

/-- Whether every join that a circuit reaches along links and elements alone watches its skew, the fuel bounding the elements passed (R292). -/
def joinsWatched (h : State) (job : Nat) : Nat → List Nat → Bool
  | 0, _ => true
  | _, [] => true
  | f + 1, c :: cs =>
    match circuitElement h job c with
    | none => joinsWatched h job f cs
    | some (key, n) =>
      if 2 ≤ n ∧ n < 4 then ((Tab.get grainInitial key h.grain).el n).watch && joinsWatched h job f (cs ++ elementOuts h key n)
      else joinsWatched h job f (cs ++ elementOuts h key n)

/-- The forks of a site: the branches of a lockstep fork do not end at one tile, and joins behind a decoupled fork watch (R288, R292). -/
def forksOk (h : State) (job die site : Nat) : Bool :=
  let g := grOf h die site
  (upTo 2).all (fun n =>
    let x := g.el n
    if !x.on then true
    else
      let outs := elementOuts h (siteKey die site) n
      if x.mode = 1 then joinsWatched h job 1000 outs
      else match outs.map (circuitSink h job) with
        | [some a, some b] => a != b
        | _ => true)

/-- A site's grain configuration (R279 to R302). -/
def grainOk (h : State) (ps : List LoadPart) (g : Sig) (job die site : Nat) : Bool :=
  List.all (grOf h die site).slots (fun (e : Nat × Nat) => slotEntryOk h ps job die site (e.1 / 16) (e.1 % 16) e.2)
    && (upTo 10).all (fun n => elementOk job n (g.image die site (0xD00 + 16 * n) 16)) && (upTo 32).all (endpointOk h g job die site)
    && (siteKind site != some .xTile || edgeTablesOk h ps job die site)

/-- The circuits of a load's job each have one source and one sink: a tile's endpoint, or an element's output or input (R279, R280). -/
def circuitsOnce (h : State) (p : LoadPart) : Bool :=
  let eps (kind : Nat) : List Nat := List.flatMap (fun (k : Nat × GrainSite) => (k.2.eps.filter (fun e => e.2.kind == kind && e.2.job == p.job)).map (fun e => e.2.circuit)) h.grain
  let ends (f : Nat → Nat → Option Nat) : List Nat := List.flatMap (fun (k : Nat × GrainSite) =>
    (((k.2.pick (fun _ _ x => entJob x == p.job)).filterMap (fun x => (f x.1 x.2.2).map (fun n => (n, entCircuit x.2.2)))).eraseDups).map (·.2)) h.grain
  let once (l : List Nat) : Bool := decide (l.eraseDups.length = l.length)
  once (eps 1 ++ ends (fun _ x => (srcElement (entSrc x) (entLane x)).map (fun n => n.1 * 2 + n.2))) && once (eps 2 ++ ends (fun t _ => if 24 ≤ t then some t else none))

/-- The forks and joins of a job wherever they stand keep their rules with the load (R288, R292). -/
def jobForksOk (h : State) (job : Nat) : Bool :=
  List.all h.grain (fun (k : Nat × GrainSite) => siteJob h (k.1 / 1024) (k.1 % 1024) != job || forksOk h job (k.1 / 1024) (k.1 % 1024))

/-- Each F link of a job's V-tiles, as far as its ends stand, leads to one link of one F-tile in FCALL mode, bound to its function, which answers on the link's return circuit (R151, R163, R167). -/
def fLinksOk (h : State) (job : Nat) : Bool :=
  List.all h.vTiles (fun (k : Nat × VTile) =>
    siteJob h (k.1 / 1024) (k.1 % 1024) != job || (upTo 2).all (fun n =>
      let d := k.2.site.toNat
      let req := fld d (4 * n) 2
      req == 0xFFFF || ((circuitElement h job req).isNone && (match circuitAt h 2 job req with
        | none => true
        | some (key, _, p) =>
          let l := nth fLinkInitial p.tport (ftOf h (key / 1024) (key % 1024)).links
          siteKind (key % 1024) == some .fTile && l.f 0 1 == 1 && l.f 1 1 == fld d (8 + n) 1 && l.f 10 2 == fld d (4 * n + 2) 2))))

/-- The descriptors of a timed region's tiles use only ports with circuits (R458). -/
def timedTile (g : Sig) (die site : Nat) : Bool :=
  match siteKind site with
  | some .mTile => (upTo 4).all (fun c =>
      let d := g.ctxDesc die site 0x1040 c
      dfld d 0 1 == 0 || (dfld d 1 1 == 0 && (g.ring die site 0x1040 c (dfld d 16 1)).all (fun o =>
        !((dfld o 0 1 == 1 && dfld d 8 2 == 0xFFFF) || (dfld o 0 1 == 2 && dfld d 10 2 == 0xFFFF) || (dfld o 0 1 == 5 && dfld d 14 2 == 0xFFFF)))))
  | some .vTile => (upTo 4).all (fun c =>
      let d := g.ctxDesc die site 0x2400 c
      dfld d 0 1 == 0 || (dfld d 1 1 == 0 && (g.ring die site 0x2400 c (dfld d 2 1)).all (fun o =>
        dfld o 0 1 != 1 || ((upTo 3).all (fun p => dfld o 18 2 / 16 ^ p % 16 == 0 || dfld d (8 + 2 * p) 2 != 0xFFFF)
          && (upTo 2).all (fun p => !bit (dfld o 29 1) p || dfld d (14 + 2 * p) 2 != 0xFFFF)))))
  | _ => true

/-- A timed region's conditions at a site (R458). -/
def timedOk (g : Sig) (die site : Nat) : Bool :=
  !bit g.mflags 0 || (timedTile g die site && (g.staticStreams die site).all (fun d =>
    siteKind site == some .dpTile && spaceOf (fld d.toNat 32 8) == 0 && bits (fld d.toNat 32 8) 42 36 == die && !bit (fld d.toNat 1 1) 3))

/-- A program descriptor (R385). -/
def programOk (d : BitVec 1024) : Bool :=
  let n := d.toNat
  let k := fld n 1 1
  decide (fld n 0 1 ≤ 1) && decide (k ≤ 6) && zeroBytes n 2 8 && ((upTo 6).drop k).all (fun i => zeroBytes n (32 + 16 * i) (48 + 16 * i))
    && (upTo (min 6 k)).all (fun i =>
      let w := fld n (32 + 16 * i) 16
      let size := 2 ^ fld w 4 1
      decide (12 ≤ fld w 4 1) && decide (fld w 4 1 ≤ 22) && fld w 0 4 % size == 0 && decide (0x100000 ≤ fld w 0 4) && decide (fld w 0 4 + size ≤ 0x800000)
        && decide (fld w 5 1 < 8) && !(bit (fld w 5 1) 1 && bit (fld w 5 1) 2) && zeroBytes w 6 16)
    && (fld n 0 1 == 0 || (fld n 8 8 % 2 == 0 && (progWindows d).any (fun w => bit w.2.2 2 && decide (w.1 ≤ fld n 8 8) && decide (fld n 8 8 < w.1 + w.2.1))))

/-- The windows of a load's part on a die, as its signature would give them. -/
def LoadPart.windows (p : LoadPart) (die : Nat) : List (Nat × Nat × Nat) :=
  (upTo 32).flatMap (fun c => ((p.sig.program die c).map progWindows).getD [])

/-- A load's programs: their descriptors, and no window that another job's overlaps on a die (R385). -/
def programsOk (s : State) (p : LoadPart) : Bool :=
  p.sig.programs.all (fun c => programOk c.2.2)
    && p.sig.bounds.dieList.all (fun d => (p.windows d).all (fun w => List.all s.regions (fun (e : Nat × Region) =>
      e.2.job == p.job || e.2.st == .suspended || !e.2.bounds.dieList.contains d || (e.2.windows d none).all (fun v => !overlap w.1 w.2.1 v.1 v.2.1))))

/-- The ranks that a site's configuration uses and the ports they must name: static rings, collectors and governors, quires and channels (R123, R157, R187, R192, R324). -/
def siteRanks (g : Sig) (die site : Nat) : List (Nat × List Nat) :=
  match siteKind site with
  | some .mTile => if !g.tileUsed die site then [] else (upTo 4).flatMap (fun c =>
      let d := g.ctxDesc die site 0x1040 c
      if bit (dfld d 0 1) 0 && dfld d 1 1 == 0 then (g.ring die site 0x1040 c (dfld d 16 1)).flatMap mDescRanks else [])
  | some .vTile => if !g.tileUsed die site then [] else
      (upTo 4).flatMap (fun c =>
        let d := g.ctxDesc die site 0x2400 c
        if bit (dfld d 0 1) 0 && dfld d 1 1 == 0 then (g.ring die site 0x2400 c (dfld d 2 1)).flatMap vDescRanks else [])
      ++ (upTo 8).flatMap (fun k =>
        let e := g.image die site (0x1020 + 32 * k) 32
        if fld e 0 2 = 0 then [] else (fld e 12 2, [portKettle]) :: (if bit (fld e 4 1) 0 then (upTo (fld e 10 1)).map (fun i => (fld e 8 2 + i, tilePorts)) else []))
  | some .sTile | some .dpTile =>
      (upTo 16).flatMap (fun q =>
        let d := g.quireDesc die site q
        if bit (fld d 0 1) 0 && bit (fld d 12 1) 0 then [(fld d 2 2, [portKettle])] else [])
      ++ (upTo 8).flatMap (fun n =>
        let d := g.chanDesc die site n
        if bit (fld d 0 1) 0 && bit (fld d 8 1) 0 then [(fld d 6 2, [portKettle])] else [])
  | _ => []

/-- Everything that LOAD_CHECK asks of one site, usability apart (R324, R413, R422; log entry 86). -/
def siteOk (h : State) (ps : List LoadPart) (p : LoadPart) (die site : Nat) : Bool :=
  let g := p.sig
  imageZeros g die site
    && (match siteKind site with
      | some .mTile => mSiteOk g die site
      | some .vTile => vTileOk g die site
      | some .fTile => fTileOk g die site
      | some .sTile => sSiteOk g die site
      | some .dpTile => sSiteOk g die site
      | _ => true)
    && ranksOk h p.job (siteRanks g die site) && staticOk h g p.job die site && grainOk h ps g p.job die site && timedOk g die site
    && !(g.gates.any (fun e => (e.1 == die || e.1 == 0x7F) && e.2.1 == site % 24 && bit e.2.2 (site / 24)) && g.tileUsed die site)

/-- Whether a stream's extremes lie on backed memory (R422). -/
def streamBacked (s : State) (d : BitVec 1280) : Bool :=
  [streamExtreme d false, streamExtreme d true].all (fun a =>
    let n := addrNat a
    decide (2 < spaceOf n) || badAddr n || placeOf s n != .unbacked)

/-- Whether the units that a site's configuration uses are usable as the good-unit map stands (R299, R308, R422). -/
def siteUsable (s : State) (g : Sig) (die site : Nat) : Bool :=
  !(g.touches die site && (upTo 1024).any (fun k => g.imageWord die site k != 0)) ||
  (!(s.net.holes.contains (siteKey die site))
    && (!(dieOf s die).fencedSites.contains site || (!g.tileUsed die site && (upTo 32).all (fun n => g.image die site (0xE00 + 8 * n) 8 == 0)))
    && (g.staticStreams die site).all (streamBacked s)
    && !(siteKind site == some .xTile && s.net.lostGroups.contains (groupKey die (xEdge site).1 (xEdge site).2)
        && (upTo 256).any (fun k => g.image die site (0x1000 + 4 * k) 4 != 0)))

/-- Whether the cores and the sequence-table unit that a signature uses are usable and free (R422, R463). -/
def partUsable (s : State) (p : LoadPart) : Bool :=
  p.sig.bounds.dieList.all (fun d => (upTo 32).all (fun c =>
      !(p.sig.assigns.any (fun a => (a.1 == d || a.1 == 0x7F) && bit a.2 c)) || !(dieOf s d).badCores.contains c))
    && (!bit p.sig.mflags 1 || (let n := (Tab.get seqUnitInitial p.sig.seqDie s.seqs).region; n == 0 || n == p.region))

/-- Whether every unit of a load is usable (R422, R424 step 1). -/
def loadUsable (s : State) (ps : List LoadPart) : Bool :=
  ps.all (fun p => partUsable s p && (p.sites s).all (fun k => siteUsable s p.sig k.1 k.2))

/-- The outcome of the content checks: IMAGE_UNIT_UNUSABLE, IMAGE_MALFORMED, or none (R422). -/
def checkParts (s : State) (ps : List LoadPart) : Option Nat :=
  if !loadUsable s ps then some 0x0704
  else
    let h := nextSites s ps
    if ps.all (fun p => programsOk s p && circuitsOnce h p && jobForksOk h p.job && fLinksOk h p.job && (p.sites s).all (fun k => siteOk h ps p k.1 k.2)) then none else some 0x0701

end Sys2Proof.Machine
end

