-- ==== Sys2Proof/Machine/Commands.lean ====
section
/-! DEFINITION. Sys2Proof/Machine/Commands.lean: the start of host commands, their parameters and records, and the commands of the package, streams, kettles and maps (R440, R487 to R499, R519, R553). -/

namespace Sys2Proof.Machine

/-- Bytes of an opcode's parameters, none for a reserved opcode; of MIRROR_START with no allocation (R488, R494). -/
def paramSize : Nat → Option Nat
  | 0x0001 => some 8
  | 0x0002 => some 12
  | 0x0003 => some 24
  | 0x0101 => some 24
  | 0x0102 => some 8
  | 0x0103 => some 8
  | 0x0201 => some 24
  | 0x0202 => some 0
  | 0x0203 => some 0
  | 0x0204 => some 0
  | 0x0205 => some 8
  | 0x0206 => some 2
  | 0x0207 => some 8
  | 0x0208 => some 8
  | 0x0209 => some 4
  | 0x020A => some 6
  | 0x020B => some 8
  | 0x020C => some 0
  | 0x0210 => some 64
  | 0x0211 => some 24
  | 0x0212 => some 3
  | 0x0213 => some 4
  | 0x0214 => some 16
  | 0x0301 => some 192
  | 0x0302 => some 2
  | 0x0401 => some 8
  | 0x0402 => some 8
  | 0x0403 => some 8
  | 0x0404 => some 8
  | 0x0405 => some 16
  | 0x0406 => some 0
  | 0x0501 => some 12
  | 0x0502 => some 0
  | 0x0601 => some 16
  | 0x0602 => some 40
  | 0x0603 => some 0
  | 0x0604 => some 0
  | 0x0605 => some 0
  | 0x0701 => some 24
  | 0x0702 => some 1
  | 0x0703 => some 8
  | 0x0704 => some 12
  | 0x0705 => some 2
  | _ => none

/-- The commands that only the admin queue may send (R438, R494). -/
def adminOnly (op : Nat) : Bool :=
  [0x0001, 0x0002, 0x0003, 0x0201, 0x0202, 0x0203, 0x0204, 0x020C, 0x0501, 0x0502].contains op || op / 256 == 7

/-- Whether a queue may send an opcode for a job (R483, R494). -/
def queueAdmits (op q job : Nat) : Bool :=
  if op / 256 = 6 then q == 64 || (q == 0 && job == 0)
  else if q = 64 then op != 0x0403 && op != 0x0404
  else q != 0 && !adminOnly op && job == q

/-- The status that a command's own 64 bytes earn, 0 when they pass (R15, R487, R488, R494). -/
def entryStatus (s : State) (q : Nat) (c : HCmd) : Nat :=
  match paramSize c.opcode with
  | none => 0x0101
  | some n =>
    if bits c.flags 15 6 ≠ 0 ∨ 4 < c.fence ∨ c.f 9 7 ≠ 0 ∨ 63 < c.job then 0x0102
    else if !queueAdmits c.opcode q c.job then 0x0501
    else if s.boot.dmode = 2 ∧ c.opcode / 256 ≠ 0 ∧ c.opcode / 256 ≠ 7 then 0x0305
    else if !c.pblock then
      (if 48 < n ∨ c.opcode = 0x0602 then 0x0104 else if fld c.raw.toNat (16 + n) (48 - n) ≠ 0 then 0x0102 else 0)
    else
      let plen := c.f 24 4
      let paddr := c.f 16 8
      if c.f 28 36 ≠ 0 then 0x0102
      else if n = 0 then 0x0104
      else if c.opcode = 0x0602 ∧ !(plen % 8 == 0 && decide (48 ≤ plen) && decide (plen ≤ 168)) then 0x0104
      else if c.opcode ≠ 0x0602 ∧ plen ≠ n then 0x0104
      else if spaceOf paddr ≠ 8 ∨ addrMalformed paddr ∨ paddr % 64 ≠ 0 then 0x0103
      else if q ≠ 64 ∧ !windowHolds s q paddr plen false then 0x0503
      else 0

/-- Configuration commands take their turn in one order (R418, R438). -/
def isConfigOp (op : Nat) : Bool := op == 0x0101 || op == 0x0102 || op == 0x0205 || op == 0x0206

/-- Lifecycle commands are carried out one at a time (R438). -/
def isLifeOp (op : Nat) : Bool := (decide (0x0201 ≤ op) && decide (op ≤ 0x0204)) || op == 0x020C

/-- Whether a lifecycle command has started and has no reply yet (R438). -/
def HCmd.lifeInProgress (c : HCmd) : Bool := isLifeOp c.opcode && (c.stage == .started || c.stage == .working) && c.reply.isNone

/-- Whether a KILL_JOB overtakes a command: a suspension or resumption of its own job (R438, R450). -/
def overtakes (k c : HCmd) : Bool := k.opcode == 0x0202 && (c.opcode == 0x0203 || c.opcode == 0x0204) && c.job == k.job

/-- Whether a lifecycle command may start: none other of the admin queue is in progress, but a KILL_JOB overtakes a suspension or resumption of its own job (R438, R450). -/
def lifeTurn (s : State) (c : HCmd) : Bool := (qOf s 64).cmds.all (fun e => !e.lifeInProgress || overtakes c e)

/-- The commands that a mirror of their job refuses (R553). -/
def mirrorRefuses (s : State) (c : HCmd) : Bool :=
  match s.pair.mirror with
  | some m => s.pair.role == 1 && m.job == c.job && (c.opcode == 0x0101 || c.opcode == 0x0102 || (decide (0x0205 ≤ c.opcode) && decide (c.opcode ≤ 0x020A)))
  | none => false

/-- The status that LOAD_IMAGE's own parameters earn, 0 when they pass (R15, R417). -/
def loadParams (c : HCmd) : Nat :=
  let a := c.p 0 8
  let n := c.p 8 8
  if n < 288 ∨ 2 ^ 34 < n ∨ 1 < c.p 16 4 ∨ c.p 20 4 ≠ 0 then 0x0102
  else if a % 32 ≠ 0 ∨ addrMalformed a ∨ addrMalformed (a + n - 1) ∨ spaceOf (a + n - 1) ≠ spaceOf a ∨ !([0, 1, 2, 8].contains (spaceOf a)) then 0x0103
  else 0

/-- The turn of a configuration command: accepted into the order of R418, where a well-formed load is numbered, refused when eight wait, started at the head (R15, R418). -/
def configTurn (s : State) (q : Nat) (c : HCmd) : State :=
  let mine (e : Nat × Nat × Nat) : Bool := e.1 == q && e.2.1 == c.seq
  let go (s : State) : State :=
    match s.cfg.waiting with
    | e :: _ => if mine e then modCmd s q c.seq (fun c => { c with stage := .started }) else s
    | [] => s
  if s.cfg.waiting.any mine then go s
  else if 9 ≤ s.cfg.waiting.length then finishCmd s q c.seq 0x0207 0 0
  else
    let n := if c.opcode = 0x0101 ∧ loadParams c = 0 then s.cfg.loadCount + 1 else s.cfg.loadCount
    go { s with cfg := { s.cfg with loadCount := n, waiting := s.cfg.waiting ++ [(q, c.seq, n)] } }

/-- Whether a checkpoint holds a queue: from its start until the regions of its job run again at T (R554). -/
def ckptHolds (s : State) (q : Nat) : Bool :=
  match s.pair.run with
  | some r => (s.pair.mirror.map Mirror.job) == some q && (!r.scanned || List.any s.regions (fun (e : Nat × Region) => e.2.job == q && e.2.st == .parted))
  | none => false

/-- A command whose parameters are at hand started, refused, or left to wait (R358, R440, R489, R536, R553, R554). -/
def startReady (s : State) (q : Nat) (c : HCmd) (earlier : List HCmd) : State :=
  let st := (jobOf s q).st
  let own := q != 64 && q != 0 && c.opcode != 0x020B
  let done (status detail : Nat) : State := finishCmd s q c.seq status detail 0
  if c.opcode = 0x0602 ∧ c.f 24 4 ≠ 40 + 8 * c.p 32 2 then done 0x0104 0
  else if s.ev.fatal && !(c.opcode == 0x0001 || c.opcode == 0x0703 || c.opcode == 0x0705) then done 0x0301 0
  else if own && st == .faulted then done 0x0401 (jobOf s q).lastFault
  else if q != 64 && q != 0 && st == .killing then done 0x0302 0
  else if own && jobHolds s q then s
  else if own && st != .active then done 0x0301 0
  else if earlier.any (fun e => e.isWait && e.reply.isNone) then s
  else if c.ordered && earlier.any (fun e => e.reply.isNone) then s
  else if c.fence != 0 && c.stage == .ready then s
  else if ckptHolds s q then s
  else if mirrorRefuses s c then done 0x0301 0
  else if isLifeOp c.opcode && !lifeTurn s c then s
  else if isConfigOp c.opcode then configTurn s q c
  else modCmd s q c.seq (fun c => { c with stage := .started })

/-- COMMAND_START: the next command of a queue is checked, has its parameter block read, and starts when its conditions hold (R440, R488, R489). -/
def execCommandStart (q : Nat) (s : State) : Host.Outcome State Fault Refusal :=
  onQueue q (
    let cs := (qOf s q).cmds
    match nextCmd s q with
    | none => s
    | some c =>
      let earlier := cs.takeWhile (fun e => e.seq != c.seq)
      match c.stage with
      | .accepted =>
        let st := entryStatus s q c
        if st ≠ 0 then finishCmd s q c.seq st 0 0
        else if c.pblock then
          (if s.link.up then hostRead (modCmd s q c.seq (fun c => { c with stage := .reading })) (c.f 16 8) (c.f 24 4) (.param q c.seq) else s)
        else modCmd s q c.seq (fun c => { c with stage := .ready })
      | .ready => startReady s q c earlier
      | .fenced => startReady s q c earlier
      | _ => s)

/-- The row of an opcode: it acts on a command of the queue that has started and not been answered. -/
def hostRow (s : State) (q seq op : Nat) (f : HCmd → State) : Host.Outcome State Fault Refusal :=
  onQueue q (
    match (qOf s q).cmd? seq with
    | some c => if c.opcode = op ∧ c.reply.isNone ∧ (c.stage = .started ∨ c.stage = .working) then f c else s
    | none => s)

/-- A command's work goes on. -/
def working (s : State) (q seq : Nat) : State := modCmd s q seq (fun c => { c with stage := .working })

/-- A record written to host space for a command, whose reply follows it; a bad address or one outside the job's windows is refused (R488, R490). -/
def writeCmdRecord (s : State) (q : Nat) (c : HCmd) (a : Nat) (bs : List Byte) (result : Nat) : State :=
  if spaceOf a ≠ 8 ∨ addrMalformed a ∨ a % 64 ≠ 0 then finishCmd s q c.seq 0x0103 0 0
  else if q ≠ 64 ∧ !windowHolds s q a bs.length true then finishCmd s q c.seq 0x0503 0 0
  else finishCmd (hostWrite s a bs (.command q c.seq)) q c.seq 0 0 result

/-- Usable compute dies (R519). -/
def usableDies (s : State) : Nat := ((upTo 96).filter (fun d => !(dieOf s d).fenced && (dieOf s d).dstate == 0)).length

/-- Bytes behind HDM decoders 0 and 1 (R233). -/
def hdmSize (s : State) (dec : Nat) : Nat := if dec = 0 then s.goodDies.length * ilGranules s * 4096 else s.goodFar.length * 2 ^ 35

/-- The order code (R495). -/
def orderCode : Nat := if Config.isB then 2 else 1

/-- DEVICE_INFO (R495). -/
def execDeviceInfo (q seq : Nat) (s : State) : Host.Outcome State Fault Refusal :=
  hostRow s q seq 0x0001 (fun c =>
    writeCmdRecord s q c (c.p 0 8)
      (leBytes 1 orderCode ++ leBytes 1 (usableDies s) ++ leBytes 1 s.boot.dmode ++ leBytes 1 s.link.width ++ leBytes 1 s.link.rate ++ leBytes 3 0
        ++ leBytes 8 s.boot.fwVersion ++ leBytes 8 s.cfg.epoch ++ leBytes 8 (hdmSize s 0) ++ leBytes 8 (hdmSize s 1) ++ leBytes 8 s.now ++ leBytes 16 0) 0)

/-- A mask of the lane groups of a die's edges, by the numbers of R518 (R519). -/
def edgeMask (s : State) (die : Nat) : Nat :=
  (upTo 4).foldl (fun n e => (upTo 6).foldl (fun n k =>
    if ((dieNeighbour die (recordEdge e)).map (fun n => !(isHub n && (dieOf s n).fenced))).getD false && !s.net.lostGroups.contains (groupKey die (recordEdge e) k) then n + 2 ^ (6 * e + k) else n) n) 0

/-- A bit mask of the numbers below n that a test passes. -/
def maskOf (n : Nat) (p : Nat → Bool) : Nat := (upTo n).foldl (fun m k => if p k then m + 2 ^ k else m) 0

/-- A compute die's entry of the good-unit map (R519). -/
def dieEntry (s : State) (die : Nat) : List Byte :=
  let d := dieOf s die
  let f (n : Nat) : Nat := if d.fenced then 0 else n
  let good (k : Nat) : Bool := d.goodCh.contains k && !d.lostCh.contains k
  leBytes 1 d.dstate ++ leBytes 1 (f ((upTo 24).filter good).length) ++ leBytes 2 0 ++ leBytes 4 (f (maskOf 24 good)) ++ leBytes 4 (f (maskOf 32 (fun k => !d.badCores.contains k)))
    ++ leBytes 4 (f (edgeMask s die))
    ++ leBytes 60 (f (maskOf 480 (fun k => siteKind k != some .cluster && !d.fencedSites.contains k && !s.net.holes.contains (siteKey die k))))
    ++ leBytes 60 (if d.fenced then 2 ^ 480 - 1 else maskOf 480 (fun k => s.net.holes.contains (siteKey die k))) ++ leBytes 56 0

/-- A hub's entry of the good-unit map (R519). -/
def hubEntry (s : State) (hub : Nat) : List Byte :=
  let d := dieOf s hub
  let f (n : Nat) : Nat := if d.fenced then 0 else n
  let x := if (dieNeighbour hub 1).isSome then 1 else 3
  let y := if (dieNeighbour hub 0).isSome then 0 else 2
  let edges := maskOf 6 (fun k => !s.net.lostGroups.contains (groupKey hub x k)) + maskOf 6 (fun k => !s.net.lostGroups.contains (groupKey hub y k)) * 64
  leBytes 1 d.dstate ++ leBytes 1 0 ++ leBytes 2 (f (maskOf 16 (fun k => !d.badCores.contains k))) ++ leBytes 4 (f edges)
    ++ leBytes 16 ((upTo 32).foldl (fun n c => n + farChReg s hub c % 16 * 16 ^ c) 0) ++ leBytes 40 0

/-- The good-unit map of 18,752 bytes as it stands (R519). -/
def goodMap (s : State) : List Byte :=
  leBytes 4 0x4D554755 ++ leBytes 2 1 ++ leBytes 2 0 ++ leBytes 4 18752 ++ leBytes 1 orderCode ++ leBytes 1 (usableDies s) ++ leBytes 2 0 ++ leBytes 8 s.boot.changes
    ++ leBytes 8 s.boot.changeTime ++ leBytes 4 s.boot.startCount ++ leBytes 28 0 ++ (upTo 96).flatMap (dieEntry s) ++ (upTo 4).flatMap (fun h => hubEntry s (0x60 + h))

/-- GOOD_UNIT_MAP (R494, R519). -/
def execGoodUnitMap (q seq : Nat) (s : State) : Host.Outcome State Fault Refusal :=
  hostRow s q seq 0x0002 (fun c => if c.p 8 4 < 18752 then finishCmd s q seq 0x0102 0 0 else writeCmdRecord s q c (c.p 0 8) (goodMap s) 18752)

/-- Whether a changed window still holds all that the old one held. -/
def windowWidens (old : Option (Nat × Nat × Nat)) (base size perm : Nat) : Bool :=
  match old with
  | none => true
  | some (b, n, p) => n == 0 || (decide (base ≤ b) && decide (b + n ≤ base + size) && p &&& perm == p)

/-- HOST_WINDOW_SET (R496, R501). -/
def execHostWindowSet (q seq : Nat) (s : State) : Host.Outcome State Fault Refusal :=
  hostRow s q seq 0x0003 (fun c =>
    let w := c.p 0 1
    let perm := c.p 1 1
    let base := c.p 8 8
    let size := c.p 16 8
    let j := jobOf s c.job
    let live := j.st == .active || j.st == .suspending || j.st == .suspended || j.st == .resuming
    if 16 ≤ w ∨ 4 ≤ perm ∨ c.p 2 6 ≠ 0 ∨ c.job = 0 then finishCmd s q seq 0x0102 0 0
    else if base % 4096 ≠ 0 ∨ size % 4096 ≠ 0 ∨ 2 ^ 52 < base + size then finishCmd s q seq 0x0103 0 0
    else if j.st = .free ∨ j.st = .captured then finishCmd s q seq 0x0301 0 0
    else if live && !windowWidens (Tab.find? w j.windows) (hostAddr base) size perm then finishCmd s q seq 0x0301 0 0
    else finishCmd (modJob s c.job (fun j => { j with windows := if size = 0 then Tab.erase w j.windows else Tab.set w (hostAddr base, size, perm) j.windows })) q seq 0 0 0)

/-- A host command's mull request sent, the command waiting for its outcome (R493, R587). -/
def sendCmd (s : State) (q seq job typ : Nat) (dst : Ep) (arg : BitVec 64) (data : List Word) : State :=
  let id := nextMsgId s (hostEp q)
  sendReq (modCmd s q seq (fun c => { c with msg := some id, stage := .working })) (hostEp q) q job typ dst arg data

/-- STREAM_ENQUEUE: the descriptor goes to the engine that the rank names (R245, R251, R497). -/
def execStreamEnqueue (q seq : Nat) (s : State) : Host.Outcome State Fault Refusal :=
  hostRow s q seq 0x0301 (fun c =>
    if c.stage = .working then s
    else if c.p 2 30 ≠ 0 then finishCmd s q seq 0x0102 0 0
    else match rankEp s c.job (c.p 0 2) with
      | none => finishCmd s q seq 0x0502 0 0
      | some e =>
        if e.port ≠ portStream then finishCmd s q seq 0x0106 0 0
        else sendCmd s q seq c.job 5 e 0 ((upTo 5).map (fun k => BitVec.ofNat 256 (c.p (32 + 32 * k) 32))))

/-- TASK_CANCEL: answered once no stream of the task is left that has not ended (R270, R394, R494). -/
def execTaskCancel (q seq : Nat) (s : State) : Host.Outcome State Fault Refusal :=
  hostRow s q seq 0x0302 (fun c =>
    if c.p 0 2 = 0 then finishCmd s q seq 0x0102 0 0
    else
      let s := if c.stage = .working then cancelOn s c.job (c.p 0 2) else cancelTask s c.job (c.p 0 2)
      if taskGone s c.job (c.p 0 2) then finishCmd s q seq 0 0 0 else working s q seq)

/-- A kettle command: its rank and operand checked, the operation sent from the HOST port (R365, R493, R498). -/
def kettleCmd (s : State) (q : Nat) (c : HCmd) (kop : Nat) : State :=
  if c.stage = .working then s
  else if kop = 1 ∧ bit (c.p 2 1) 0 ∧ behind (qOf s q) c then s
  else if 1 < c.p 2 1 ∨ (kop ≠ 1 ∧ c.p 2 1 ≠ 0) ∨ c.p 3 1 ≠ 0 then finishCmd s q c.seq 0x0102 0 0
  else match rankEp s c.job (c.p 0 2) with
    | none => finishCmd s q c.seq 0x0502 0 0
    | some e =>
      if e.port ≠ portKettle then finishCmd s q c.seq 0x0106 0 0
      else if !operandOk kop (c.p 4 4) then finishCmd s q c.seq 0x0102 0 0
      else sendCmd s q c.seq c.job 4 e (kettleArg kop (bit (c.p 2 1) 0) (c.p 4 4)) []

/-- KETTLE_SIGNAL (R498). -/
def execKettleSignal (q seq : Nat) (s : State) : Host.Outcome State Fault Refusal := hostRow s q seq 0x0401 (fun c => kettleCmd s q c 1)

/-- KETTLE_RESET (R498). -/
def execKettleReset (q seq : Nat) (s : State) : Host.Outcome State Fault Refusal := hostRow s q seq 0x0402 (fun c => kettleCmd s q c 4)

/-- KETTLE_WAIT_CONSUME: the queue stalls until the release (R498). -/
def execKettleWaitConsume (q seq : Nat) (s : State) : Host.Outcome State Fault Refusal := hostRow s q seq 0x0403 (fun c => kettleCmd s q c 2)

/-- KETTLE_WAIT_OBSERVE (R498). -/
def execKettleWaitObserve (q seq : Nat) (s : State) : Host.Outcome State Fault Refusal := hostRow s q seq 0x0404 (fun c => kettleCmd s q c 3)

/-- The job-local rank whose entry passes a test, 0xFFFF where none does (R371, R498). -/
def rankNaming (s : State) (job : Nat) (p : Ep → Bool) : Nat :=
  match List.find? (fun (e : Nat × Nat) => (entryEp e.2).any p) (jobOf s job).rankTable with
  | some e => e.1
  | none => 0xFFFF

/-- The inspection record (R371, R498). -/
def inspectBytes (s : State) (job : Nat) (e : Ep) (maxw : Nat) : List Byte :=
  let u := ktOf s e.die
  let kt := u.kettle e.index
  let ws := kettleWaiters u e.index
  leBytes 4 kt.value ++ leBytes 4 ws.length ++ leBytes 8 kt.lastTime ++ leBytes 2 (rankNaming s job (fun x => kt.lastOp != 0 && packEp x == packEp kt.lastSrc))
    ++ leBytes 2 kt.lastIssuer ++ leBytes 1 kt.lastOp ++ leBytes 1 (if kt.lastFaulted then 1 else 0) ++ leBytes 10 0
    ++ (ws.take maxw).flatMap (fun w => leBytes 1 (if w.observe then 1 else 0) ++ leBytes 3 0 ++ leBytes 4 w.demand ++ leBytes 2 (rankNaming s job (fun x => x == w.src))
      ++ leBytes 2 w.issuer ++ leBytes 4 0 ++ leBytes 8 w.opnum ++ leBytes 8 w.time)

/-- KETTLE_INSPECT: the kettle as it stands before any operation of the same cycle (R371, R498). -/
def execKettleInspect (q seq : Nat) (s : State) : Host.Outcome State Fault Refusal :=
  hostRow s q seq 0x0405 (fun c =>
    if 4096 < c.p 2 2 ∨ c.p 4 4 ≠ 0 then finishCmd s q seq 0x0102 0 0
    else match rankEp s c.job (c.p 0 2) with
      | none => finishCmd s q seq 0x0502 0 0
      | some e =>
        if e.port ≠ portKettle then finishCmd s q seq 0x0106 0 0
        else if ((ktOf s e.die).kettle e.index).owner ≠ some c.job then finishCmd s q seq 0x0502 0 0
        else if (dieOf s e.die).fenced then finishCmd s q seq 0x0304 0x0508 0
        else writeCmdRecord s q c (c.p 8 8) (inspectBytes s c.job e (c.p 2 2)) 0)

/-- SYNC does nothing (R494). -/
def execSync (q seq : Nat) (s : State) : Host.Outcome State Fault Refusal := hostRow s q seq 0x0406 (fun _ => finishCmd s q seq 0 0 0)

/-- MAP_RING_SET (R344, R494). -/
def execMapRingSet (q seq : Nat) (s : State) : Host.Outcome State Fault Refusal :=
  hostRow s q seq 0x0501 (fun c =>
    let a := c.p 0 8
    let n := c.p 8 2
    let v := c.p 10 2
    if n = 0 ∨ 256 < n ∨ (2048 ≤ v ∧ v ≠ 0xFFFF) then finishCmd s q seq 0x0102 0 0
    else if a % 64 ≠ 0 ∨ spaceOf a ≠ 8 ∨ addrMalformed a then finishCmd s q seq 0x0103 0 0
    else finishCmd { s with net := { s.net with mapRing := some (a, n) }, mapVector := v } q seq 0 0 0)

/-- MAP_RING_CLEAR (R344, R494). -/
def execMapRingClear (q seq : Nat) (s : State) : Host.Outcome State Fault Refusal :=
  hostRow s q seq 0x0502 (fun _ => finishCmd { s with net := { s.net with mapRing := none } } q seq 0 0 0)

end Sys2Proof.Machine
end

