-- ==== Sys2Proof/Machine/Images.lean ====
section
/-! DEFINITION. Sys2Proof/Machine/Images.lean: the Turest image: its spine, its signatures' records, and the checks of both (R408 to R416, R458). -/

namespace Sys2Proof.Machine

/-- A record of a signature: its 32-byte header and its payload as a number (R411). -/
structure ImgRec where
  hdr : Nat
  pay : Nat
  deriving DecidableEq, Repr

/-- Fields of a record header (R411). -/
def ImgRec.f (r : ImgRec) (off size : Nat) : Nat := fld r.hdr off size
def ImgRec.typ (r : ImgRec) : Nat := r.f 0 1
def ImgRec.die (r : ImgRec) : Nat := r.f 1 1
def ImgRec.col (r : ImgRec) : Nat := r.f 2 1
def ImgRec.findex (r : ImgRec) : Nat := r.f 4 2
def ImgRec.words (r : ImgRec) : Nat := r.f 6 2

/-- The records that bytes spell; none where a record runs past their end (R411, R415). -/
def parseRecs : Nat → List Byte → Option (List ImgRec)
  | 0, l => if l.isEmpty then some [] else none
  | n + 1, l =>
    if l.isEmpty then some []
    else if l.length < 32 then none
    else
      let h := leNat (l.take 32)
      let k := 32 * fld h 6 2
      let rest := l.drop 32
      if rest.length < k then none else (parseRecs n (rest.drop k)).map ({ hdr := h, pay := leNat (rest.take k) } :: ·)

/-- A compute die that belongs to a region of bounds: inside them and not fenced (R404). -/
def Bounds.usable (s : State) (b : Bounds) : List Nat := b.dieList.filter (fun d => !(dieOf s d).fenced)

/-- A die field that a record may hold: a compute die, or every die of the region (R411). -/
def dieFieldOk (d : Nat) : Bool := isCompute d || d == 0x7F

/-- The bounds that a REGION record gives (R414). -/
def ImgRec.bounds (r : ImgRec) : Bounds := if r.f 8 1 = 0 then .columns (r.f 9 1) (r.f 10 1) (r.f 11 1) else .dies (r.f 12 1) (r.f 13 1) (r.f 14 1) (r.f 15 1)

/-- A rank-table entry of a RANK record: reserved bits 0, and in a VALID one a DIE, SITE and PORT that exist (R18, R317, R319, R321; log entry 87). -/
def rankEntryOk (n : Nat) : Bool :=
  bits n 62 55 == 0 && bits n 33 16 == 0
    && (!bit n 63 || (isDie (bits n 54 48) && (decide (bits n 47 38 < 480) || bits n 47 38 == blockSite) && decide (bits n 37 34 ≤ 9)))

/-- One record by itself: its type, its PWORDS, its reserved bytes and the ranges of its fields (R411, R414, R415). -/
def recOk (r : ImgRec) : Bool :=
  let z (a b : Nat) : Bool := r.f a (b - a) == 0
  let named := r.typ == 0x01 || r.typ == 0x13 || r.typ == 0x15 || r.typ == 0x16 || r.typ == 0x17
  z 3 4 && (if named then dieFieldOk r.die else r.die == 0) && (if r.typ = 0x01 ∨ r.typ = 0x13 then decide (r.col < 24) else r.col == 0)
    && (if r.typ = 0x01 then decide (r.findex < 640) else r.findex == 0) &&
  (match r.typ with
  | 0x01 => r.words == 32 && z 8 32
  | 0x10 => r.words == 0 && z 16 32 &&
    (if r.f 8 1 = 0 then isCompute (r.f 9 1) && decide (r.f 10 1 ≤ r.f 11 1) && decide (r.f 11 1 < 24) && z 12 16
     else r.f 8 1 == 1 && z 9 12 && decide (r.f 12 1 ≤ r.f 14 1) && decide (r.f 14 1 < 10) && decide (r.f 13 1 ≤ r.f 15 1) && decide (r.f 15 1 < 10))
  | 0x11 => decide (1 ≤ r.f 10 2) && decide (r.f 10 2 ≤ 1024) && r.words == ceilDiv (r.f 10 2) 4 && z 12 32 && (upTo (r.f 10 2)).all (fun i => rankEntryOk (fld r.pay (8 * i) 8))
  | 0x12 => r.words == 0 && z 10 12 && decide (r.f 12 4 < 2 ^ 31) && z 16 32
  | 0x13 => r.words == 0 && bits (r.f 8 4) 31 20 == 0 && z 12 32
  | 0x14 => r.words == 0 && decide (r.f 8 1 < 8) && (bit (r.f 8 1) 1 || r.f 9 1 == 0) && z 10 16 && (if bit (r.f 8 1) 0 then decide (1 ≤ r.f 16 8) && decide (r.f 16 8 ≤ 10 ^ 12) else z 16 24) && z 24 32
  | 0x15 => r.words == 0 && z 12 32
  | 0x16 => r.words == 4 && decide (r.f 8 1 < 32) && z 9 32
  | 0x17 => decide (1 ≤ r.words) && r.f 8 4 % 32 == 0 && decide (0x100000 ≤ r.f 8 4) && decide (r.f 8 4 + 32 * r.words ≤ 0x800000) && z 12 32
  | 0x1F => r.words == 0 && z 12 32
  | _ => false)

/-- No two elements of a list are equal. -/
def noDups {α : Type} [BEq α] (l : List α) : Bool := (l.eraseDups).length == l.length

/-- The cores that records so far assign on a die. -/
def assigned (rs : List ImgRec) (die : Nat) : Nat := rs.foldl (fun m r => if r.typ = 0x15 ∧ dieField r.die die then m ||| r.f 8 4 else m) 0

/-- The usable dies of a region that a record addresses; a die outside the region counts for itself. -/
def ImgRec.addresses (s : State) (b : Bounds) (r : ImgRec) : List Nat := if r.die = 0x7F then b.usable s else [r.die]

/-- CORE_PROGRAM and CMEM rest on earlier CORE_ASSIGN records (R415). -/
def assignedFirst (s : State) (b : Bounds) : List ImgRec → List ImgRec → Bool
  | _, [] => true
  | before, r :: rs =>
    let ok (d : Nat) : Bool :=
      let m := if (b.usable s).contains d then assigned before d else 0
      if r.typ = 0x16 then bit m (r.f 8 1) else m != 0
    (if r.typ = 0x16 ∨ r.typ = 0x17 then (r.addresses s b).all ok else true) && assignedFirst s b (before ++ [r]) rs

/-- Whether a signature's records are well formed, its table entry giving their number (R415). -/
def recsOk (s : State) (rs : List ImgRec) (count : Nat) : Bool :=
  match rs with
  | [] => false
  | first :: _ =>
    let of (t : Nat) : List ImgRec := rs.filter (fun r => r.typ == t)
    rs.all recOk && first.typ == 0x10 && (of 0x10).length == 1 && (of 0x1F).length == 1
      && (match rs.getLast? with
        | some e => e.typ == 0x1F && e.f 8 4 == rs.length
        | none => false)
      && count == rs.length && decide ((of 0x14).length ≤ 1) && assignedFirst s first.bounds [] rs
      && noDups ((of 0x01).map (fun r => (r.die, r.col, r.findex))) && noDups ((of 0x13).map (fun r => (r.die, r.col))) && noDups ((of 0x16).map (fun r => (r.die, r.f 8 1)))

/-- Words of a payload. -/
def payWords (r : ImgRec) : List Word := (upTo r.words).map (fun k => BitVec.ofNat 256 (fld r.pay (32 * k) 32))

/-- The signature that well-formed records give (R411, R414). -/
def sigOf (region version : Nat) (digest spine : List Byte) (rs : List ImgRec) : Sig :=
  let of (t : Nat) : List ImgRec := rs.filter (fun r => r.typ == t)
  let mode (off size : Nat) : Nat := ((of 0x14).head?.map (fun r => r.f off size)).getD 0
  { region := region, bounds := (rs.head?.map ImgRec.bounds).getD (.columns 0 0 0)
    frames := (of 0x01).map (fun r => (r.die, r.col, r.findex, BitVec.ofNat 8192 r.pay))
    ranks := (of 0x11).flatMap (fun r => (upTo (r.f 10 2)).map (fun i => (r.f 8 2 + i, fld r.pay (8 * i) 8)))
    kettleInit := (of 0x12).map (fun r => (r.f 8 2, r.f 12 4))
    gates := (of 0x13).map (fun r => (r.die, r.col, r.f 8 4))
    mflags := mode 8 1, seqDie := mode 9 1, timedBound := mode 16 8
    assigns := (of 0x15).map (fun r => (r.die, r.f 8 4))
    programs := (of 0x16).map (fun r => (r.die, r.f 8 1, BitVec.ofNat 1024 r.pay))
    cmem := (of 0x17).map (fun r => (r.die, r.f 8 4, payWords r))
    digest := digest, version := version, spine := spine }

/-- The cores that a signature assigns on a die (R414). -/
def Sig.coreMask (g : Sig) (die : Nat) : Nat := g.assigns.foldl (fun m a => if dieField a.1 die then m ||| a.2 else m) 0

/-- The regions of a load: their numbers. -/
def loadRegions (gs : List Sig) : List Nat := gs.map Sig.region

/-- Whether a core is assigned to a region that the load does not replace, or by another signature of the load (R416). -/
def coreTaken (s : State) (gs : List Sig) (g : Sig) (die core : Nat) : Bool :=
  List.any s.regions (fun (e : Nat × Region) => !(loadRegions gs).contains e.1 && e.2.st != .suspended && e.2.bounds.dieList.contains die && bit (e.2.coreMask die) core)
    || gs.any (fun o => o.region != g.region && o.bounds.dieList.contains die && bit (o.coreMask die) core)

/-- Whether an endpoint of a rank lies inside the region, or is a kettle, a host queue or an assigned core of the job (R321, R416). -/
def rankOwned (s : State) (job : Nat) (g : Sig) (e : Ep) : Bool :=
  epExists e &&
  (if e.site ≠ blockSite then g.bounds.holds e.die e.site && (g.bounds.usable s).contains e.die
   else if e.port = portKettle then ((ktOf s e.die).kettle e.index).owner == some job
   else if e.port = portHost then e.index == job
   else if e.port = portCore then (g.bounds.usable s).contains e.die && (if e.index = 0xFFFF then g.coreMask e.die != 0 else bit (g.coreMask e.die) e.index)
   else e.port == portSeq && bit g.mflags 1 && e.die == g.seqDie)

/-- Whether a rank is held by another region of the job (R416). -/
def rankHeld (s : State) (job : Nat) (gs : List Sig) (g : Sig) (rank : Nat) : Bool :=
  List.any s.regions (fun (e : Nat × Region) => !(loadRegions gs).contains e.1 && e.2.job == job && ((e.2.sig.map Sig.ranks).getD []).any (fun r => r.1 == rank))
    || gs.any (fun o => o.region != g.region && o.ranks.any (fun r => r.1 == rank))

/-- The endpoint that a rank names once a signature's entries stand in the table. -/
def rankIn (s : State) (job : Nat) (g : Sig) (rank : Nat) : Option Ep :=
  match g.ranks.reverse.find? (fun r => r.1 == rank) with
  | some r => entryEp r.2
  | none => rankEp s job rank

/-- Whether the words of a CMEM record lie in the windows of the programs that the signature gives a die's cores (R416). -/
def cmemInside (g : Sig) (die a n : Nat) : Bool :=
  let ws := (upTo 32).flatMap (fun c => if bit (g.coreMask die) c then ((g.program die c).map progWindows).getD [] else [])
  (upTo n).all (fun k => inWindow ws (a + 32 * k) 32 0)

/-- A signature's records against its region (R416). -/
def sigInRegion (s : State) (job : Nat) (gs : List Sig) (g : Sig) : Bool :=
  match Tab.find? g.region s.regions with
  | none => false
  | some r =>
    let us := g.bounds.usable s
    let dieOk (d : Nat) : Bool := d == 0x7F || us.contains d
    let colOk (c : Nat) : Bool := match g.bounds with
      | .columns _ a b => decide (a ≤ c) && decide (c ≤ b)
      | .dies _ _ _ _ => true
    let dies (d : Nat) : List Nat := if d = 0x7F then us else [d]
    g.bounds == r.bounds
      && g.frames.all (fun f => dieOk f.1 && colOk f.2.1 && !((f.2.1 == 11 || f.2.1 == 12) && decide (256 ≤ f.2.2.1) && decide (f.2.2.1 ≤ 383)))
      && g.gates.all (fun f => dieOk f.1 && colOk f.2.1)
      && g.assigns.all (fun a => dieOk a.1 && (dies a.1).all (fun d => (upTo 32).all (fun c => !bit a.2 c || !coreTaken s gs g d c)))
      && g.cmem.all (fun c => (dies c.1).all (fun d => cmemInside g d c.2.1 c.2.2.length))
      && g.ranks.all (fun e => decide (e.1 < (jobOf s job).ranks) && !rankHeld s job gs g e.1 && (match entryEp e.2 with
        | some p => rankEntry p == e.2 && rankOwned s job g p
        | none => true))
      && g.kettleInit.all (fun k => match rankIn s job g k.1 with
        | some p => p.port == portKettle && p.site == blockSite && ((ktOf s p.die).kettle p.index).owner == some job
        | none => false)
      && (!bit g.mflags 1 || us.contains g.seqDie)

/-- A signature-table entry's field (R409). -/
def spineEntry (spine k off size : Nat) : Nat := fld spine (64 + 96 * k + off) size

/-- The bytes of a spine of count signatures. -/
def spineSize (count : Nat) : Nat := 64 + 96 * count + 64

/-- Whether a spine is well formed: check 1 of R410. -/
def spineOk (spine size : Nat) : Bool :=
  let n := fld spine 6 2
  let e := spineEntry spine
  fld spine 40 8 == size && decide (spineSize n ≤ size) && size % 32 == 0 && fld spine 0 4 == 0x54535254 && fld spine 4 2 == 1 && decide (1 ≤ n) && decide (n ≤ 64) && decide (fld spine 24 1 ≤ 2)
    && fld spine 25 7 == 0 && fld spine 48 16 == 0
    && (upTo n).all (fun k => e k 0 8 % 32 == 0 && e k 8 8 % 32 == 0 && decide (spineSize n ≤ e k 0 8) && decide (e k 0 8 + e k 8 8 ≤ size)
        && decide (1 ≤ e k 16 2) && decide (e k 16 2 ≤ 4095) && e k 18 2 == 0 && e k 24 8 == 0)
    && (upTo n).all (fun i => (upTo i).all (fun j => e i 16 2 != e j 16 2 && !overlap (e i 0 8) (e i 8 8) (e j 0 8) (e j 8 8)))

/-- Whether the spine's signer is a key of the identity record that admits image signatures, and its signature verifies: check 2 of R410. -/
def spineSigned (s : State) (bytes : List Byte) (n : Nat) : Bool :=
  let spine := leNat bytes
  let body := bytes.take (64 + 96 * n)
  let sig := (bytes.drop (64 + 96 * n)).take 64
  s.boot.keys.any (fun k => bit k.2 0 && (Config.sha512 (leBytes 32 k.1)).toNat % 2 ^ 64 == fld spine 32 8 && Config.ed25519 (leBytes 32 k.1) body sig)

/-- The checks of a spine in their order: the event code of the first that fails (R410). -/
def spineCheck (s : State) (job size : Nat) (bytes : List Byte) : Option Nat :=
  let spine := leNat bytes
  let n := fld spine 6 2
  let grade := fld spine 24 1
  let expect := fld spine 16 8
  let regions := (upTo n).map (fun k => spineEntry spine k 16 2)
  let owner (r : Nat) : Option Region := Tab.find? r s.regions
  if !spineOk spine size then some 0x0701
  else if !spineSigned s bytes n then some 0x0707
  else if grade = 1 ∧ Config.isB then some 0x0702
  else if expect ≠ 0 ∧ expect ≠ s.cfg.epoch then some 0x0703
  else if regions.any (fun r => ((owner r).map Region.job) != some job) then some 0x0709
  else if regions.any (fun r => ((owner r).map Region.st) != some .blank && ((owner r).map Region.st) != some .running) then some 0x0705
  else none

end Sys2Proof.Machine
end

