-- ==== Sys2Proof/Machine/Loads.lean ====
section
/-! DEFINITION. Sys2Proof/Machine/Loads.lean: loads, commits, the start of regions, rollback and the configuration record (R417 to R433). -/

namespace Sys2Proof.Machine

/-- A configuration command ended: it leaves the order of R418, and its status and SEQ are kept for CONFIG_STATUS (R418, R433). -/
def cfgDone (s : State) (q seq status : Nat) : State :=
  { s with cfg := { s.cfg with waiting := s.cfg.waiting.filter (fun e => !(e.1 == q && e.2.1 == seq)), lastStatus := status, lastSeq := seq } }

/-- A configuration command answered. -/
def finishConfig (s : State) (q seq status detail result : Nat) : State := finishCmd (cfgDone s q seq status) q seq status detail result

/-- The load in progress updated. -/
def modLoad (s : State) (f : Load → Load) : State := { s with cfg := { s.cfg with load := s.cfg.load.map f } }

/-- The staged records discarded, the dies un-enrolled and the reads of the image dropped (R419). -/
def endLoad (s : State) : State :=
  { s with
    cfg := { s.cfg with load := none, dies := s.cfg.dies.map (fun e => (e.1, { e.2 with enrolled := false, taken := [] })) }
    host := { s.host with reads := s.host.reads.filter (fun h => match h.use with
      | .image _ => false
      | _ => true) } }

/-- The status of a rejection's outcome (R423, R499). -/
def rejectStatus (code : Nat) : Nat :=
  match code with
  | 0x0701 => 0x0107
  | 0x0702 => 0x0306
  | 0x0703 => 0x0307
  | 0x0704 => 0x0308
  | 0x0706 => 0x0402
  | 0x0707 => 0x0505
  | 0x0708 => 0x0506
  | 0x0709 => 0x0507
  | 0x070A => 0x0508
  | _ => 0x0309

/-- A load rejected: nothing of any region changes, the event of the outcome holds the load count, and the command is answered (R423). -/
def rejectWith (s : State) (l : Load) (code status : Nat) : State :=
  finishConfig (endLoad (raiseCorrected s code l.job 0x7F 0 0 l.id)) l.q l.cseq status 0 0

/-- A load rejected with its outcome's status. -/
def rejectLoad (s : State) (l : Load) (code : Nat) : State := rejectWith s l code (rejectStatus code)

/-- Whether a range of near or far memory lies in pages that a job owns (R231, R417). -/
def rangeOwned (s : State) (job a n : Nat) : Bool :=
  (upTo (ceilDiv (a % 4096 + n) 4096)).all (fun k =>
    let p := placeOf s (a - a % 4096 + 4096 * k)
    p != .unbacked && p != .other && pageAdmits (pageOf s p.page) job)

/-- Image bytes put at an offset. -/
def putImage (s : State) (off : Nat) (bs : List Byte) : State :=
  modLoad s (fun l => { l with image := memPutList l.image off bs, readTo := max l.readTo (off + bs.length) })

/-- Words of an image in device memory read one by one: `some true` when all are read, `some false` while one waits at a stack in HOLD, none where one cannot be used, its event raised (R217, R229, R231, R238, R417, R428; log entry 110). -/
def readImageWords : Nat → State → Load → Nat → State × Option Bool
  | 0, s, _, _ => (s, some true)
  | n + 1, s, l, off =>
    let a := l.addr + off
    match wordCheck s a l.job with
    | .inl code => (raiseContained s code l.job 0x60 0 0 a, none)
    | .inr p =>
      if placeHeld s p then (s, some false)
      else
        let r := decodeAt s p.home
        match r.2.1 with
        | some w => readImageWords n (putImage (if r.2.2 then placeTel r.1 p false 1 else r.1) off (leBytes 32 w.toNat)) l (off + 32)
        | none => (uncorrectableAt r.1 p a l.job false, none)

/-- The image read up to a byte: what it takes is asked of the host or read from memory; none where the load has ended (R417, R428). -/
def imageTo (s : State) (l : Load) (n : Nat) : State × Option Bool :=
  if n ≤ l.readTo then (s, some true)
  else if spaceOf l.addr = 8 then
    (if s.host.reads.any (fun h => match h.use with
        | .image _ => true
        | _ => false) then (s, some false)
    else (hostRead s (l.addr + l.readTo) (n - l.readTo) (.image l.readTo), some false))
  else
    match readImageWords (ceilDiv (n - l.readTo) 32) s l l.readTo with
    | (s, none) => (rejectLoad s l 0x0705, none)
    | r => r

/-- Image bytes that the host has answered; poison or an error ends the load (R255, R417, R499). -/
def imageArrived (s : State) (off : Nat) (data : Option (List Byte)) : State :=
  match s.cfg.load, data with
  | none, _ => s
  | some _, some bs => putImage s off bs
  | some l, none => rejectWith s l 0x0705 0x0404

/-- LOAD_IMAGE: its parameters are checked and the load enters VERIFY (R417, R418, R428). -/
def execLoadImage (q seq : Nat) (s : State) : Host.Outcome State Fault Refusal :=
  hostRow s q seq 0x0101 (fun c =>
    let a := c.p 0 8
    let n := c.p 8 8
    let no (status : Nat) : State := finishConfig s q seq status 0 0
    let st := (jobOf s c.job).st
    if c.stage = .working then s
    else if loadParams c ≠ 0 then no (loadParams c)
    else if spaceOf a = 8 ∧ !windowHolds s c.job a n false then no 0x0503
    else if spaceOf a ≠ 8 ∧ !rangeOwned s c.job a n then no 0x0504
    else
      let id := ((s.cfg.waiting.head?).map (fun e => e.2.2)).getD s.cfg.loadCount
      let l : Load :=
        { q := q, cseq := seq, job := c.job, id := id, addr := a, size := n, dryrun := bit (c.p 16 4) 0, phase := .verify, image := [], readTo := 0, version := 0
          expectEpoch := 0, sigs := [], resent := [], aborted := st == .suspending || st == .resuming || st == .killing || st == .faulted
          parts := [], rollback := false, written := false }
      working { s with cfg := { s.cfg with load := some l } } q seq)

/-- Bytes of the image that have been read. -/
def Load.bytes (l : Load) (off n : Nat) : List Byte := memGetList l.image off n

/-- LOAD_VERIFY: the spine is read and checked in the order of R410 (R410, R419, R428). -/
def execLoadVerify (s : State) : Host.Outcome State Fault Refusal :=
  .next (match s.cfg.load with
    | none => s
    | some l =>
      if l.phase ≠ .verify then s
      else if l.aborted then rejectLoad s l 0x0705
      else match imageTo s l 64 with
        | (s, some true) =>
          (match s.cfg.load with
          | none => s
          | some l =>
            let n := fld (leNat (l.bytes 0 64)) 6 2
            let whole := if 1 ≤ n ∧ n ≤ 64 ∧ spineSize n ≤ l.size then spineSize n else 64
            match imageTo s l whole with
            | (s, some true) =>
              (match s.cfg.load with
              | none => s
              | some l =>
                let bytes := l.bytes 0 whole
                match spineCheck s l.job l.size bytes with
                | some code => rejectLoad s l code
                | none => modLoad s (fun l => { l with phase := .stage, version := fld (leNat bytes) 8 8, expectEpoch := fld (leNat bytes) 16 8 }))
            | (s, _) => s)
        | (s, _) => s)

/-- The signature-table entries of a spine in image order: offset, length, region, records, digest (R409, R419). -/
def spineSigs (l : Load) : List (Nat × Nat × Nat × Nat × List Byte) :=
  let spine := leNat (l.bytes 0 (spineSize 64))
  let es := (upTo (fld spine 6 2)).map (fun k =>
    (spineEntry spine k 0 8, spineEntry spine k 8 8, spineEntry spine k 16 2, spineEntry spine k 20 4, l.bytes (64 + 96 * k + 32) 64))
  es.mergeSort (fun a b => decide (a.1 ≤ b.1))

/-- SHA-512 of the spine that a load has read (R531, R552). -/
def Load.spineDigest (l : Load) : List Byte :=
  leBytes 64 (Config.sha512 (l.bytes 0 (spineSize (fld (leNat (l.bytes 0 64)) 6 2)))).toNat

/-- The signatures of an image, each one's digest compared and its records checked by themselves; or the code of the first failure (R410, R411, R415). -/
def parseSigs (s : State) (l : Load) : List (Nat × Nat × Nat × Nat × List Byte) → Sum Nat (List Sig)
  | [] => .inr []
  | (off, len, region, count, digest) :: rest =>
    let bs := l.bytes off len
    if leBytes 64 (Config.sha512 bs).toNat ≠ digest then .inl 0x0708
    else match parseRecs (len / 32) bs with
      | none => .inl 0x0701
      | some rs =>
        if !recsOk s rs count then .inl 0x0701
        else match parseSigs s l rest with
          | .inl code => .inl code
          | .inr gs => .inr (sigOf region l.version digest l.spineDigest rs :: gs)

/-- The usable compute dies of a load's regions. -/
def loadDies (s : State) (gs : List Sig) : List Nat := (upTo 96).filter (fun d => gs.any (fun g => (g.bounds.usable s).contains d))

/-- A die enrolled anew: its counts are cleared (R419, R434). -/
def enrol (s : State) (die : Nat) : State := setStageOf s die { enrolled := true, frames := 0, fsum := 0, taken := [] }

/-- A CFG_FRAME's ARG (R420). -/
def frameArg (die col f id : Nat) : BitVec 64 := BitVec.ofNat 64 (die + col * 2 ^ 8 + f * 2 ^ 16 + id % 65536 * 2 ^ 32)

/-- The 32 words of a frame. -/
def cfgFrameWords (d : BitVec 8192) : List Word := (upTo 32).map (fun k => BitVec.ofNat 256 (d.toNat / 2 ^ (256 * k)))

/-- A frame sent: an ordinary request to its die, or a broadcast packet pair for DIE 0x7F (R340, R420). -/
def sendFrame (s : State) (id : Nat) (f : Nat × Nat × Nat × BitVec 8192) : State :=
  let arg := frameArg f.1 f.2.1 f.2.2.1 id
  if f.1 ≠ 0x7F then sendReq s (configEp 0x60) 0 0 9 (configEp f.1) arg (cfgFrameWords f.2.2.2)
  else
    let m : Msg :=
      { typ := 9, dst := configEp 0x7F, src := configEp 0x60, issuer := 0, msgId := nextMsgId s (configEp 0x60), seq := 0, attempt := 0, job := 0, status := 0
        arg := arg, dep := false, cfgm := true, scode := false, data := cfgFrameWords f.2.2.2 }
    let s := modNi s 0x60 blockSite (fun n => { n with nextId := (n.freeId + 1) % 65536 })
    { s with net := { s.net with packets := s.net.packets ++ packetsOf m 4 } }

/-- LOAD_STAGE: the rest of the image is read, its signatures are checked, the dies are enrolled and the frames are sent (R415, R416, R419, R420, R428). -/
def execLoadStage (s : State) : Host.Outcome State Fault Refusal :=
  .next (match s.cfg.load with
    | none => s
    | some l =>
      if l.phase ≠ .stage then s
      else if l.aborted then rejectLoad s l 0x0705
      else match imageTo s l l.size with
        | (s, some true) =>
          (match s.cfg.load with
          | none => s
          | some l =>
            match parseSigs s l (spineSigs l) with
            | .inl code => rejectLoad s l code
            | .inr gs =>
              if !gs.all (sigInRegion s l.job gs) then rejectLoad s l 0x070A
              else
                let s := (loadDies s gs).foldl enrol s
                let s := (gs.flatMap Sig.frames).foldl (fun s f => sendFrame s l.id f) s
                modLoad s (fun l => { l with phase := .check, sigs := gs, parts := gs.map (fun g => (g.region, some g)) }))
        | (s, _) => s)

/-- Whether frames of a load are still on their way. -/
def framesMoving (s : State) : Bool :=
  s.net.packets.any (fun p => p.msg.typ == 9)
    || List.any s.net.nis (fun (e : Nat × Ni) => e.2.out.any (fun o => o.msg.typ == 9) || e.2.eject.any (fun p => p.msg.typ == 9) || e.2.rx.any (fun b => b.msg.typ == 9))

/-- The frames of a load that a die takes (R420). -/
def dieFrames (gs : List Sig) (die : Nat) : List (Nat × Nat × Nat × BitVec 8192) := gs.flatMap (fun g => g.frames.filter (fun f => dieField f.1 die))

/-- Whether a die's FRAMES and FSUM are those that H0 has summed itself (R420). -/
def delivered (s : State) (gs : List Sig) (die : Nat) : Bool :=
  let fs := dieFrames gs die
  let d := stageOf s die
  d.frames == fs.length % 65536 && d.fsum == (fs.foldl (fun n f => n + frameCrc f.1 f.2.1 f.2.2.1 f.2.2.2) 0) % 2 ^ 64

/-- The regions that a load gives signatures, with their job. -/
def Load.given (l : Load) : List LoadPart := l.parts.filterMap (fun p => p.2.map (fun g => { region := p.1, job := l.job, sig := g }))

/-- LOAD_CHECK: delivery is confirmed, with one more sending to dies that differ, and the staged configuration is checked (R420, R422, R428). -/
def execLoadCheck (s : State) : Host.Outcome State Fault Refusal :=
  .next (match s.cfg.load with
    | none => s
    | some l =>
      if l.phase ≠ .check then s
      else if l.aborted then rejectLoad s l 0x0705
      else if framesMoving s then s
      else
        let ds := if l.resent.isEmpty then loadDies s l.sigs else l.resent.filter (fun d => !(dieOf s d).fenced)
        let bad := ds.filter (fun d => !delivered s l.sigs d)
        if !bad.isEmpty then
          (if !l.resent.isEmpty then rejectLoad s l 0x0706
          else
            let s := bad.foldl enrol s
            let s := ((l.sigs.flatMap Sig.frames).filter (fun f => bad.any (fun d => dieField f.1 d))).foldl (fun s f => sendFrame s l.id f) s
            modLoad s (fun l => { l with resent := bad }))
        else match checkParts s l.given with
          | some code => rejectLoad s l code
          | none => if l.dryrun then finishConfig (endLoad s) l.q l.cseq 0 0 0 else modLoad s (fun l => { l with phase := .commit }))

/-- The check that a commit repeats before it parts anything: the code of its failure (R424 step 1). -/
def commitCheck (s : State) (l : Load) : Option Nat :=
  let st (p : Nat × Option Sig) : Option Region := Tab.find? p.1 s.regions
  if l.aborted then some 0x0705
  else if l.parts.any (fun p => ((st p).map Region.job) != some l.job) then some 0x0709
  else if l.parts.any (fun p => ((st p).map Region.st) != some .blank && ((st p).map Region.st) != some .running) then some 0x0705
  else if l.expectEpoch ≠ 0 ∧ l.expectEpoch ≠ s.cfg.epoch then some 0x0703
  else if !loadUsable s l.given then some 0x0704
  else none

/-- The sequence-table units after a commit of a region: its table and configuration are cleared, and the unit of SEQ_DIE serves it under SERVING (R463). -/
def rewriteSeqs (s : State) (n : Nat) (g : Option Sig) : State :=
  let s := { s with seqs := s.seqs.filter (fun e => e.2.region != n) }
  match g with
  | some g => if bit g.mflags 1 then { s with seqs := Tab.set g.seqDie { seqUnitInitial with region := n } s.seqs } else s
  | none => s

/-- A signature's CMEM records written on the dies they name, in order (R414, R415). -/
def writeCmem (s : State) (g : Sig) : State :=
  g.cmem.foldl (fun s c => ((g.bounds.usable s).filter (dieField c.1)).foldl (fun s d => clusterPut s d none c.2.1 c.2.2) s) s

/-- A region's new configuration written into its sites, its die's commands applied and its ranks written (R424 step 6). -/
def writePart (s : State) (n : Nat) (new : Option Sig) : State :=
  match Tab.find? n s.regions with
  | none => s
  | some r =>
    let s := modJob s r.job (fun j => { j with rankTable := rewriteRanks j.rankTable r.sig new })
    let s := rewriteSeqs s n new
    let s := setRegion s n { r with sig := new, timed := none, scan := none }
    match new with
    | none => s
    | some g =>
      let s := (regionSites s r).foldl (fun s k => writeSite s g k.1 k.2) s
      let s := (g.bounds.usable s).foldl (fun s d =>
        telAdd s d blockSite 0x418 ((g.frames.filter (fun f => f.2.2.2 != 0 && (f.1 == d || (f.1 == 0x7F && !g.frames.any (fun o => o.1 == d && o.2.1 == f.2.1 && o.2.2.1 == f.2.2.1))))).length)) s
      writeCmem s g

/-- A signature's KETTLE_INIT records sent as RESETs (R350, R424 step 6). -/
def sendInits (s : State) (job : Nat) (g : Option Sig) : State :=
  match g with
  | some g => g.kettleInit.foldl (fun s k => sendKettle s (configEp 0x60) 0 job k.1 4 false k.2) s
  | none => s

/-- Whether H0's own RESETs have been acknowledged. -/
def initsDone (s : State) : Bool := !(niOf s 0x60 blockSite).out.any (fun o => o.msg.typ == 4 && o.msg.src == configEp 0x60)

/-- Steps 6 and 7 of a commit: every part is written, the KETTLE_INIT records act, and the epoch advances (R424, R429 to R432). -/
def writeLoad (s : State) (l : Load) : State :=
  let old : Tab (Option Sig) := l.parts.filterMap (fun p => (Tab.find? p.1 s.regions).map (fun r => (p.1, r.sig)))
  let s := l.parts.foldl (fun s p => writePart s p.1 p.2) s
  let s := l.parts.foldl (fun s p => match Tab.find? p.1 s.regions with
    | some r => (regionSites s r).foldl (fun s k => creditSite s (siteKey k.1 k.2)) s
    | none => s) s
  let s := l.parts.foldl (fun s p => sendInits s l.job p.2) s
  let c := s.cfg
  let s := { s with cfg :=
    if l.rollback then { c with epoch := c.epoch + 1, prevEpoch := none, prevSigs := [] }
    else { c with epoch := c.epoch + 1, prevEpoch := some c.epoch, prevSigs := old, imageVersion := l.version } }
  modLoad (if l.rollback then raiseCorrected s 0x070C l.job 0x7F 0 0 s.cfg.epoch else s) (fun l => { l with written := true })

/-- A load whose next configuration holds an uncorrectable word: its regions stay blank and enter FAULTED (R424). -/
def failCommit (s : State) (l : Load) : State :=
  let s := l.parts.foldl (fun s p => match Tab.find? p.1 s.regions with
    | some r => setRegion (writePart s p.1 none) p.1 { r with st := .faulted, sig := none, timed := none }
    | none => s) s
  finishConfig (endLoad (raiseContained s 0x070B l.job 0x7F 0 0 0)) l.q l.cseq 0x0403 0 0

/-- LOAD_COMMIT: the load's regions are parted, brought to rest, blanked and written, and once the writes are acknowledged their start is set 2 µs ahead (R424, R427, R428, R431). -/
def execLoadCommit (uncorr : Bool) (s : State) : Host.Outcome State Fault Refusal :=
  .next (match s.cfg.load with
    | none => s
    | some l =>
      let ns := l.parts.map (·.1)
      let part (s : State) : State :=
        let r := partStep s ns false
        if r.2 then
          let s := ns.foldl blankSites r.1
          if uncorr then failCommit s l else writeLoad s l
        else r.1
      if l.phase = .commit then
        (match commitCheck s l with
        | some code => rejectLoad s l code
        | none => part (modLoad s (fun l => { l with phase := .parting })))
      else if l.phase ≠ .parting then s
      else if !l.written then part s
      else if initsDone s then
        ns.foldl (fun s n => match Tab.find? n s.regions with
          | some r => if r.st = .parted ∧ r.startAt.isNone then setRegion s n { r with startAt := some (s.now + 2000) } else s
          | none => s) s
      else s)

/-- Whether a circuit has an end on each side of a region's border, or none inside it. -/
def crossesBorder (s : State) (r : Region) (key : Nat) (c : Nat × Nat) : Bool :=
  !(r.hasKey key && List.any s.grain (fun (k : Nat × GrainSite) => r.hasKey k.1 && ((k.2.sinkOf c.1 c.2).isSome
    || List.any k.2.slots (fun (e : Nat × Nat) => decide (24 * 16 ≤ e.1) && entValid e.2 && entJob e.2 == c.1 && entCircuit e.2 == c.2))))

/-- The border circuits that a region continues resume: their ends clear STOPPED. A region scanned in has its credits exactly as they were; otherwise the source, a tile's or an element's output, takes its credits from the free places that its sink reports, no credit on its way being counted twice; the load's checks hold a kept number to its lane and slot (R280, R309, R310, R426). -/
def resumeBorders (s : State) (n : Nat) (r : Region) : State :=
  let held := List.flatMap (fun (e : Nat × Region) => if e.1 ≠ n ∧ e.2.isParted then regionCircuits s e.2 else []) s.regions
  let cs := (regionCircuits s r).filter (fun c => !held.contains c)
  let free (c : Nat × Nat) (old : Nat) : Nat := (circuitFree s c.1 c.2).getD old
  let again := if r.scan.isSome then [] else cs.filter (fun c => List.any s.grain (fun (k : Nat × GrainSite) =>
    match k.2.sourceOf c.1 c.2 with
    | some p => p.2.stopped || (p.2.border && crossesBorder s r k.1 c)
    | none => (upTo 10).any (fun m => (upTo 2).any (fun o => k.2.outCircuit m o == some c)) && crossesBorder s r k.1 c))
  { s with grain := s.grain.map (fun k =>
      let g := k.2.dropOwed again
      let cred (m o old : Nat) : Nat := match g.outCircuit m o with
        | some c => if again.contains c then free c old else old
        | none => old
      (k.1, { g with
        eps := g.eps.map (fun e =>
          if again.contains (e.2.job, e.2.circuit) then (e.1, { e.2 with stopped := false, credits := if e.2.kind = 1 then free (e.2.job, e.2.circuit) e.2.credits else e.2.credits })
          else if e.2.stopped && cs.contains (e.2.job, e.2.circuit) then (e.1, { e.2 with stopped := false }) else e)
        els := g.els.map (fun e => (e.1, { e.2 with cred0 := cred e.1 0 e.2.cred0, cred1 := cred e.1 1 e.2.cred1 })) })) }

/-- Every tile context begins its wait at the start, and the copy audit its interval (R106, R118, R426). -/
def startTiles (s : State) (r : Region) : State :=
  { s with
    mTiles := s.mTiles.map (fun e => if r.hasKey e.1 then
      (e.1, { e.2 with ctxs := e.2.ctxs.map (fun c => { c with waitedFrom := s.now }), auditAt := s.now + ceilDiv (e.2.site.toNat % 256 * 2 ^ 20) 3 }) else e)
    vTiles := s.vTiles.map (fun e => if r.hasKey e.1 then (e.1, { e.2 with ctxs := e.2.ctxs.map (fun c => { c with waitedFrom := s.now }) }) else e) }

/-- The rank that names a core in a job's table, 0xFFFF where none does (R388). -/
def coreRank (s : State) (job die core : Nat) : Nat :=
  ((List.find? (fun (e : Nat × Nat) => entryEp e.2 == some (coreEp die core)) (jobOf s job).rankTable).map (·.1)).getD 0xFFFF

/-- The programs of a region's cores started (R385, R386). -/
def startCores (s : State) (r : Region) : State :=
  match r.sig with
  | none => s
  | some g => (regionCores r).foldl (fun s c => match g.program c.1 c.2 with
    | some d => if bit (fld d.toNat 0 1) 0 ∧ !(dieOf s c.1).fenced then startCore s c.1 c.2 r.job (coreRank s r.job c.1 c.2) d else s
    | none => s) s

/-- The static streams of a region's sites join their engines' queues (R245, R426). -/
def startStreams (s : State) (r : Region) : State :=
  match r.sig with
  | none => s
  | some g => (regionSites s r).foldl (fun s k => if hasEngine k.1 k.2 then (g.staticStreams k.1 k.2).foldl (fun s d => (enqueueStream s k.1 k.2 r.job none 0 d).1) s else s) s

/-- A region of a job that was faulted while a commit or a resumption of it was under way enters FAULTED (R428, R445, R450). -/
def faultLate (s : State) (n : Nat) : State :=
  match Tab.find? n s.regions with
  | some r =>
    if (jobOf s r.job).st = .faulted then
      let s := if r.st = .running then partRegion s n else s
      (match Tab.find? n s.regions with
      | some r => if r.st = .suspended then s else setRegion s n { r with st := .faulted }
      | none => s)
    else s
  | none => s

/-- A load whose regions have all started is answered (R424). -/
def settleLoad (s : State) : State :=
  match s.cfg.load with
  | some l =>
    if l.written ∧ l.parts.all (fun p => match Tab.find? p.1 s.regions with
        | some r => r.startAt.isNone && r.st != .parted
        | none => true) then
      finishConfig (endLoad (l.parts.foldl (fun s p => faultLate s p.1) s)) l.q l.cseq 0 0 0
    else s
  | none => s

/-- REGION_START: at T a committed region enters RUNNING, its streams, contexts and programs starting; a resumed one goes on from its scan (R424 step 8, R426, R432, R449). -/
def execRegionStart (region : Nat) (s : State) : Host.Outcome State Fault Refusal :=
  .next (match Tab.find? region s.regions with
    | none => s
    | some r =>
      match r.startAt with
      | none => s
      | some t =>
        if s.now < t ∨ r.st ≠ .parted then s
        else
          let run := match r.scan with
            | some _ => r.wasRunning
            | none => r.sig.isSome
          let s := setRegion s region { r with st := if run then .running else .blank, startAt := none, scan := if s.pair.run.isSome then r.scan else none }
          if !run then settleLoad s
          else match r.scan with
            | some sc => settleLoad (restartRegion (resumeBorders s region r) sc)
            | none => settleLoad (startCores (startStreams (startTiles (resumeBorders s region r) r) r) r))

/-- ROLLBACK_CONFIG: the previous configuration of the regions that the last load changed is committed (R431, R432). -/
def execRollbackConfig (q seq : Nat) (s : State) : Host.Outcome State Fault Refusal :=
  hostRow s q seq 0x0102 (fun c =>
    let no (status : Nat) : State := finishConfig s q seq status 0 0
    let rs : List Region := s.cfg.prevSigs.filterMap (fun e => Tab.find? e.1 s.regions)
    if c.stage = .working then s
    else if q ≠ 64 ∧ rs.any (fun r => r.job != q) then no 0x0501
    else if s.cfg.prevEpoch.isNone then no 0x030A
    else if c.p 0 8 ≠ s.cfg.epoch then no 0x0307
    else if rs.any (fun r => r.st == .suspended || r.st == .parted) then no 0x0301
    else
      let l : Load :=
        { q := q, cseq := seq, job := (rs.head?.map Region.job).getD c.job, id := s.cfg.loadCount, addr := 0, size := 0, dryrun := false, phase := .commit, image := [], readTo := 0
          version := 0, expectEpoch := 0, sigs := [], resent := [], aborted := false, parts := s.cfg.prevSigs, rollback := true, written := false }
      working { s with cfg := { s.cfg with load := some l } } q seq)

/-- PHASE of CONFIG_STATUS (R433). -/
def loadPhase (s : State) : Nat :=
  match s.cfg.load with
  | none => 0
  | some l => match l.phase with
    | .verify => 1
    | .stage => 2
    | .check => 3
    | .commit => 4
    | .parting => 4

/-- The record of CONFIG_STATUS (R433). -/
def configRecord (s : State) : List Byte :=
  leBytes 8 s.cfg.epoch ++ leBytes 8 (prevEpochReg s) ++ leBytes 8 s.cfg.loadCount ++ leBytes 8 s.cfg.imageVersion ++ leBytes 1 (loadPhase s)
    ++ leBytes 1 (s.cfg.waiting.length - 1) ++ leBytes 2 s.cfg.lastStatus ++ leBytes 4 s.cfg.lastSeq ++ leBytes 8 s.now ++ leBytes 16 0

/-- CONFIG_STATUS (R433). -/
def execConfigStatus (q seq : Nat) (s : State) : Host.Outcome State Fault Refusal :=
  hostRow s q seq 0x0103 (fun c => writeCmdRecord s q c (c.p 0 8) (configRecord s) 0)

end Sys2Proof.Machine
end

