-- ==== Sys2Proof/Machine/Mirror.lean ====
section
/-! DEFINITION. Sys2Proof/Machine/Mirror.lean: the records of a mirror, their writing into the ring, and the end of a mirror (R555, R556, R559, R560). -/

namespace Sys2Proof.Machine

/-- The bytes of a scan area on a die, whose layout within each unit's items only scan-in reads (R447, R556; log entry 80). -/
opaque Config.scanBytes : Scan → Nat → List Byte

/-- What a region's scan areas hold as scan-in reads it: die and bytes of each (R447, R557; log entry 80). -/
opaque Config.scanRead : List (Nat × List Byte) → Option Scan

/-- The bytes over which the layout digest is taken (R552; log entry 80). -/
opaque Config.layoutBytes : List (List Nat) → List Byte

/-- A list's front made n long. -/
def padTo (n : Nat) (l : List Byte) : List Byte := (l ++ List.replicate (n - l.length) 0).take n

/-- The payload of a mirror record (R556). -/
def mirrorPayload (s : State) (p : MPayload) : List Byte :=
  match p with
  | .bytes l => l
  | .page home len => memGetList s.mem home len
  | .scan region die off len =>
    match (Tab.find? region s.regions).bind Region.scan with
    | some sc => padTo len ((Config.scanBytes sc die).drop off)
    | none => List.replicate len 0

/-- Bytes 0 to 59 of a record: the header with its PCRC and HCRC (R555). -/
def mirrorHeader (s : State) (m : Mirror) (r : MRec) : List Byte :=
  let p := mirrorPayload s r.payload
  let h := leBytes 4 0x4D524B48 ++ leBytes 1 r.mtype ++ leBytes 1 m.job ++ leBytes 2 0 ++ leBytes 8 m.mseq ++ leBytes 8 s.pair.pairId ++ leBytes 8 r.ckpt ++ leBytes 8 r.target
    ++ leBytes 4 p.length ++ leBytes 4 (if p.isEmpty then 0 else crc32 p) ++ leBytes 8 0
  h ++ leBytes 4 (crc32 h)

/-- The mirror updated. -/
def modMirror (s : State) (f : Mirror → Mirror) : State := { s with pair := { s.pair with mirror := s.pair.mirror.map f } }

/-- The device address of a byte of the slot that a mirror's next record takes (R555). -/
def ringAddr (m : Mirror) (off : Nat) : Nat := hostAddr (m.ring + 65600 * (m.mseq % m.slots) + off)

/-- Whether the consumed word, in serial arithmetic, is at or after MSEQ − SLOTS (R555). -/
def slotFree (m : Mirror) : Bool := decide ((m.consumed + 2 ^ 65 - m.mseq % 2 ^ 64 + m.slots) % 2 ^ 64 < 2 ^ 63)

/-- A mirror write is outstanding. -/
def mirrorWriting (s : State) : Bool := s.host.writes.any (fun w => w.use == .mirror)

/-- A mirror's sub-write issued: COMMIT all ones, the payload, bytes 0 to 59, COMMIT zero, in that order (R555). -/
def mirrorSub (s : State) (m : Mirror) (r : MRec) : State :=
  match m.sub with
  | 1 => hostWrite s (ringAddr m 60) (leBytes 4 0xFFFFFFFF) .mirror
  | 2 => hostWrite s (ringAddr m 64) (mirrorPayload s r.payload) .mirror
  | 3 => hostWrite s (ringAddr m 0) (mirrorHeader s m r) .mirror
  | _ => hostWrite s (ringAddr m 60) (leBytes 4 0) .mirror

/-- The active's next write: a record begins once its slot is free, and while it is not the consumed word is read again (R555, R559). -/
def mirrorPump (s : State) : State :=
  match s.pair.mirror with
  | none => s
  | some m =>
    match m.queue with
    | [] => s
    | r :: _ =>
      if s.pair.role ≠ 1 ∨ mirrorWriting s then s
      else if m.sub ≠ 0 then mirrorSub s m r
      else if slotFree m then
        let m := { m with sub := 1, waitFrom := none, stalled := false }
        mirrorSub { s with pair := { s.pair with mirror := some m } } m r
      else
        let s := modMirror s (fun m => { m with waitFrom := match m.waitFrom with
          | some t => some t
          | none => some s.now })
        if s.host.reads.any (fun h => h.use == .consumed) then s else hostRead s (hostAddr m.consumedAddr) 8 .consumed

/-- The scans that a checkpoint of a job left for its SCAN records are held no longer. -/
def dropScans (s : State) (j : Nat) : State :=
  { s with regions := s.regions.map (fun (e : Nat × Region) => if e.2.job = j ∧ e.2.st ≠ .suspended ∧ e.2.startAt.isNone then (e.1, { e.2 with scan := none }) else e) }

/-- The mirror ended (R560). -/
def endMirror (s : State) : State :=
  let s := if s.pair.role = 1 then dropScans s ((s.pair.mirror.map Mirror.job).getD 0) else s
  raiseCorrected { s with pair := { s.pair with mirror := none } } 0x0807 ((s.pair.mirror.map Mirror.job).getD 0) 0x7F 0 0 0

/-- A mirror stopped: an active finishes the record it is writing and then writes STOP, a shadow discards its open checkpoint and ends; a checkpoint that is still scanning goes on first, and one whose records remain is answered WRONG_STATE (R560; DESIGN CHOICE, log entry 45). -/
def stopMirror (s : State) : State :=
  match s.pair.mirror with
  | none => s
  | some m =>
    if m.stopping then s
    else if s.pair.role = 2 then endMirror s
    else if (s.pair.run.map (fun r => !r.scanned)).getD false then s
    else
      let cur := if m.sub = 0 then [] else m.queue.take 1
      let s := match s.pair.run with
        | some r => if cur.any (fun x => x.mtype == 5) then s else finishCmd { s with pair := { s.pair with run := none } } r.q r.seq 0x0301 0 0
        | none => s
      mirrorPump (modMirror s (fun m => { m with stopping := true, queue := cur ++ [{ mtype := 6, ckpt := m.ckpt, target := 0, payload := .bytes [] }] }))

/-- A record of the mirror is visible: the number moves on; END answers the checkpoint, STOP ends the mirror (R554, R560). -/
def recordWritten (s : State) (m : Mirror) (r : MRec) : State :=
  let s := modMirror s (fun m => { m with mseq := m.mseq + 1, sub := 0, queue := m.queue.drop 1 })
  if r.mtype = 6 then endMirror s
  else if r.mtype = 5 then
    let run := s.pair.run
    let s := dropScans (modMirror s (fun m => { m with ckpt := m.ckpt + 1 })) m.job
    let s := raiseCorrected { s with pair := { s.pair with ckptDone := r.ckpt, run := none } } 0x0801 m.job 0x7F 0 0 r.ckpt
    match run with
    | some c => finishCmd s c.q c.seq 0 0 r.ckpt
    | none => s
  else s

/-- A sub-write's GO: the next one starts, and an error has it sent again (R255, R555). -/
def mirrorGo (s : State) (err : Bool) : State :=
  match s.pair.mirror with
  | none => s
  | some m =>
    match m.queue with
    | [] => s
    | r :: _ =>
      let next := if m.sub = 1 ∧ (mirrorPayload s r.payload).isEmpty then 3 else m.sub + 1
      if err ∨ m.sub = 0 then mirrorPump s
      else mirrorPump (if next ≤ 4 then modMirror s (fun m => { m with sub := next }) else recordWritten s m r)

/-- The consumed word as the active has read it again (R555). -/
def consumedRead (s : State) (data : Option (List Byte)) : State :=
  match data with
  | some bs => mirrorPump (modMirror s (fun m => { m with consumed := leNat (bs.take 8) }))
  | none => mirrorPump s

/-- PAIR_MIRROR_STALLED: an active that has waited 100 ms for a slot says so once for that wait (R559). -/
def execPairMirrorStalled (s : State) : Host.Outcome State Fault Refusal :=
  .next (match s.pair.mirror with
    | none => s
    | some m =>
      match m.waitFrom with
      | some t =>
        if s.pair.role = 1 ∧ !m.stalled ∧ t + 100000000 ≤ s.now then
          raiseCorrected (modMirror s (fun m => { m with stalled := true })) 0x0805 m.job 0x7F 0 0 0
        else s
      | none => s)

end Sys2Proof.Machine
end

