-- ==== Sys2Proof/Machine/Jobs.lean ====
section
/-! DEFINITION. Sys2Proof/Machine/Jobs.lean: jobs: creation, resources, suspension, resumption, faults, kills, captures, status and counters (R436 to R457, R460 to R462, R472, R560). -/

namespace Sys2Proof.Machine

/-- The start of the lowest run of count numbers that a test passes, looked for from a position on. -/
def findRun (free : Nat → Bool) (count : Nat) : Nat → Nat → Nat → Option Nat
  | 0, _, _ => none
  | f + 1, pos, run =>
    if free pos then (if run + 1 = count then some (pos + 1 - count) else findRun free count f (pos + 1) (run + 1))
    else findRun free count f (pos + 1) 0

/-- A job's state set, its time in ACTIVE counted (R437, R472). -/
def setJobState (s : State) (j : Nat) (st : JState) : State :=
  let old := (jobOf s j).st
  let s := if old = .active then jobCount s j 0x10 (s.now - (jobOf s j).activeFrom) else s
  modJob s j (fun x => { x with st := st, activeFrom := s.now })

/-- The numbers of a job's regions. -/
def jobRegions (s : State) (j : Nat) : List Nat := (List.filter (fun (e : Nat × Region) => e.2.job == j) s.regions).map (·.1)

/-- A page that can be allocated: it exists, is FREE, and no granule of it is on a channel lost in service (R216, R230, R443). -/
def pageFree (s : State) (key : Nat) : Bool := pageExists s key && decide ((pageOf s key).st = .free) && !pageOnLost s key

/-- Pages set to a state. -/
def setPages (s : State) (keys : List Nat) (st : PageState) (hostvis : Bool) : State :=
  keys.foldl (fun s k => setPage s k { pageOf s k with st := st, hostvis := hostvis, dirty := false }) s

/-- Pages that enter zeroing: SYSTEM until every codeword is zero, one that held an uncorrectable codeword RETIRED at once; RETIRED ones stay so (R240, R453). -/
def zeroPages (s : State) (keys : List Nat) : State :=
  keys.foldl (fun s k =>
    let p := pageOf s k
    if p.st = .retired then s
    else if p.uncorr then setPage s k { p with st := .retired, hostvis := false, dirty := false }
    else setPage s k { p with st := .system, hostvis := false, dirty := false, zeroing := true }) s

/-- PAGE_ZEROING_COMPLETE: a page whose codewords are all zero becomes FREE, or RETIRED where it held an uncorrectable codeword or has a granule on a lost channel (R216, R240, R453). -/
def execPageZeroingComplete (page : Nat) (s : State) : Host.Outcome State Fault Refusal :=
  .next (
    let p := pageOf s page
    if p.zeroing then
      let s := clearBytes (biNote s (pageHome page) (2 ^ 21)) (pageHome page) (2 ^ 21)
      setPage s page { p with st := if p.uncorr || pageOnLost s page then .retired else .free, hostvis := false, uncorr := p.uncorr, zeroing := false, dirty := false }
    else s)

/-- The near pages of a run of near-interleaved or near-direct pages on a die. -/
def nearKeys (die first count : Nat) : List Nat := (upTo count).map (fun k => die * 2 ^ 15 + first + k)

/-- The first page number of an allocation: near pages by die-local number, far pages by far number (R230). -/
def Alloc.first (s : State) (a : Alloc) : Nat :=
  if a.space = 1 then 512 + bits a.base 42 0 / (2 ^ 21 * max 1 s.goodDies.length) else if a.space = 0 then bits a.base 35 0 / 2 ^ 21 else bits a.base 41 0 / 2 ^ 21

/-- The pages of an allocation (R230, R443). -/
def Alloc.keys (s : State) (a : Alloc) : List Nat :=
  match a.space with
  | 0 => nearKeys a.die (a.first s) a.pages
  | 1 => s.goodDies.flatMap (fun d => nearKeys d (a.first s) a.pages)
  | _ => (upTo a.pages).map (fun k => 2 ^ 22 + a.first s + k)

/-- Bytes of device addresses that an allocation spans. -/
def Alloc.bytes (s : State) (a : Alloc) : Nat := a.pages * 2 ^ 21 * (if a.space = 1 then s.goodDies.length else 1)

/-- The pages of a region's scan areas. -/
def Region.scanKeys (r : Region) : List Nat := r.scanAreas.flatMap (fun a => nearKeys a.1 a.2.1 a.2.2)

/-- Whether two bounds share a column or die, on dies that are usable (R403, R404, R441). -/
def boundsMeet (s : State) (a b : Bounds) : Bool :=
  match a, b with
  | .columns d x0 x1, .columns e y0 y1 => d == e && decide (x0 ≤ y1) && decide (y0 ≤ x1)
  | _, _ => (a.usable s).any (fun d => (b.usable s).contains d)

/-- Whether bounds are free: no region that is not SUSPENDED holds a column or die of them (R441, R446). -/
def boundsFree (s : State) (b : Bounds) : Bool := List.all s.regions (fun (e : Nat × Region) => e.2.st == .suspended || !boundsMeet s b e.2.bounds)

/-- Whether a job's rank table fits in the rank store of a die beside those of the jobs with issuers there (R322, R441). -/
def rankStoreFits (s : State) (job die : Nat) : Bool :=
  let there := ((List.filter (fun (e : Nat × Region) => e.2.st != .suspended && e.2.bounds.dieList.contains die) s.regions).map (fun e => e.2.job)).eraseDups
  there.contains job || decide ((there.foldl (fun n j => n + (jobOf s j).ranks) 0) + (jobOf s job).ranks ≤ 131072)

/-- The scan areas that bounds need: die, first page, pages; none where a die lacks them (R442). -/
def scanAreasFor (s : State) (b : Bounds) : Option (List (Nat × Nat × Nat)) :=
  (b.usable s).foldl (fun acc d => acc.bind (fun l =>
    let n := pagesFor (scanSize b d)
    (findRun (fun p => pageFree s (d * 2 ^ 15 + p)) n 32768 0 0).map (fun p => l ++ [(d, p, n)]))) (some [])

/-- Whether a queue may allocate for a job (R438). -/
def allocAdmits (s : State) (q : Nat) (c : HCmd) : Bool := q == 64 || (jobOf s c.job).selfAlloc

/-- Writes of a queue that are on their way when its number gets a new life: they change nothing of the queue any more (R483). -/
def forgetWrites (s : State) (q : Nat) : State :=
  { s with host := { s.host with writes := s.host.writes.map (fun w => match w.use with
    | .cqEntry q' => if q' = q then { w with use := .headstock } else w
    | .command q' _ => if q' = q then { w with use := .headstock } else w
    | _ => w) } }

/-- CREATE_JOB: the job enters ACTIVE with no resource but its queue, whose numbers and retention start anew (R438, R439, R483). -/
def execCreateJob (q seq : Nat) (s : State) : Host.Outcome State Fault Refusal :=
  hostRow s q seq 0x0201 (fun c =>
    let flags := c.p 4 1
    let cap := bit flags 0
    let addr := c.p 8 8
    let size := c.p 16 8
    let ranks := c.p 0 4
    if c.job = 0 ∨ ranks = 0 ∨ 65536 < ranks ∨ 8 ≤ flags ∨ (bit flags 1 ∧ !cap) ∨ c.p 5 3 ≠ 0 then finishCmd s q seq 0x0102 0 0
    else if cap ∧ (size % 4096 ≠ 0 ∨ size < 4096 ∨ 2 ^ 40 < size) then finishCmd s q seq 0x0102 0 0
    else if !cap ∧ (addr ≠ 0 ∨ size ≠ 0) then finishCmd s q seq 0x0102 0 0
    else if cap ∧ (addr % 64 ≠ 0 ∨ spaceOf addr ≠ 8 ∨ addrMalformed addr ∨ addrMalformed (addr + size - 1)) then finishCmd s q seq 0x0103 0 0
    else if (jobOf s c.job).st ≠ .free then finishCmd s q seq 0x0301 0 0
    else
      let s := modJob s c.job (fun _ => { jobInitial with
        st := .active, ranks := ranks, capture := cap, capData := bit flags 1, selfAlloc := bit flags 2, captureAddr := addr, captureSize := size, activeFrom := s.now })
      let s := modQ (forgetWrites s c.job) c.job (fun h => { h with
        lastAccepted := 0xFFFFFFFF, lastReplied := 0xFFFFFFFF, lastNotice := 0xFFFFFFFF, nextNotice := 0, kept := [], held := [], writing := [], cmds := [], ktlStatus := 0, ktlDropped := 0
        qstate := if h.qstate = 6 then 0 else h.qstate })
      finishCmd s q seq 0 0 0)

/-- The bounds that ALLOC_REGION's parameters give, none where they break their ranges (R441). -/
def allocBounds (c : HCmd) : Option Bounds :=
  match c.p 0 1 with
  | 0 => if isCompute (c.p 1 1) && decide (c.p 2 1 ≤ c.p 3 1) && decide (c.p 3 1 < 24) && c.p 4 4 == 0 then some (.columns (c.p 1 1) (c.p 2 1) (c.p 3 1)) else none
  | 1 =>
    let x0 := c.p 4 1
    let y0 := c.p 5 1
    let x1 := c.p 6 1
    let y1 := c.p 7 1
    let hub (x y : Nat) : Bool := decide (x0 ≤ x) && decide (x ≤ x1) && decide (y0 ≤ y) && decide (y ≤ y1)
    if c.p 1 3 == 0 && decide (x0 ≤ x1) && decide (x1 < 10) && decide (y0 ≤ y1) && decide (y1 < 10) && !hub 0 0 && !hub 9 0 && !hub 0 9 && !hub 9 9 then some (.dies x0 y0 x1 y1) else none
  | _ => none

/-- The partition changes: the epoch advances and no previous epoch is kept (R429, R430). -/
def nextEpoch (s : State) : State := { s with cfg := { s.cfg with epoch := s.cfg.epoch + 1, prevEpoch := none, prevSigs := [] } }

/-- The lowest free region number (R441). -/
def freeRegion (s : State) : Option Nat := (upTo 4096).find? (fun n => decide (1 ≤ n) && (Tab.find? n s.regions).isNone)

/-- ALLOC_REGION (R441, R442). -/
def execAllocRegion (q seq : Nat) (s : State) : Host.Outcome State Fault Refusal :=
  hostRow s q seq 0x0205 (fun c =>
    let no (status : Nat) : State := finishConfig s q seq status 0 0
    match allocBounds c with
    | none => no 0x0102
    | some b =>
      if !allocAdmits s q c then no 0x0501
      else if (jobOf s c.job).st ≠ .active then no 0x0301
      else if (b.usable s).isEmpty then no 0x0304
      else if !boundsFree s b then no 0x0201
      else if !(b.usable s).all (rankStoreFits s c.job) then no 0x0205
      else match scanAreasFor s b with
        | none => no 0x0202
        | some areas =>
          match freeRegion s with
          | none => no 0x0204
          | some n =>
            let r : Region := { job := c.job, bounds := b, st := .blank, sig := none, wasRunning := false, scanAreas := areas, scan := none, startAt := none, timed := none }
            finishConfig (nextEpoch (setPages (setRegion s n r) r.scanKeys .system false)) q seq 0 0 n)

/-- The open runs of a timed region abandoned, each reported (R461, R462). -/
def abandonRuns (s : State) (n : Nat) : State :=
  match Tab.find? n s.regions with
  | none => s
  | some r =>
    match r.timed with
    | none => s
    | some t => setRegion (t.runs.foldl (fun s x => timedReport s r t x none) s) n { r with timed := some { t with runs := [] } }

/-- A quiet region scrubbed and freed: its ranks leave the table, its scan areas are the caller's (R406, R416, R452). -/
def dropRegion (s : State) (n : Nat) : State :=
  match Tab.find? n s.regions with
  | none => s
  | some r =>
    let s := if r.st = .suspended then s else
      let s := blankSites (abandonRuns s n) n
      match Tab.find? n s.regions with
      | some r => scrubRegion s n r
      | none => s
    let s := modJob s r.job (fun j => { j with rankTable := rewriteRanks j.rankTable r.sig none })
    { s with regions := Tab.erase n s.regions }

/-- FREE_REGION: a region that holds sites is parted, scrubbed and freed, a SUSPENDED one's scan areas are zeroed (R441, R452, R453). -/
def execFreeRegion (q seq : Nat) (s : State) : Host.Outcome State Fault Refusal :=
  hostRow s q seq 0x0206 (fun c =>
    let no (status : Nat) : State := finishConfig s q seq status 0 0
    let n := c.p 0 2
    let st := (jobOf s c.job).st
    let refused : Nat := if c.stage = .working then 0 else if !allocAdmits s q c then 0x0501
      else if !(st == .active || (st == .suspended && q == 64)) then 0x0301 else 0
    if refused ≠ 0 then no refused
    else match Tab.find? n s.regions with
    | none => no 0x0504
    | some r =>
      let free (s : State) : State := finishConfig (nextEpoch (zeroPages (dropRegion s n) r.scanKeys)) q seq 0 0 0
      let part (s : State) : State :=
        let p := partStep s [n] false
        if p.2 then free p.1 else working p.1 q seq
      if c.stage = .working then (if r.st = .faulted then no 0x0401 else part s)
      else if r.job ≠ c.job then no 0x0504
      else if r.st = .suspended then free s
      else if r.st = .blank ∨ r.st = .running then part s
      else no 0x0301)

/-- The allocation that ALLOC_MEM's parameters take: the lowest run of free pages of the space (R230, R443). -/
def findAlloc (s : State) (space die pages : Nat) : Option Alloc :=
  match space with
  | 0 => (findRun (fun p => decide (512 ≤ p) && pageFree s (die * 2 ^ 15 + p)) pages 32768 0 0).map (fun p => { base := nearAddr die (p * 2 ^ 21), space := 0, die := die, pages := pages })
  | 1 =>
    let n := s.goodDies.length
    (findRun (fun p => decide (512 ≤ p) && decide (0 < n) && decide ((p - 511) * 512 ≤ ilGranules s) && s.goodDies.all (fun d => pageFree s (d * 2 ^ 15 + p))) pages 32768 0 0).map (fun p =>
      { base := 2 ^ 59 + (p - 512) * 2 ^ 21 * n, space := 1, die := 0, pages := pages })
  | _ => (findRun (fun p => pageFree s (2 ^ 22 + p)) pages (2 ^ 21) 0 0).map (fun p => { base := farAddr (p * 2 ^ 21), space := 2, die := 0, pages := pages })

/-- ALLOC_MEM (R443). -/
def execAllocMem (q seq : Nat) (s : State) : Host.Outcome State Fault Refusal :=
  hostRow s q seq 0x0207 (fun c =>
    let no (status : Nat) : State := finishCmd s q seq status 0 0
    let space := c.p 0 1
    let die := c.p 1 1
    let pages := c.p 4 4
    if 2 < space ∨ (if space = 0 then !isCompute die else die != 0) ∨ 1 < c.p 2 1 ∨ c.p 3 1 ≠ 0 ∨ pages = 0 ∨ 2097152 < pages then no 0x0102
    else if !allocAdmits s q c then no 0x0501
    else if (jobOf s c.job).st ≠ .active then no 0x0301
    else if space = 0 ∧ (dieOf s die).fenced then no 0x0304
    else match findAlloc s space die pages with
      | none => no 0x0202
      | some a =>
        let s := setPages s (a.keys s) (.owned c.job) (bit (c.p 2 1) 0)
        finishCmd (modJob s c.job (fun j => { j with allocs := j.allocs ++ [a] })) q seq 0 0 a.base)

/-- Whether a stream of a job has a range as its remote side (R443). -/
def streamUses (s : State) (job a n : Nat) : Bool :=
  List.any s.engines (fun (e : Nat × Engine) => (e.2.queue ++ e.2.slots.map (·.2)).any (fun x =>
    x.job == job && decide (addrNat (streamExtreme x.desc false) < a + n) && decide (a < addrNat (streamExtreme x.desc true) + 32)))

/-- FREE_MEM: exactly the pages of one earlier allocation enter zeroing (R443, R453). -/
def execFreeMem (q seq : Nat) (s : State) : Host.Outcome State Fault Refusal :=
  hostRow s q seq 0x0208 (fun c =>
    let no (status : Nat) : State := finishCmd s q seq status 0 0
    if !allocAdmits s q c then no 0x0501
    else if (jobOf s c.job).st ≠ .active then no 0x0301
    else match (jobOf s c.job).allocs.find? (fun a => a.base == c.p 0 8) with
      | none => no 0x0504
      | some a =>
        if streamUses s c.job a.base (a.bytes s) then no 0x0303
        else finishCmd (modJob (zeroPages s (a.keys s)) c.job (fun j => { j with allocs := j.allocs.filter (fun x => x != a) })) q seq 0 0 0)

/-- ALLOC_KETTLES: the lowest run of free kettles of a die, each given to the job with value 0 (R349, R444). -/
def execAllocKettles (q seq : Nat) (s : State) : Host.Outcome State Fault Refusal :=
  hostRow s q seq 0x0209 (fun c =>
    let no (status : Nat) : State := finishCmd s q seq status 0 0
    let die := c.p 0 1
    let n := c.p 2 2
    if !isDie die ∨ c.p 1 1 ≠ 0 ∨ n = 0 ∨ 8192 < n then no 0x0102
    else if !allocAdmits s q c then no 0x0501
    else if (jobOf s c.job).st ≠ .active then no 0x0301
    else if (dieOf s die).fenced then no 0x0304
    else match findRun (fun k => ((ktOf s die).kettle k).owner.isNone) n (kettleCount die) 0 0 with
      | none => no 0x0203
      | some k0 =>
        let u := ktOf s die
        finishCmd (setKt s die { u with kettles := (upTo n).foldl (fun t k => Tab.set (k0 + k) { kettleInitial with owner := some c.job } t) u.kettles }) q seq 0 0 k0)

/-- FREE_KETTLES: kettles without registered waiters are reset to 0 and freed (R370, R444). -/
def execFreeKettles (q seq : Nat) (s : State) : Host.Outcome State Fault Refusal :=
  hostRow s q seq 0x020A (fun c =>
    let no (status : Nat) : State := finishCmd s q seq status 0 0
    let die := c.p 0 1
    let first := c.p 2 2
    let n := c.p 4 2
    if !isDie die ∨ c.p 1 1 ≠ 0 ∨ n = 0 ∨ kettleCount die < first + n then no 0x0102
    else if !allocAdmits s q c then no 0x0501
    else if (jobOf s c.job).st ≠ .active then no 0x0301
    else
      let u := ktOf s die
      if !(upTo n).all (fun k => decide ((u.kettle (first + k)).owner = some c.job)) then no 0x0504
      else if u.waiters.any (fun w => decide (first ≤ w.kettle) && decide (w.kettle < first + n)) then no 0x0303
      else finishCmd (setKt s die { u with kettles := u.kettles.filter (fun e => !(decide (first ≤ e.1) && decide (e.1 < first + n))) }) q seq 0 0 0)

/-- A job's near and far pages owned (R472). -/
def jobPages (s : State) (j : Nat) : Nat × Nat :=
  let own := List.filter (fun (e : Nat × Page) => decide (e.2.st = .owned j)) s.pages
  ((own.filter (fun e => decide (e.1 < 2 ^ 22))).length, (own.filter (fun e => decide (2 ^ 22 ≤ e.1))).length)

/-- State codes of a job (R437). -/
def JState.code : JState → Nat
  | .free => 0
  | .active => 1
  | .suspending => 2
  | .suspended => 3
  | .resuming => 4
  | .faulted => 5
  | .killing => 6
  | .captured => 7

/-- JOB_STATEj (R472). -/
def jobStateReg (s : State) (j : Nat) : Nat :=
  let x := jobOf s j
  x.lastFault % 65536 * 2 ^ 48 + (jobRegions s j).length * 2 ^ 32 + (if x.selfAlloc then 32 else 0) + (if x.capture then 16 else 0) + (if j = 0 then 1 else x.st.code)

/-- JOB_PAGESj (R472). -/
def jobPagesReg (s : State) (j : Nat) : Nat := (jobPages s j).2 * 2 ^ 32 + (jobPages s j).1

/-- A counter of a job as it reads (R472). -/
def jobCounterReg (s : State) (j off : Nat) : Nat := Tab.get 0 off (jobOf s j).counters

/-- The record of JOB_STATUS: JOB_STATEj, JOB_PAGESj, the eight counters, then the region numbers (R438). -/
def jobRecord (s : State) (j : Nat) : List Byte :=
  leBytes 8 (jobStateReg s j) ++ leBytes 8 (jobPagesReg s j) ++ (upTo 8).flatMap (fun k => leBytes 8 (jobCounterReg s j (0x10 + 8 * k))) ++ (jobRegions s j).flatMap (fun n => leBytes 2 n)

/-- JOB_STATUS (R438). -/
def execJobStatus (q seq : Nat) (s : State) : Host.Outcome State Fault Refusal :=
  hostRow s q seq 0x020B (fun c => writeCmdRecord s q c (c.p 0 8) (jobRecord s c.job) 0)

/-- Whether a range of report slots can be reached by a job: DRAM pages that it owns, or its host windows, slot by slot (R231, R496). -/
def slotsReach (s : State) (job a slots size : Nat) : Option Nat :=
  if a % 32 ≠ 0 ∨ addrMalformed a ∨ addrMalformed (a + slots * size - 1) ∨ spaceOf (a + slots * size - 1) ≠ spaceOf a ∨ !([0, 1, 2, 8].contains (spaceOf a)) then some 0x0103
  else if spaceOf a = 8 then (if (upTo slots).all (fun k => windowHolds s job (a + size * k) size true) then none else some 0x0503)
  else if rangeOwned s job a (slots * size) then none else some 0x0504

/-- The status that a kettle rank earns, none where it names a kettle (R324, R499). -/
def kettleRank (s : State) (job rank : Nat) : Option Nat :=
  rankStatus s job rank [portKettle]

/-- TIMED_CONFIG: the kettles and report slots of a running timed region; open runs of an earlier configuration are abandoned (R460, R462). -/
def execTimedConfig (q seq : Nat) (s : State) : Host.Outcome State Fault Refusal :=
  hostRow s q seq 0x0214 (fun c =>
    let no (status : Nat) : State := finishCmd s q seq status 0 0
    let n := c.p 0 2
    match Tab.find? n s.regions with
    | none => no 0x0504
    | some r =>
      if c.p 6 2 = 0 then no 0x0102
      else if r.job ≠ c.job then no 0x0504
      else if (jobOf s c.job).st ≠ .active ∨ r.st ≠ .running ∨ !bit ((r.sig.map Sig.mflags).getD 0) 0 then no 0x0301
      else match kettleRank s c.job (c.p 2 2), kettleRank s c.job (c.p 4 2), slotsReach s c.job (c.p 8 8) (c.p 6 2) 32 with
        | some e, _, _ => no e
        | _, some e, _ => no e
        | _, _, some e => no e
        | none, none, none =>
          let s := abandonRuns s n
          finishCmd (setRegion s n { r with timed := some { startKettle := c.p 2 2, doneKettle := c.p 4 2, slots := c.p 6 2, reportAddr := c.p 8 8, next := 1, runs := [] } }) q seq 0 0 0)

/-- A load of a job that a fault, kill or suspension ends unless it has reached its commit (R428). -/
def abortLoad (s : State) (j : Nat) : State := modLoad s (fun l => if l.job = j ∧ l.phase ≠ .parting then { l with aborted := true } else l)

/-- Whether a suspension or kill of a job waits: a commit or the release of a region is under way, or its mirror is writing its last record (R428, R553, R560). -/
def jobBusy (s : State) (j : Nat) : Bool :=
  let st := (jobOf s j).st
  ((st == .active || st == .faulted) && List.any s.regions (fun (e : Nat × Region) => e.2.job == j && e.2.st == .parted))
    || ((s.cfg.load.map (fun l => l.job == j && l.phase == .parting)).getD false)
    || ((s.pair.mirror.map (fun m => m.job == j)).getD false && s.link.up)

/-- The mirror of a job stopped before its suspension or kill (R553, R560). -/
def stopJobMirror (s : State) (j : Nat) : State := if (s.pair.mirror.map Mirror.job) = some j then stopMirror s else s

/-- Steps 1 to 6 of a suspension taken as far as they go; whether the job is SUSPENDED (R446). -/
def suspendStep (s : State) (j : Nat) : State × Bool :=
  let ns := jobRegions s j
  let s := ns.foldl (fun s n => match Tab.find? n s.regions with
    | some r => if r.st = .running then setRegion s n { r with wasRunning := true } else if r.st = .blank then setRegion s n { r with wasRunning := false } else s
    | none => s) s
  let p := partStep s ns true
  if p.2 then
    let s := ns.foldl (fun s n => match Tab.find? n s.regions with
      | some r =>
        if r.st = .suspended then s
        else
          let s := scanOut (abandonRuns s n) n
          let s := scrubRegion s n r
          (match Tab.find? n s.regions with
          | some r => setRegion s n { r with st := .suspended, startAt := none }
          | none => s)
      | none => s) p.1
    (setJobState s j .suspended, true)
  else p

/-- A suspension begun: a load that has not reached its commit ends, the job is SUSPENDING (R428, R446). -/
def beginSuspend (s : State) (j : Nat) (cmd : Option (Nat × Nat)) : State :=
  modJob (setJobState (abortLoad s j) j .suspending) j (fun x => { x with cmd := cmd })

/-- SUSPEND_JOB: the job becomes SUSPENDING, and a later step of the command takes steps 1 to 6 as far as they go (R446, R450). -/
def execSuspendJob (q seq : Nat) (s : State) : Host.Outcome State Fault Refusal :=
  hostRow s q seq 0x0203 (fun c =>
    let j := c.job
    let go (s : State) : State :=
      let p := suspendStep s j
      if p.2 then finishCmd (modJob p.1 j (fun x => { x with cmd := none })) q seq 0 0 0 else p.1
    if j = 0 then finishCmd s q seq 0x0102 0 0
    else if c.stage = .working then (if (jobOf s j).st = .suspending then go s else s)
    else if (jobOf s j).st ≠ .active then finishCmd s q seq 0x0301 0 0
    else
      let s := stopJobMirror s j
      if jobBusy s j then s else working (beginSuspend s j (some (q, seq))) q seq)

/-- Whether the units of a suspended region are still usable: every die with a scan area, and all that its signature uses (R449). -/
def regionUsable (s : State) (n : Nat) (r : Region) : Bool :=
  r.scanAreas.all (fun a => !(dieOf s a.1).fenced)
    && (match r.sig with
      | some g => loadUsable s [{ region := n, job := r.job, sig := g }]
      | none => true)

/-- The status that refuses a resumption, none where it is admitted (R449). -/
def resumeRefusal (s : State) (j : Nat) : Option Nat :=
  let rs := List.filter (fun (e : Nat × Region) => e.2.job == j && e.2.st == .suspended) s.regions
  if !rs.all (fun e => boundsFree s e.2.bounds) then some 0x0201
  else if !rs.all (fun e => regionUsable s e.1 e.2) then some 0x0304 else none

/-- A suspended region takes its sites again: its configuration is written without CMEM and KETTLE_INIT, its scan is read in, and its start is set 2 µs ahead (R449, R450). -/
def resumeRegion (s : State) (n : Nat) : State :=
  match Tab.find? n s.regions with
  | none => s
  | some r =>
    match r.scan with
    | none => setRegion s n { r with st := .parted, startAt := some (s.now + 2000) }
    | some sc =>
      let s := setRegion s n { r with st := .parted, startAt := none }
      if !scanReadable s n r || !sc.complete then
        raiseContained s 0x0222 r.job ((r.scanAreas.head?.map (·.1)).getD 0x7F) 2 0 0
      else
        let s := match r.sig with
          | some g =>
            let s := if bit g.mflags 1 then { s with seqs := Tab.set g.seqDie { seqUnitInitial with region := n } s.seqs } else s
            let s := (regionSites s r).foldl (fun s k => writeSite s g k.1 k.2) s
            (regionSites s r).foldl (fun s k => creditSite s (siteKey k.1 k.2)) s
          | none => s
        let s := scanIn s sc
        setRegion s n { r with st := .parted, startAt := some (s.now + 2000) }

/-- A resumption begun (R449). -/
def beginResume (s : State) (j : Nat) (cmd : Option (Nat × Nat)) : State :=
  let ns := (jobRegions s j).filter (fun n => ((Tab.find? n s.regions).map Region.st) == some .suspended)
  let s := modJob (setJobState s j .resuming) j (fun x => { x with cmd := cmd })
  ns.foldl resumeRegion s

/-- Whether every region of a resuming job has started. -/
def resumed (s : State) (j : Nat) : Bool :=
  (jobRegions s j).all (fun n => match Tab.find? n s.regions with
    | some r => r.startAt.isNone && r.st != .parted && r.st != .suspended
    | none => true)

/-- RESUME_JOB (R449). -/
def execResumeJob (q seq : Nat) (s : State) : Host.Outcome State Fault Refusal :=
  hostRow s q seq 0x0204 (fun c =>
    let j := c.job
    if j = 0 then finishCmd s q seq 0x0102 0 0
    else if c.stage = .working then
      (if (jobOf s j).st = .resuming ∧ resumed s j then
        finishCmd (modJob (setJobState s j .active) j (fun x => { x with cmd := none })) q seq 0 0 0
      else s)
    else if (jobOf s j).st ≠ .suspended then finishCmd s q seq 0x0301 0 0
    else match resumeRefusal s j with
      | some e => finishCmd s q seq e 0 0
      | none => beginResume (working s q seq) j (some (q, seq)))

/-- The commands of a job's own queue answered with a status, but for JOB_STATUS under a fault and for the load in progress (R440, R451). -/
def answerQueue (s : State) (j status detail : Nat) (keepStatus : Bool) : State :=
  let load (c : HCmd) : Bool := match s.cfg.load with
    | some l => l.q == j && l.cseq == c.seq
    | none => false
  let cs := (qOf s j).cmds.filter (fun c => c.reply.isNone && !(keepStatus && c.opcode == 0x020B) && !load c)
  cs.foldl (fun s c => if isConfigOp c.opcode then finishConfig s j c.seq status detail 0 else finishCmd s j c.seq status detail 0) s

/-- The lifecycle command of a job in progress answered (R438, R450). -/
def endLifeCmd (s : State) (j status detail : Nat) : State :=
  match (jobOf s j).cmd with
  | some (q, seq) => modJob (finishCmd s q seq status detail 0) j (fun x => { x with cmd := none })
  | none => s

/-- A checkpoint that a fault of its job or a fence ends: it is answered, and a STOP record follows what was written (R562). -/
def endCheckpoint (s : State) (j detail : Nat) : State :=
  match s.pair.run with
  | some r =>
    if (s.pair.mirror.map Mirror.job) = some j then stopMirror (finishCmd { s with pair := { s.pair with run := none } } r.q r.seq 0x0401 detail 0) else s
  | none => s

/-- A contained error's effect on its job: its waits are withdrawn, its regions parted, and it is FAULTED with a notice; a second fault changes nothing, and a SUSPENDED region keeps its state (R428, R440, R445, R450, R562; DEDUCED, log entry 117). -/
def jobFault (s : State) (j code : Nat) : State :=
  let st := (jobOf s j).st
  if j = 0 ∨ 63 < j ∨ st = .free ∨ st = .killing ∨ st = .captured ∨ st = .faulted then s
  else
    let s := modJob s j (fun x => { x with lastFault := if x.lastFault = 0 then code else x.lastFault, graceDue := false })
    let commit := (s.cfg.load.map (fun l => l.job == j && l.phase == .parting)).getD false
    let s := endCheckpoint (abortLoad s j) j code
    let s := endLifeCmd (setJobState s j .faulted) j 0x0401 code
    let s := answerQueue s j 0x0401 code true
    let s := withdrawWaits s (fun _ job => job == j)
    let works := (jobRegions s j).filterMap (fun n => (Tab.find? n s.regions).bind (fun r => if r.st = .running || r.st = .parted && !commit then some (n, r) else none))
    let s := works.foldl (fun s r => if r.2.st = .running then partRegion s r.1 else s) s
    let s := endNumeric s j (works.flatMap (fun r => regionSites s r.2))
    let s := (jobRegions s j).foldl (fun s n => match Tab.find? n s.regions with
      | some r =>
        if r.st = .suspended ∨ (r.st = .parted ∧ commit) then s
        else setRegion s n { r with st := .faulted, startAt := none }
      | none => s) s
    postNotice s j 0x0401 code

/-- A section of a capture: its header and its body made a multiple of 32 bytes (R456). -/
def capSection (styp die site : Nat) (body : List Byte) : List Byte :=
  let n := (body.length + 31) / 32 * 32
  leBytes 1 styp ++ leBytes 1 die ++ leBytes 2 site ++ leBytes 4 0 ++ leBytes 8 n ++ leBytes 16 0 ++ padTo n body

/-- A kettle's 64 bytes in a capture (R456). -/
def capKettle (s : State) (die k : Nat) : List Byte :=
  let u := ktOf s die
  let kt := u.kettle k
  let ws := kettleWaiters u k
  leBytes 8 k ++ leBytes 8 (kettleStateReg u k) ++ leBytes 8 kt.lastTime ++ leBytes 8 (kettleLastReg kt)
    ++ leBytes 8 (ws.filter (fun w => !w.observe)).length ++ leBytes 8 (ws.filter (fun w => w.observe)).length ++ leBytes 16 0

/-- The kettles of a job on a die, ascending. -/
def jobKettles (s : State) (j die : Nat) : List Nat := (List.filter (fun (e : Nat × Kettle) => e.2.owner == some j) (ktOf s die).kettles).map (·.1)

/-- The dies of the package, hubs last. -/
def allDies : List Nat := upTo 100

/-- The kettle sections of a capture (R451 step 2, R456). -/
def capKettles (s : State) (j : Nat) : List (List Byte) :=
  allDies.filterMap (fun d => match jobKettles s j d with
    | [] => none
    | ks => some (capSection 3 d blockSite (ks.flatMap (capKettle s d))))

/-- Offsets from a to b in steps of 8. -/
def offsets (a b : Nat) : List Nat := (upTo ((b - a) / 8 + 1)).map (fun k => a + 8 * k)

/-- The registers of a site's window by its kind, the router's and the bulk data apart (R130, R169, R170, R209, R241, R276, R311, R312, R455). -/
def siteOffsets (k : Option SiteKind) : List Nat :=
  (match k with
  | some .mTile => offsets 0 0x70
  | some .vTile => offsets 0 0x20 ++ offsets 0x40 0xA0
  | some .fTile => offsets 0 0x20
  | some .sTile => offsets 0 0x40 ++ offsets 0x80 0x1A8
  | some .dpTile => offsets 0 0x40 ++ offsets 0x80 0x1A8 ++ offsets 0x200 0x210 ++ offsets 0x300 0x360
  | some .xTile => offsets 0x300 0x360
  | _ => []) ++ offsets 0x40000 0x40020 ++ offsets 0x40100 0x401F8 ++ offsets 0x40200 0x40248 ++ offsets 0x40300 0x40398 ++ offsets 0x41000 0x41CF8
  ++ (if k = some .xTile then offsets 0x43000 0x43010 ++ offsets 0x43400 0x435F0 ++ offsets 0x43600 0x437F0 else [])

/-- A weight store and accumulator buffer as bytes, whose layout the spec does not give (R455, R456; log entry 80). -/
opaque Config.weightBytes : MTile → List Byte

/-- The data of a site in a capture: slots and tags, weights and accumulators, or T (R455, R456). -/
def siteData (s : State) (die site : Nat) : List Byte :=
  match siteKind site with
  | some .mTile => Config.weightBytes (mtOf s die site)
  | some .vTile => (offsets 0x1000 0x1FF8).flatMap (fun o => leBytes 8 (winReg s die site o))
  | some .fTile => []
  | some .xTile => []
  | some .cluster => []
  | some _ => memGetList s.mem (spAddr die (spOrdinal site) 0) (2 ^ 21) ++ (offsets 0x10000 0x17FF8).flatMap (fun o => leBytes 8 (winReg s die site o))
  | none => []

/-- The sections of a region on a die, each with its site (R455, R456). -/
def capRegion (s : State) (n : Nat) (r : Region) (data : Bool) (die : Nat) : List (Nat × List Byte) :=
  let sec (styp site : Nat) (body : List Byte) : Nat × List Byte := (site, capSection styp die site body)
  if r.st = .suspended then
    (if r.scanAreas.any (fun a => a.1 == die) then [sec 6 blockSite (scanHeader s n r die)] else [])
  else
    ((regionSites s r).filter (fun k => k.1 == die)).flatMap (fun k =>
      [sec 1 k.2 ((siteOffsets (siteKind k.2)).flatMap (fun o => leBytes 8 o ++ leBytes 8 (winReg s die k.2 o)))]
        ++ (if data && !(siteData s die k.2).isEmpty then [sec 2 k.2 (siteData s die k.2)] else []))
    ++ (match (regionCores r).filter (fun c => c.1 == die) with
      | [] => []
      | cs => [sec 4 blockSite (cs.flatMap (fun c => (upTo 4).flatMap (fun k => leBytes 8 (winReg s die blockSite (0x8000 + 0x20 * c.2 + 8 * k)))))])
    ++ (if data then ((regionWindows r).filter (fun w => w.1 == die)).map (fun w => sec 5 blockSite (memGetList s.mem (clusterAddr die w.2.1) w.2.2)) else [])

/-- Whole sections while they fit in a size, and whether any was left out (R456). -/
def fitSections : Nat → List (List Byte) → List (List Byte) × Bool
  | _, [] => ([], false)
  | room, x :: xs =>
    if room < x.length then ([], true)
    else
      let r := fitSections (room - x.length) xs
      (x :: r.1, r.2)

/-- The sections of a die, by their sites, those of one site in the order taken (R456). -/
def capDie (s : State) (rs : Tab Region) (data : Bool) (die : Nat) : List (List Byte) :=
  let secs := rs.flatMap (fun e => capRegion s e.1 e.2 data die)
  (upTo 1024).flatMap (fun k => (secs.filter (fun x => x.1 == k)).map (·.2))

/-- A capture: the header, and the sections of kettles, then by die and site (R455, R456). -/
def captureOf (s : State) (j : Nat) : List Byte :=
  let x := jobOf s j
  let rs := List.filter (fun (e : Nat × Region) => e.2.job == j) s.regions
  let all := chunks (max 1 x.captureData.length) 1 x.captureData ++ (upTo 96).flatMap (capDie s rs x.capData)
  let f := fitSections (x.captureSize - 64) all
  let body := f.1.flatten
  leBytes 4 0x54504143 ++ leBytes 1 j ++ leBytes 1 ((if x.capData then 1 else 0) + (if f.2 then 2 else 0) + (if x.wasFaulted then 4 else 0)) ++ leBytes 2 x.lastFault
    ++ leBytes 8 x.killedAt ++ leBytes 8 (64 + body.length) ++ leBytes 4 f.1.length ++ leBytes 36 0 ++ body

/-- Steps 6 to 9 of a kill: regions scrubbed and freed, kettles and pages given up, the job FREE or CAPTURED (R370, R451 to R453, R457). -/
def finishKill (s : State) (j : Nat) : State :=
  let x := jobOf s j
  let ns := jobRegions s j
  let areas := List.flatMap (fun (e : Nat × Region) => if e.2.job = j then e.2.scanAreas else []) s.regions
  let keys := x.allocs.flatMap (Alloc.keys s)
  let scans := areas.flatMap (fun a => nearKeys a.1 a.2.1 a.2.2)
  let s := ns.foldl (fun s n => nextEpoch (dropRegion s n)) s
  let s := { s with kettles := s.kettles.map (fun e => (e.1, { e.2 with kettles := e.2.kettles.filter (fun k => k.2.owner != some j), waiters := e.2.waiters.filter (fun w => w.job != j) })) }
  let s := zeroPages s keys
  let s := if s.pair.committed.any (fun c => c.1 == j) then { s with pair := { s.pair with committed := none } } else s
  if x.capture then
    modJob s j (fun x => { x with st := .captured, rankTable := [], allocs := areas.map (fun a => { base := nearAddr a.1 (a.2.1 * 2 ^ 21), space := 0, die := a.1, pages := a.2.2 }), cmd := none })
  else modJob (zeroPages s scans) j (fun _ => jobInitial)

/-- KILL_JOB: steps 1 to 3 at its start, then parting until the regions are quiet, the capture, the scrub and the release (R450, R451). -/
def execKillJob (q seq : Nat) (s : State) : Host.Outcome State Fault Refusal :=
  hostRow s q seq 0x0202 (fun c =>
    let j := c.job
    let st := (jobOf s j).st
    let go (s : State) : State :=
      let scope (_ : Ep) (job : Nat) : Bool := job == j
      let s := withdrawWaits s scope
      let p := partStep s (jobRegions s j) false
      if p.2 && !releasesDue p.1 scope then
        let s := if (jobOf p.1 j).capture then modJob p.1 j (fun x => { x with captureData := captureOf p.1 j }) else p.1
        finishCmd (finishKill s j) q seq 0 0 0
      else p.1
    if j = 0 then finishCmd s q seq 0x0102 0 0
    else if c.stage = .working then (if st = .killing then go s else s)
    else if st = .free ∨ st = .killing ∨ st = .captured then finishCmd s q seq 0x0301 0 0
    else
      let s := stopJobMirror s j
      if jobBusy s j then s
      else
        let s := ((qOf s 64).cmds.filter (fun e => e.lifeInProgress && overtakes c e)).foldl (fun s e => finishCmd s 64 e.seq 0x0302 0 0) (endLifeCmd (abortLoad s j) j 0x0302 0)
        let s := answerQueue s j 0x0302 0 false
        let s := setJobState s j .killing
        let s := modJob s j (fun x => { x with
          killedAt := s.now, wasFaulted := st == .faulted, cmd := some (q, seq), graceDue := false, captureData := if x.capture then (capKettles s j).flatten else [] })
        go (working s q seq))

/-- A captured job freed, its capture's pages entering zeroing (R453, R457). -/
def freeCaptured (s : State) (j : Nat) : State := modJob (zeroPages s ((jobOf s j).allocs.flatMap (Alloc.keys s))) j (fun _ => jobInitial)

/-- CAPTURE_DELIVERY: the capture is copied to the capture buffer, its header last, while the link is up (R457). -/
def execCaptureDelivery (job : Nat) (s : State) : Host.Outcome State Fault Refusal :=
  .next (
    let x := jobOf s job
    let busy := s.host.writes.any (fun w => match w.use with
      | .capture k _ => k == job
      | _ => false)
    if x.st ≠ .captured ∨ !s.link.up ∨ busy then s
    else if x.captureData.length ≤ 64 then hostWrite s x.captureAddr x.captureData (.capture job true)
    else hostWrite s (x.captureAddr + 64) (x.captureData.drop 64) (.capture job false))

/-- A part of a capture is visible: the header follows the rest, and after it the notice is posted and the job is FREE (R457). -/
def captureGo (s : State) (job : Nat) (last err : Bool) : State :=
  let x := jobOf s job
  if x.st ≠ .captured ∨ err then s
  else if !last then hostWrite s x.captureAddr (x.captureData.take 64) (.capture job true)
  else postNotice (freeCaptured s job) job 0x030C 0

/-- CAPTURE_DISCARD: the capture is zeroed without delivery and the job is FREE (R457). -/
def execCaptureDiscard (q seq : Nat) (s : State) : Host.Outcome State Fault Refusal :=
  hostRow s q seq 0x020C (fun c =>
    if c.job = 0 then finishCmd s q seq 0x0102 0 0
    else if (jobOf s c.job).st ≠ .captured then finishCmd s q seq 0x0301 0 0
    else finishCmd (freeCaptured s c.job) q seq 0 0 0)

/-- JOB_COUNTER_UPDATE: at the end of a period every job's counters are brought up to date (R472). -/
def execJobCounterUpdate (s : State) : Host.Outcome State Fault Refusal :=
  .next (
    let s := List.foldl (fun s (e : Nat × Region) =>
      if e.2.st = .suspended then s
      else sumRegion s e.2) s s.regions
    List.foldl (fun s (e : Nat × Job) =>
      if e.2.st = .active then modJob (jobCount s e.1 0x10 (s.now - e.2.activeFrom)) e.1 (fun x => { x with activeFrom := s.now }) else s) s s.jobs)

end Sys2Proof.Machine
end

