-- ==== Sys2Proof/Machine/Serving.lean ====
section
/-! DEFINITION. Serving regions: the sequence-table unit, its instructions, work lists and model slots (R398, R463 to R471). -/

namespace Sys2Proof.Machine

/-- The sequence-table unit of a die. -/
def seqOf (s : State) (die : Nat) : SeqUnit := Tab.get seqUnitInitial die s.seqs

/-- A changed sequence-table unit. -/
def setSeq (s : State) (die : Nat) (u : SeqUnit) : State := { s with seqs := Tab.set die u s.seqs }

/-- The unit's endpoint: the SEQ port of the die block (R319, R465). -/
def seqEp (die : Nat) : Ep := { die := die, site := blockSite, port := portSeq, index := 0 }

/-- A field of SERVING_CONFIG's block, 0 when none stands (R463). -/
def SeqUnit.c (u : SeqUnit) (off size : Nat) : Nat := fld ((u.cfg.map BitVec.toNat).getD 0) off size

/-- The job and MODE flags of the region that a unit serves. -/
def servedBy (s : State) (u : SeqUnit) : Nat × Nat :=
  match Tab.find? u.region s.regions with
  | some r => (r.job, (r.sig.map Sig.mflags).getD 0)
  | none => (0, 0)

/-- Whether the region that a unit serves runs. -/
def servedRuns (s : State) (u : SeqUnit) : Bool :=
  match Tab.find? u.region s.regions with
  | some r => r.st == .running
  | none => false

/-- The serving region that a command names: the die of its unit, or the status that refuses the command. -/
def servingDie (s : State) (job n : Nat) : Sum Nat Nat :=
  match Tab.find? n s.regions with
  | none => .inl 0x0504
  | some r =>
    if r.job ≠ job then .inl 0x0504
    else match r.sig with
      | some g => if (jobOf s job).st ≠ .active ∨ r.st ≠ .running ∨ !bit g.mflags 1 ∨ (seqOf s g.seqDie).region ≠ n then .inl 0x0301 else .inr g.seqDie
      | none => .inl 0x0301

/-- The DP S-tile that FETCH_ENGINE names, if it is one of the region (R463). -/
def fetchSite (s : State) (job n rank : Nat) : Option (Nat × Nat) :=
  match rankEp s job rank with
  | some e =>
    if e.port = portStream ∧ e.site ≠ blockSite ∧ siteKind e.site = some .dpTile
        ∧ ((Tab.find? n s.regions).map (fun r => r.bounds.holds e.die e.site)).getD false then some (e.die, e.site) else none
  | none => none

/-- Whether a fetch window lies in one TAGGED range with READERS 1 (R463). -/
def fetchWindowOk (s : State) (die site base slots : Nat) : Bool :=
  (Tab.get sTileInitial (siteKey die site) s.sTiles).ranges.any (fun r => r.kind == 1 && r.readers == 1 && decide (r.base ≤ base) && decide (base + slots ≤ r.base + r.count))

/-- Whether a request that the unit sent is still in its NI. -/
def seqSending (s : State) (die : Nat) : Bool := (niOf s die blockSite).out.any (fun o => o.msg.src == seqEp die)

/-- The unit sends its wait on BUILD_KETTLE (R465). -/
def sendBuildWait (s : State) (die : Nat) : State :=
  let u := seqOf s die
  sendKettle (setSeq s die { u with waiting := true, released := false }) (seqEp die) 0 (servedBy s u).1 (u.c 2 2) 2 false 1

/-- SERVING_CONFIG: a configuration replaces the one before and the unit waits for its first build; the command waits while a fetch or a request of the unit is in progress (R463; DEDUCED, log entry 44). -/
def execServingConfig (q seq : Nat) (s : State) : Host.Outcome State Fault Refusal :=
  hostRow s q seq 0x0210 (fun c =>
    let no (status : Nat) : State := finishCmd s q seq status 0 0
    let j := c.job
    let area := c.p 16 8
    let size := c.p 24 8
    if c.p 6 2 = 0 ∨ 4096 < c.p 6 2 ∨ c.p 8 4 = 0 ∨ 2 ^ 24 < c.p 8 4 ∨ size = 0 ∨ size % 2 ^ 21 ≠ 0 ∨ c.p 32 1 = 0 ∨ 32 < c.p 32 1 ∨ c.p 33 1 ≠ 0
        ∨ c.p 34 2 = 0 ∨ c.p 44 4 < 32 ∨ 65536 < c.p 44 4 ∨ c.p 48 16 ≠ 0 then no 0x0102
    else match servingDie s j (c.p 0 2) with
      | .inl e => no e
      | .inr die =>
        let u := seqOf s die
        if bit (servedBy s u).2 2 ∧ c.p 32 1 ≠ 1 then no 0x0102
        else if c.p 12 4 % 32 ≠ 0 ∨ !inWindow (jobWindows s die 0xFFFF j) (c.p 12 4) (64 * (c.p 6 2 + 1)) 2 ∨ area % 2 ^ 21 ≠ 0 ∨ addrMalformed area ∨ !([0, 1].contains (spaceOf area)) then no 0x0103
        else if !rangeOwned s j area (c.p 32 1 * size) then no 0x0504
        else match kettleRank s j (c.p 2 2), kettleRank s j (c.p 4 2), kettleRank s j (c.p 36 2), fetchSite s j (c.p 0 2) (c.p 38 2) with
          | some e, _, _, _ => no e
          | _, some e, _, _ => no e
          | _, _, some e, _ => no e
          | _, _, _, none => no (if (rankEp s j (c.p 38 2)).isNone then 0x0502 else 0x0106)
          | none, none, none, some x =>
            if !fetchWindowOk s x.1 x.2 (c.p 40 4) (c.p 44 4) then no 0x0102
            else if !u.table.isEmpty then no 0x0301
            else if u.fetch.isSome ∨ seqSending s die then s
            else
              let s := withdrawWaits s (fun e _ => e == seqEp die)
              let s := setSeq s die { u with cfg := some (BitVec.ofNat 512 c.blob), step := 1, retired := [], slots := [], waiting := false, released := false, pinFetch := [] }
              finishCmd (sendBuildWait s die) q seq 0 0 0)

/-- The slot of a model that is FETCHING or RESIDENT (R469). -/
def SeqUnit.slotOf (u : SeqUnit) (handle : Nat) : Option Nat :=
  (List.find? (fun (e : Nat × ModelSlot) => e.2.st == .resident handle || e.2.st == .fetching handle) u.slots).map (·.1)

/-- Whether a model is RESIDENT (R469). -/
def SeqUnit.resident (u : SeqUnit) (handle : Nat) : Bool := List.any u.slots (fun (e : Nat × ModelSlot) => e.2.st == .resident handle)

/-- A model slot, EMPTY when unlisted. -/
def SeqUnit.slot (u : SeqUnit) (m : Nat) : ModelSlot := Tab.get { st := .empty, lastUse := 0 } m u.slots

/-- Whether a slot is RESIDENT, unpinned and last used by step s − 2 or earlier (R469). -/
def SeqUnit.evictable (u : SeqUnit) (step m : Nat) : Bool :=
  match (u.slot m).st with
  | .resident h => !((Tab.find? h u.models).map Model.pin).getD false && decide ((u.slot m).lastUse + 2 ≤ step)
  | _ => false

/-- The target slot of a fetch that step s starts: the lowest EMPTY one, else the evictable one of the smallest last use (R469). -/
def SeqUnit.target (u : SeqUnit) (step : Nat) : Option Nat :=
  match (upTo (u.c 32 1)).find? (fun m => (u.slot m).st == .empty) with
  | some m => some m
  | none =>
    ((upTo (u.c 32 1)).filter (u.evictable step)).foldl (fun best m =>
      match best with
      | some b => if (u.slot m).lastUse < (u.slot b).lastUse then some m else best
      | none => some m) none

/-- A descriptor of a model fetch: a LOAD or a STORE of the window under COUNTED tags, over consecutive words (R248, R469; PREFETCH is a DESIGN CHOICE of log entry 44). -/
def fetchDesc (u : SeqUnit) (kind base words : Nat) : BitVec 1280 :=
  let put (n : Nat) (e : Nat × Nat × Nat) : Nat := setFld n e.1 e.2.1 e.2.2
  BitVec.ofNat 1280 (List.foldl put 0
    ([(0, 1, kind), (8, 2, u.c 34 2), (10, 1, 0xFF), (12, 4, u.c 40 4), (16, 4, u.c 44 4), (20, 2, 32), (24, 4, 1), (32, 8, base), (64, 8, 32), (76, 4, words)]
      ++ (upTo 5).map (fun k => (92 + 16 * k, 4, 1))))

/-- A fetch of a model started at a step, when none runs, a slot qualifies and both descriptors are taken (R469). -/
def startFetch (s : State) (die step handle : Nat) : State :=
  let u := seqOf s die
  let job := (servedBy s u).1
  match u.fetch, Tab.find? handle u.models, u.target step, fetchSite s job u.region (u.c 38 2) with
  | none, some m, some slot, some x =>
    let words := m.bytes / 32
    if 14 < (enOf s x.1 x.2).queue.length then s
    else match enqueueStream s x.1 x.2 job (some (configEp 0x60, 0)) (niOf s 0x60 blockSite).issued (fetchDesc u 1 m.source words) with
      | (s1, 0) =>
        match enqueueStream s1 x.1 x.2 job (some (configEp 0x60, 0)) (niOf s 0x60 blockSite).issued (fetchDesc u 2 (u.c 16 8 + slot * u.c 24 8) words) with
        | (s2, 0) =>
          setSeq s2 die { u with
            fetch := some { handle := handle, slot := slot, step := step }
            slots := Tab.set slot { st := .fetching handle, lastUse := (u.slot slot).lastUse } u.slots
            pinFetch := u.pinFetch.filter (fun h => h != handle) }
        | _ => s
      | _ => s
  | _, _, _, _ => s

/-- MODEL_REGISTER: an image is registered under a handle; in single-model mode it is fetched at once and pinned (R468, R471). -/
def execModelRegister (q seq : Nat) (s : State) : Host.Outcome State Fault Refusal :=
  hostRow s q seq 0x0211 (fun c =>
    let no (status : Nat) : State := finishCmd s q seq status 0 0
    let h := c.p 2 1
    let src := c.p 8 8
    let n := c.p 16 8
    if 1 < c.p 3 1 ∨ c.p 4 4 ≠ 0 ∨ n < 32 ∨ n % 32 ≠ 0 then no 0x0102
    else match servingDie s c.job (c.p 0 2) with
      | .inl e => no e
      | .inr die =>
        let u := seqOf s die
        let single := bit (servedBy s u).2 2
        if u.cfg.isNone then no 0x0301
        else if single ≠ decide (h = 0) ∨ u.c 24 8 < n then no 0x0102
        else if src % 32 ≠ 0 ∨ addrMalformed src ∨ addrMalformed (src + n - 1) ∨ spaceOf (src + n - 1) ≠ spaceOf src ∨ !([0, 1, 2, 8].contains (spaceOf src)) then no 0x0103
        else if spaceOf src = 8 ∧ !windowHolds s c.job src n false then no 0x0503
        else if spaceOf src ≠ 8 ∧ !rangeOwned s c.job src n then no 0x0504
        else if (Tab.find? h u.models).isSome then no 0x0303
        else
          let pin := single || bit (c.p 3 1) 0
          let s := setSeq s die { u with models := Tab.set h { source := src, bytes := n, pin := pin } u.models, pinFetch := if pin then u.pinFetch ++ [h] else u.pinFetch }
          finishCmd (if single then startFetch s die u.step h else s) q seq 0 0 0)

/-- The model handle of a table entry (R464). -/
def entryModel (e : BitVec 512) : Nat := fld e.toNat 2 1

/-- MODEL_UNREGISTER: a handle that no active sequence names leaves the registry and its slot empties; the command waits while the handle is being fetched (R468; DEDUCED, log entry 44). -/
def execModelUnregister (q seq : Nat) (s : State) : Host.Outcome State Fault Refusal :=
  hostRow s q seq 0x0212 (fun c =>
    let no (status : Nat) : State := finishCmd s q seq status 0 0
    let h := c.p 2 1
    match servingDie s c.job (c.p 0 2) with
    | .inl e => no e
    | .inr die =>
      let u := seqOf s die
      if (Tab.find? h u.models).isNone then no 0x0301
      else if List.any u.table (fun (e : Nat × BitVec 512) => entryModel e.2 == h) then no 0x0303
      else if u.fetch.map Fetch.handle = some h then s
      else
        let u := { u with models := Tab.erase h u.models, pinFetch := u.pinFetch.filter (fun k => k != h), slots := List.filter (fun (e : Nat × ModelSlot) => e.2.st != .resident h) u.slots }
        finishCmd (setSeq s die u) q seq 0 0 0)

/-- MODEL_PIN: a handle is pinned or made evictable; a pinned model that is not resident is fetched at the next build (R470). -/
def execModelPin (q seq : Nat) (s : State) : Host.Outcome State Fault Refusal :=
  hostRow s q seq 0x0213 (fun c =>
    let no (status : Nat) : State := finishCmd s q seq status 0 0
    let h := c.p 2 1
    let pin := bit (c.p 3 1) 0
    if 1 < c.p 3 1 then no 0x0102
    else match servingDie s c.job (c.p 0 2) with
      | .inl e => no e
      | .inr die =>
        let u := seqOf s die
        match Tab.find? h u.models with
        | none => no 0x0301
        | some m =>
          let rest := u.pinFetch.filter (fun k => k != h)
          let keep := bit (servedBy s u).2 2
          let u := { u with models := Tab.set h { m with pin := pin || keep } u.models, pinFetch := if pin && !(u.slotOf h).isSome then rest ++ [h] else rest }
          finishCmd (setSeq s die u) q seq 0 0 0)

/-- Whether an entry image's software fields lie in their ranges and its MODEL is registered (R464). -/
def imageOk (u : SeqUnit) (e : Nat) : Bool :=
  fld e 1 1 / 32 == 0 && fld e 3 1 == 0 && decide (1 ≤ fld e 4 4) && decide (fld e 4 4 ≤ 2 ^ 24) && decide (fld e 12 4 ≤ 2 ^ 20)
    && fld e 16 8 % 32 == 0 && !addrMalformed (fld e 16 8) && [0, 1].contains (spaceOf (fld e 16 8)) && (Tab.find? (fld e 2 1) u.models).isSome

/-- The unit that a core's instruction uses, if the core is of the served region's job and cluster (R398). -/
def coreSeq (s : State) (die core : Nat) : Option SeqUnit :=
  let u := seqOf s die
  if u.region = 0 ∨ u.cfg.isNone ∨ (coreJob s die core ≠ (servedBy s u).1 ∧ !(coreOf s die core).mmode) then none else some u

/-- An entry's software bytes taken from an image, under hardware bytes (R464). -/
def entryWith (hardware image : Nat) : BitVec 512 := BitVec.ofNat 512 (hardware / 2 ^ 256 * 2 ^ 256 + setFld (image % 2 ^ 256) 0 1 1)

/-- XSQADD: the sequence of an image takes the lowest FREE index that the latest list does not name (R398, R464). -/
def execXsqadd (die core : Nat) (s : State) : Host.Outcome State Fault Refusal :=
  xenhRow die core 256 s (fun s' rd v1 _ =>
    match xenhRead s' die core v1.toNat 1 32 with
    | (s', .inl x) => coreException s' die core x.1 x.2
    | (s', .inr ws) =>
      let image := (ws.headD 0).toNat
      let no (status : Nat) : State := xenhDone s' die core rd (x64 (2 ^ 63 + status))
      match coreSeq s' die core with
      | none => no 0x0301
      | some u =>
        if !imageOk u image then no 0x0102
        else match (upTo 16384).find? (fun k => (Tab.find? k u.table).isNone && !u.retired.contains k) with
          | none => no 0x0208
          | some k => xenhDone (setSeq s' die { u with table := Tab.set k (entryWith (setFld 0 32 8 u.step) image) u.table }) die core rd (x64 k))

/-- XSQRET: the active sequence at an index is retired (R398, R464). -/
def execXsqret (die core : Nat) (s : State) : Host.Outcome State Fault Refusal :=
  xenhRow die core 257 s (fun s' rd v1 _ =>
    match coreSeq s' die core with
    | none => xenhRefuse s' die core rd 0x0301 true
    | some u =>
      if (Tab.find? v1.toNat u.table).isNone then xenhRefuse s' die core rd 0x0301 true
      else xenhDone (setSeq s' die { u with table := Tab.erase v1.toNat u.table, retired := u.retired ++ [v1.toNat] }) die core rd 0)

/-- XSQUPD: an active sequence's software fields are replaced from an image (R398, R464). -/
def execXsqupd (die core : Nat) (s : State) : Host.Outcome State Fault Refusal :=
  xenhRow die core 258 s (fun s' rd v1 v2 =>
    match xenhRead s' die core v2.toNat 1 32 with
    | (s', .inl x) => coreException s' die core x.1 x.2
    | (s', .inr ws) =>
      let image := (ws.headD 0).toNat
      match coreSeq s' die core with
      | none => xenhRefuse s' die core rd 0x0301 true
      | some u =>
        match Tab.find? v1.toNat u.table with
        | none => xenhRefuse s' die core rd 0x0301 true
        | some old =>
          if !imageOk u image then xenhRefuse s' die core rd 0x0102 true
          else xenhDone (setSeq s' die { u with table := Tab.set v1.toNat (entryWith old.toNat image) u.table }) die core rd 0)

/-- XSQREAD: an active sequence's 64-byte entry is copied to cluster memory (R398, R464). -/
def execXsqread (die core : Nat) (s : State) : Host.Outcome State Fault Refusal :=
  xenhRow die core 259 s (fun s' rd v1 v2 =>
    match xenhOperand s' die core v2.toNat 64 32 2 with
    | some x => coreException s' die core x.1 x.2
    | none =>
      match (coreSeq s' die core).bind (fun u => Tab.find? v1.toNat u.table) with
      | none => xenhRefuse s' die core rd 0x0301 true
      | some e =>
        let words := [BitVec.ofNat 256 e.toNat, BitVec.ofNat 256 (e.toNat / 2 ^ 256)]
        xenhDone (clusterPut s' die (some core) v2.toNat words) die core rd 0)

/-- Whether a sequence is ready but for its model's residency (R465). -/
def entryWants (e : BitVec 512) : Bool := bit (fld e.toNat 1 1) 0 && !bit (fld e.toNat 1 1) 2

/-- Whether a sequence comes before another in a build: PRIO down, LAST_STEP up, index up (R465). -/
def entryBefore (a b : Nat × BitVec 512) : Bool :=
  let prio (e : BitVec 512) : Nat := bits (fld e.toNat 1 1) 4 3
  let last (e : BitVec 512) : Nat := fld e.toNat 40 8
  if prio a.2 ≠ prio b.2 then decide (prio b.2 < prio a.2)
  else if last a.2 ≠ last b.2 then decide (last a.2 < last b.2)
  else decide (a.1 < b.1)

/-- A sequence placed in the order of a build. -/
def placeEntry (x : Nat × BitVec 512) : List (Nat × BitVec 512) → List (Nat × BitVec 512)
  | [] => [x]
  | y :: ys => if entryBefore x y then x :: y :: ys else y :: placeEntry x ys

/-- What a build has chosen: the entries listed, tokens, and the sequences passed over (R465, R466). -/
structure BuildSum where
  listed : List (Nat × BitVec 512)
  tokens : Nat
  overBudget : Nat
  overList : Nat
  deriving DecidableEq, Repr

/-- One ready sequence considered (R465). -/
def considerEntry (maxList budget : Nat) (b : BuildSum) (e : Nat × BitVec 512) : BuildSum :=
  let t := fld e.2.toNat 4 4
  if maxList ≤ b.listed.length then { b with overList := b.overList + 1 }
  else if budget < b.tokens + t then { b with overBudget := b.overBudget + 1 }
  else { b with listed := b.listed ++ [e], tokens := b.tokens + t }

/-- A listed sequence's entry after the build (R465). -/
def listedEntry (step : Nat) (e : BitVec 512) : BitVec 512 :=
  let n := e.toNat
  let flags := fld n 1 1
  let n := if bit flags 1 then setFld n 1 1 (setBits flags 0 0 0) else n
  BitVec.ofNat 512 (setFld (setFld n 40 8 step) 48 4 (satAdd (2 ^ 32 - 1) (fld n 48 4) 1))

/-- The header word of a list (R466). -/
def listHeader (step notResident : Nat) (b : BuildSum) : Word :=
  BitVec.ofNat 256 (step % 2 ^ 64 + 2 ^ 64 * b.listed.length + 2 ^ 80 * notResident + 2 ^ 96 * b.overBudget + 2 ^ 112 * b.overList + 2 ^ 128 * b.tokens)

/-- An entry word of a list (R466). -/
def listEntry (u : SeqUnit) (e : Nat × BitVec 512) : Word :=
  let n := e.2.toNat
  BitVec.ofNat 256 (e.1 + 2 ^ 16 * fld n 2 1 + 2 ^ 24 * (u.slotOf (fld n 2 1)).getD 0 + 2 ^ 32 * fld n 4 4 + 2 ^ 64 * fld n 8 4 + 2 ^ 96 * fld n 12 4 + 2 ^ 128 * fld n 16 8 + 2 ^ 192 * fld n 24 8)

/-- A build: the list written and signalled, the listed entries and slots marked, and at most one fetch started (R465, R466, R469, R470). -/
def buildList (s : State) (die : Nat) : State :=
  let u := seqOf s die
  let job := (servedBy s u).1
  let step := u.step
  let wanting := (List.filter (fun (e : Nat × BitVec 512) => entryWants e.2) u.table).foldr placeEntry []
  let ready := wanting.filter (fun e => u.resident (entryModel e.2))
  let absent := wanting.filter (fun e => !u.resident (entryModel e.2))
  let b := ready.foldl (considerEntry (u.c 6 2) (u.c 8 4)) { listed := [], tokens := 0, overBudget := 0, overList := 0 }
  let s := clusterPut s die none (u.c 12 4 + step % 2 * (32 * (u.c 6 2 + 1))) (listHeader step absent.length b :: b.listed.map (listEntry u))
  let used := b.listed.map (fun e => entryModel e.2)
  let s := setSeq s die { u with
    table := b.listed.foldl (fun t e => Tab.set e.1 (listedEntry step e.2) t) u.table
    slots := List.map (fun (e : Nat × ModelSlot) => if used.any (fun h => e.2.st == .resident h) then (e.1, { e.2 with lastUse := step }) else e) u.slots
    retired := [], step := step + 1, released := false }
  let s := jobCount s job 0x38 b.listed.length
  let s := sendKettle s (seqEp die) 0 job (u.c 4 2) 1 true 1
  let wants := u.pinFetch ++ (absent.map (fun e => entryModel e.2)).filter (fun h => (u.slotOf h).isNone)
  match wants with
  | [] => s
  | _ => wants.foldl (fun s h => if ((seqOf s die).fetch).isSome then s else startFetch s die step h) s

/-- SEQ_BUILD: a released wait starts a build, after which the unit waits again; a unit of a running region with no wait outstanding sends one (R465). -/
def execSeqBuild (die : Nat) (s : State) : Host.Outcome State Fault Refusal :=
  onDie die (
    let u := seqOf s die
    if u.cfg.isNone ∨ u.waiting ∨ !servedRuns s u then s
    else if u.released then sendBuildWait (buildList s die) die
    else sendBuildWait s die)

/-- Whether an engine still holds a stream or descriptor of a task. -/
def taskLeft (s : State) (job task : Nat) : Bool :=
  !(taskStreams s job task).isEmpty || List.any s.engines (fun (e : Nat × Engine) => e.2.queue.any (fun (x : Strm) => x.job == job && x.task == task))

/-- MODEL_FETCH_COMPLETE: both streams of a fetch complete, its slot becomes RESIDENT and FETCH_KETTLE is signalled (R469). -/
def execModelFetchComplete (die : Nat) (s : State) : Host.Outcome State Fault Refusal :=
  onDie die (
    let u := seqOf s die
    let job := (servedBy s u).1
    match u.fetch with
    | none => s
    | some f =>
      if !servedRuns s u || taskLeft s job (u.c 34 2) then s
      else
        let s := setSeq s die { u with fetch := none, slots := Tab.set f.slot { st := .resident f.handle, lastUse := f.step } u.slots }
        sendKettle (jobCount s job 0x40 1) (seqEp die) 0 job (u.c 36 2) 1 true 1)

end Sys2Proof.Machine
end

