-- ==== Sys2Proof/Machine/Pair.lean ====
section
/-! DEFINITION. Sys2Proof/Machine/Pair.lean: the redundant pair: roles, the mirror's start and stop, checkpoints, the shadow's consumption and failover (R550 to R562). -/

namespace Sys2Proof.Machine

/-- PAIR_ROLE (R551). -/
def execPairRole (q seq : Nat) (s : State) : Host.Outcome State Fault Refusal :=
  hostRow s q seq 0x0601 (fun c =>
    if 2 < c.p 0 1 ∨ c.p 1 7 ≠ 0 ∨ (c.p 0 1 ≠ 0 ∧ c.p 8 8 = 0) then finishCmd s q seq 0x0102 0 0
    else if s.pair.mirror.isSome then finishCmd s q seq 0x0301 0 0
    else finishCmd { s with pair := { s.pair with role := c.p 0 1, pairId := c.p 8 8 } } q seq 0 0 (packageSerial s))

/-- The allocation of a job with a base. -/
def allocAt (s : State) (j base : Nat) : Option Alloc := (jobOf s j).allocs.find? (fun a => a.base == base)

/-- The pages that a mirror mirrors, allocation by allocation (R552). -/
def mirrorKeys (s : State) (j : Nat) (bases : List Nat) : List Nat := bases.flatMap (fun b => ((allocAt s j b).map (Alloc.keys s)).getD [])

/-- The die whose area page stands for a mirrored page: its own, or the area's for a far page (R552; log entry 45). -/
def mirrorDie (area key : Nat) : Nat := if key < 2 ^ 22 then key / 2 ^ 15 else bits area 42 36

/-- The area page of each mirrored page: on the die of the page, from the area's page number on in the order of the pages (R552; DESIGN CHOICE, log entry 45). -/
def areaKeys (area : Nat) (keys : List Nat) : List (Nat × Nat) :=
  (List.range keys.length).map (fun i =>
    let k := nth 0 i keys
    let d := mirrorDie area k
    (k, d * 2 ^ 15 + bits area 35 0 / 2 ^ 21 + ((keys.take i).filter (fun x => mirrorDie area x == d)).length))

/-- The layout digest of a job's mirror (R552). -/
def layoutDigest (s : State) (j : Nat) (bases : List Nat) : List Byte :=
  let regions := List.filter (fun (e : Nat × Region) => e.2.job == j) s.regions
  let rows :=
    regions.map (fun e => e.1 :: (match e.2.bounds with
      | .columns die l r => [1, die, l, r]
      | .dies x0 y0 x1 y1 => [2, x0, y0, x1, y1]) ++ ((e.2.sig.map Sig.spine).getD []).map BitVec.toNat)
    ++ bases.map (fun b => [b, ((allocAt s j b).map Alloc.pages).getD 0])
    ++ (upTo 100).flatMap (fun d => (jobKettles s j d).map (fun k => [d, k]))
  leBytes 64 (Config.sha512 (Config.layoutBytes rows)).toNat

/-- MIRROR_START: a mirror of a job begins; an active's mirrored pages all count as written (R552, R553; DEDUCED, log entry 45). -/
def execMirrorStart (q seq : Nat) (s : State) : Host.Outcome State Fault Refusal :=
  hostRow s q seq 0x0602 (fun c =>
    let no (status : Nat) : State := finishCmd s q seq status 0 0
    let j := c.job
    let n := c.p 32 2
    let area := c.p 24 8
    let bases := (upTo n).map (fun k => c.p (40 + 8 * k) 8)
    let timed := List.any s.regions (fun (e : Nat × Region) => e.2.job == j && bit ((e.2.sig.map Sig.mflags).getD 0) 0)
    let keys := mirrorKeys s j bases
    let scans := (jobRegions s j).flatMap (fun r => ((Tab.find? r s.regions).map Region.scanAreas).getD [])
    let pages := (areaKeys area keys).map (·.2)
      ++ (if s.pair.role = 2 then nearKeys (bits area 42 36) (bits area 35 0 / 2 ^ 21 + (keys.filter (fun k => mirrorDie area k == bits area 42 36)).length) scans.length else [])
    if j = 0 ∨ 63 < j ∨ c.p 8 4 < 2 ∨ 65536 < c.p 8 4 ∨ c.p 12 4 ≠ 0 ∨ n = 0 ∨ 16 < n ∨ c.p 34 6 ≠ 0 then no 0x0102
    else if c.p 0 8 % 64 ≠ 0 ∨ c.p 16 8 % 64 ≠ 0 ∨ spaceOf area ≠ 0 ∨ area % 2 ^ 21 ≠ 0 ∨ addrMalformed area then no 0x0103
    else if s.pair.mirror.isSome ∨ s.pair.role = 0 ∨ (s.pair.role = 1 ∧ ((jobOf s j).st ≠ .active ∨ timed)) ∨ (s.pair.role = 2 ∧ (jobOf s j).st ≠ .suspended) then no 0x0301
    else if !bases.all (fun b => (allocAt s j b).isSome) ∨ !pages.all (fun k => pageAdmits (pageOf s k) j) then no 0x0504
    else
      let m : Mirror :=
        { job := j, ring := c.p 0 8, slots := c.p 8 4, consumedAddr := c.p 16 8, area := area, bases := bases, mseq := 0, ckpt := 1
          consumed := if s.pair.role = 1 then 2 ^ 64 - c.p 8 4 - 1 else 2 ^ 64 - 1
          queue := [], sub := 0, waitFrom := none, stalled := false, stopping := false, ckptOpen := none }
      let s := { s with pair := { s.pair with mirror := some m } }
      let s := if s.pair.role = 1 then keys.foldl (fun s k => setPage s k { pageOf s k with dirty := true }) s
        else hostWrite s (hostAddr m.consumedAddr) (leBytes 8 (2 ^ 64 - 1)) .consumed
      finishCmd s q seq 0 0 0)

/-- MIRROR_STOP: the mirror is stopped, and the reply comes when it has ended (R560). -/
def execMirrorStop (q seq : Nat) (s : State) : Host.Outcome State Fault Refusal :=
  hostRow s q seq 0x0603 (fun c =>
    match s.pair.mirror with
    | none => if c.stage = .working then finishCmd s q seq 0 0 0 else finishCmd s q seq 0x0301 0 0
    | some _ =>
      let s := stopMirror (working s q seq)
      if s.pair.mirror.isNone then finishCmd s q seq 0 0 0 else s)

/-- A page's bytes copied to another page. -/
def copyPage (s : State) (src dst : Nat) : State :=
  (s.mem.filter (fun c => decide (src ≤ c.1) && decide (c.1 < src + 2 ^ 21))).foldl
    (fun s c => { s with mem := memPut s.mem (dst + (c.1 - src)) c.2 }) (clearBytes (biNote s dst (2 ^ 21)) dst (2 ^ 21))

/-- Offsets and lengths of the records that carry n bytes. -/
def recordCuts (n : Nat) : List (Nat × Nat) := (upTo (ceilDiv n 65536)).map (fun k => (65536 * k, min 65536 (n - 65536 * k)))

/-- The kettle values of a job, 16 bytes each (R556). -/
def kettleBytes (s : State) (j : Nat) : List Byte :=
  (upTo 100).flatMap (fun d => (jobKettles s j d).flatMap (fun k => leBytes 1 d ++ leBytes 1 0 ++ leBytes 2 k ++ leBytes 4 ((ktOf s d).kettle k).value ++ leBytes 8 0))

/-- The records of a checkpoint whose dirty pages have been copied (R554 step 6, R556). -/
def checkpointRecords (s : State) (m : Mirror) (last : Nat) (dirty : List (Nat × Nat)) : List MRec :=
  let rec' (mtype target : Nat) (p : MPayload) : MRec := { mtype := mtype, ckpt := m.ckpt, target := target, payload := p }
  let scans := (jobRegions s m.job).flatMap (fun n => match Tab.find? n s.regions with
    | some r => r.scanAreas.flatMap (fun a => (recordCuts (scanSize r.bounds a.1)).map (fun x => rec' 2 (n + 2 ^ 16 * a.1 + 2 ^ 24 * x.1) (.scan n a.1 x.1 x.2)))
    | none => [])
  let pages := dirty.flatMap (fun k => (recordCuts (2 ^ 21)).map (fun x => rec' 3 (pageHome k.1 + x.1) (.page (pageHome k.2 + x.1) x.2)))
  let kb := kettleBytes s m.job
  let kettles := (recordCuts kb.length).map (fun x => rec' 4 0 (.bytes (padTo (ceilDiv x.2 64 * 64) ((kb.drop x.1).take x.2))))
  let body := scans ++ pages ++ kettles
  let first := layoutDigest s m.job m.bases ++ leBytes 4 last ++ leBytes 4 0 ++ leBytes 8 (body.length + 2) ++ leBytes 48 0
  rec' 1 0 (.bytes first) :: body ++ [rec' 5 0 (.bytes [])]

/-- Steps 3 to 6 of a checkpoint whose regions are quiet: scanned, the dirty pages copied, the start set and the records queued (R554). -/
def takeCheckpoint (s : State) (m : Mirror) (run : CkptRun) : State :=
  let ns := jobRegions s m.job
  let s := ns.foldl (fun s n =>
    let s := scanOut s n
    match Tab.find? n s.regions with
    | some r =>
      let s := match r.scan with
        | some sc => scanIn s sc
        | none => s
      (match Tab.find? n s.regions with
      | some r => setRegion s n { r with startAt := some (s.now + 2000) }
      | none => s)
    | none => s) s
  let dirty := (areaKeys m.area (mirrorKeys s m.job m.bases)).filter (fun k => (pageOf s k.1).dirty)
  let s := dirty.foldl (fun s k =>
    let s := copyPage s (pageHome k.1) (pageHome k.2)
    setPage s k.1 { pageOf s k.1 with dirty := false }) s
  let s := { s with pair := { s.pair with run := some { run with scanned := true } } }
  mirrorPump (modMirror s (fun x => { x with queue := checkpointRecords s m run.last dirty }))

/-- The regions of a job noted as RUNNING or BLANK before a checkpoint parts them. -/
def noteRunning (s : State) (ns : List Nat) : State :=
  ns.foldl (fun s n => match Tab.find? n s.regions with
    | some r => if r.st = .running then setRegion s n { r with wasRunning := true } else if r.st = .blank then setRegion s n { r with wasRunning := false } else s
    | none => s) s

/-- Steps 1 to 3 of a checkpoint taken as far as they go (R554). -/
def checkpointStep (s : State) (m : Mirror) (run : CkptRun) : State :=
  let j := m.job
  if (jobOf s j).st ≠ .active then finishCmd { s with pair := { s.pair with run := none } } run.q run.seq 0x0301 0 0
  else if (qOf s j).cmds.any (fun c => c.isWait && c.reply.isNone && c.stage == .working) then finishCmd { s with pair := { s.pair with run := none } } run.q run.seq 0x0301 0 0
  else if (qOf s j).cmds.any (fun c => (c.stage == .started || c.stage == .working || c.stage == .replied)) || !(qOf s j).held.isEmpty || !(qOf s j).writing.isEmpty then s
  else
    let parting := List.any s.regions (fun (e : Nat × Region) => e.2.job == j && e.2.st == .parted)
    let run := if parting then run else { run with last := (qOf s j).lastReplied }
    let ns := (jobRegions s j).filter (fun n => ((Tab.find? n s.regions).map Region.st) != some .suspended)
    let s := noteRunning { s with pair := { s.pair with run := some run } } ns
    let p := partStep s ns true
    if p.2 then takeCheckpoint p.1 m run else p.1

/-- CHECKPOINT: the mirrored job is held, parted, scanned and started again, and its checkpoint goes to the ring; the row is executed again until the regions have been scanned (R554). -/
def execCheckpoint (q seq : Nat) (s : State) : Host.Outcome State Fault Refusal :=
  hostRow s q seq 0x0604 (fun c =>
    match s.pair.mirror with
    | none => finishCmd s q seq 0x0301 0 0
    | some m =>
      match s.pair.run with
      | some r => if r.q = q ∧ r.seq = seq then (if r.scanned then s else checkpointStep s m r) else finishCmd s q seq 0x0301 0 0
      | none =>
        if s.pair.role ≠ 1 ∨ m.stopping ∨ c.stage = .working ∨ (jobOf s m.job).st ≠ .active then finishCmd s q seq 0x0301 0 0
        else
          let run : CkptRun := { q := q, seq := seq, last := (qOf s m.job).lastReplied, scanned := false }
          checkpointStep (working { s with pair := { s.pair with run := some run } } q seq) m run)

/-- The shadow writes a record's MSEQ to the consumed word (R557). -/
def writeConsumed (s : State) (m : Mirror) (mseq : Nat) : State :=
  hostWrite (modMirror s (fun x => { x with mseq := mseq + 1, consumed := mseq })) (hostAddr m.consumedAddr) (leBytes 8 mseq) .consumed

/-- The open checkpoint discarded: records pass unstaged until the next BEGIN (R558). -/
def discardOpen (s : State) : State := modMirror s (fun m => { m with ckptOpen := none })

/-- A staged payload's bytes put into the scan data of its region and die. -/
def stagedScan (recs : List MStaged) (n die : Nat) : List Byte :=
  (recs.filter (fun r => r.mtype == 2 && bits r.target 15 0 == n && bits r.target 22 16 == die)).flatMap MStaged.payload

/-- The kettle values of a staged record applied as RESETs by the headstock (R557). -/
def applyKettles (s : State) (payload : List Byte) (count : Nat) : State :=
  ((chunks 16 (payload.length / 16) payload).take count).foldl (fun s b =>
    let n := leNat b
    sendReq s (configEp 0x60) 0 0 4 { die := fld n 0 1, site := blockSite, port := portKettle, index := fld n 2 2 } (kettleArg 4 false (fld n 4 4)) []) s

/-- A checkpoint committed on the shadow: scans, pages and kettle values take effect (R557). -/
def commitCheckpoint (s : State) (m : Mirror) (o : OpenCkpt) : State :=
  let s := (jobRegions s m.job).foldl (fun s n => match Tab.find? n s.regions with
    | some r =>
      let s := r.scanAreas.foldl (fun s a => storeBytes s (scanAddr a.1 a.2.1) (scanHeader s n r a.1)) s
      setRegion s n { r with scan := Config.scanRead (r.scanAreas.map (fun a => (a.1, stagedScan o.recs n a.1))), wasRunning := r.sig.isSome }
    | none => s) s
  let s := (o.recs.filter (fun r => r.mtype == 3)).foldl (fun s r => storeBytes s r.target r.payload) s
  let total := ((upTo 100).foldl (fun n d => n + (jobKettles s m.job d).length) 0)
  let s := ((o.recs.filter (fun r => r.mtype == 4)).foldl (fun (p : State × Nat) r => (applyKettles p.1 r.payload p.2, p.2 - 4096)) (s, total)).1
  raiseCorrected { discardOpen s with pair := { (discardOpen s).pair with ckptDone := o.ckpt, committed := some (m.job, o.ckpt, o.last) } } 0x0802 m.job 0x7F 0 0 o.ckpt

/-- A good record staged: BEGIN opens a checkpoint, END completes one (R557, R558). -/
def stageRecord (s : State) (m : Mirror) (mtype target ckpt : Nat) (payload : List Byte) : State :=
  if mtype = 1 then
    let n := leNat payload
    if payload.take 64 ≠ layoutDigest s m.job m.bases then raiseCorrected (discardOpen s) 0x0804 m.job 0x7F 0 0 0
    else modMirror s (fun x => { x with ckptOpen := some { ckpt := ckpt, last := fld n 64 4, total := fld n 72 8, recs := [{ mtype := 1, target := target, payload := payload }] } })
  else match m.ckptOpen with
    | none => s
    | some o =>
      let o := { o with recs := o.recs ++ [{ mtype := mtype, target := target, payload := payload }] }
      if o.ckpt ≠ ckpt ∨ (mtype = 5 ∧ o.recs.length ≠ o.total) ∨ 5 < mtype ∨ mtype = 0 then raiseCorrected (discardOpen s) 0x0803 m.job 0x7F 0 0 m.mseq
      else if mtype = 5 then commitCheckpoint s m o
      else modMirror s (fun x => { x with ckptOpen := some o })

/-- MIRROR_RECORD_CONSUME: the shadow takes the next record of the ring, once it is committed, of the MSEQ expected and its HCRC checks (R557, R558, R560). -/
def execMirrorRecordConsume (record : List Byte) (s : State) : Host.Outcome State Fault Refusal :=
  .next (match s.pair.mirror with
    | none => s
    | some m =>
      let h := leNat (record.take 64)
      let payload := (record.drop 64).take (fld h 40 4)
      let crcOk := if payload.isEmpty then fld h 44 4 == 0 || fld h 44 4 == crc32 [] else fld h 44 4 == crc32 payload
      if s.pair.role ≠ 2 ∨ !s.link.up then s
      else if fld h 0 4 ≠ 0x4D524B48 ∨ fld h 60 4 ≠ 0 ∨ fld h 8 8 ≠ m.mseq ∨ fld h 56 4 ≠ crc32 (record.take 56) then s
      else
        let s' :=
          if !crcOk ∨ payload.length ≠ fld h 40 4 ∨ fld h 16 8 ≠ s.pair.pairId then raiseCorrected (discardOpen s) 0x0803 m.job 0x7F 0 0 m.mseq
          else if fld h 4 1 = 6 then discardOpen s
          else stageRecord s m (fld h 4 1) (fld h 32 8) (fld h 24 8) payload
        let s' := writeConsumed s' m m.mseq
        if crcOk ∧ fld h 16 8 = s.pair.pairId ∧ fld h 4 1 = 6 then endMirror s' else s')

/-- FAILOVER: a shadow with a committed checkpoint becomes ACTIVE and resumes its job; the reply comes when the job is ACTIVE (R561, R562). -/
def execFailover (q seq : Nat) (s : State) : Host.Outcome State Fault Refusal :=
  hostRow s q seq 0x0605 (fun c =>
    let no (status : Nat) : State := finishCmd s q seq status 0 0
    match s.pair.committed with
    | none => no 0x0301
    | some (j, ckpt, last) =>
      if c.stage = .working then
        (if (jobOf s j).st = .resuming ∧ resumed s j then
          let s := modJob (setJobState s j .active) j (fun x => { x with cmd := none })
          finishCmd (raiseCorrected { s with pair := { s.pair with committed := none } } 0x0806 j 0x7F 0 0 ckpt) q seq 0 0 ckpt
        else s)
      else if s.pair.role ≠ 2 ∨ (jobOf s j).st ≠ .suspended then no 0x0301
      else match resumeRefusal s j with
        | some e => no e
        | none =>
          let s := { s with pair := { s.pair with role := 1, mirror := none } }
          let s := modQ s j (fun x => { x with lastAccepted := last, lastReplied := last, kept := [] })
          beginResume (working s q seq) j (some (q, seq)))

end Sys2Proof.Machine
end

