-- ==== Sys2Proof/Machine/Events.lean ====
section
/-! DEFINITION. Sys2Proof/Machine/Events.lean: events on their way to the host, fencing in service, and route tables rewritten (R218, R328, R482, R534 to R545, R586). -/

namespace Sys2Proof.Machine

/-- The number under which H0's own events wait (log entry 47). -/
def h0Events : Nat := 0x7F

/-- An event that H0 raises itself, whatever die it names (R586). -/
def raiseH0 (s : State) (e : Ev) : State :=
  let b := Tab.get dieEventsInitial h0Events s.ev.dies
  let b' := if b.waiting.length < 64 then { b with waiting := b.waiting ++ [{ e with time := s.now }] } else { b with dropped := b.dropped + 1 }
  { s with ev := { s.ev with dies := Tab.set h0Events b' s.ev.dies, faultN := s.ev.faultN || e.cls == 2 } }

/-- One event of a code per job, or one CORRECTED event where there is none, raised by H0 (R535, R545). -/
def raiseUsers (s : State) (code : Nat) (jobs : List Nat) (die ukind index detail : Nat) : State :=
  let e (cls job : Nat) : Ev := { code := code, cls := cls, job := job, die := die, ukind := ukind, index := index, time := s.now, detail := detail, region := 0, ext := none, defers := false }
  if jobs.isEmpty then raiseH0 s (e 0 0xFF) else jobs.foldl (fun s j => raiseH0 s (e 1 j)) s

/-- Whether a page has a granule on a die's stack or on a hub's channels (R212, R224). -/
def pageOnDie (s : State) (die key : Nat) : Bool :=
  if key < 2 ^ 22 then key / 2 ^ 15 == die
  else isHub die && (upTo 512).any (fun k =>
    match farLocate s ((key - 2 ^ 22) * 2 ^ 21 + 4096 * k) with
    | some (hc, _) => 0x60 + hc / 32 == die
    | none => false)

/-- The jobs whose region, page, kettle or endpoint uses a die; a SUSPENDED region holds none (R446, R545). -/
def dieUsers (s : State) (die : Nat) : List Nat :=
  let used (j : Nat) : Bool :=
    List.any s.regions (fun (e : Nat × Region) => e.2.job == j && e.2.st != .suspended && e.2.bounds.dieList.contains die)
      || List.any s.pages (fun (e : Nat × Page) => e.2.st == .owned j && pageOnDie s die e.1)
      || !(jobKettles s j die).isEmpty
      || List.any (jobOf s j).rankTable (fun (e : Nat × Nat) => match entryEp e.2 with
        | some p => p.die == die && p.site == blockSite
        | none => false)
  (upTo 64).filter (fun j => decide (1 ≤ j) && used j)

/-- A die fenced in service: every site of it is a hole, its channels and lane groups are lost, and what it held undelivered is lost (R544, R545, R586). -/
def fenceDie (s : State) (die : Nat) (thermal : Bool) : State :=
  let groups := if isHub die then
      (upTo 4).flatMap (fun e => match dieNeighbour die e with
        | some n => (upTo 6).flatMap (fun g => [groupKey die e g, groupKey n (opposite e) g])
        | none => [])
    else []
  let s := modDie s die (fun d => { d with fenced := true, dstate := 3, lostCh := d.goodCh, far := d.far.map (fun c => if c.2.st = .good then (c.1, { c.2 with st := .lost }) else c) })
  let s := { s with
    net := { s.net with
      holes := (s.net.holes ++ (if isCompute die then (upTo 480).map (siteKey die) else [])).eraseDups
      lostGroups := (s.net.lostGroups ++ groups).eraseDups
      packets := s.net.packets.filter (fun p => p.die != die)
      nis := s.net.nis.filter (fun e => e.1 / 1024 != die) }
    ev := { s.ev with dies := Tab.erase die s.ev.dies } }
  unitFenced (retireFree (noteRewrite s)) die 0 0 thermal

/-- The loss of a die found by H0: DIE_LOST or HUB_LOST with its cause for every job that used it (R545, R586). -/
def reportLost (s : State) (die cause : Nat) : State :=
  raiseUsers (modDie s die (fun d => { d with dead := none })) (if isHub die then 0x0015 else 0x0014) (dieUsers s die) die 0 0 cause

/-- A die that fails: fenced at once, its loss left for H0 to find; H0's own failure is fatal (R544, R572, R575, R586). -/
def dieFails (s : State) (die cause : Nat) : State :=
  if die = 0x60 then raiseFatal s 0x0010 0x60
  else if (dieOf s die).fenced then s
  else modDie (fenceDie s die (cause == 4)) die (fun d => { d with dead := some cause })

/-- NEAR_THERMAL_TIMEOUT: a stack in HOLD for 50 ms has its die fenced until the next start and the jobs that use it faulted (R218). -/
def execNearThermalTimeout (die : Nat) (s : State) : Host.Outcome State Fault Refusal :=
  if !isCompute die then .fault (.noSuchUnit die blockSite)
  else .next (match (dieOf s die).holdSince with
    | some t =>
      if (dieOf s die).fenced ∨ (dieOf s die).nearState ≠ .hold ∨ s.now < t + 50000000 then s
      else raiseUsers (fenceDie s die true) 0x0205 (dieUsers s die) die 2 0 0
    | none => s)

/-- A tile fenced in service, its job faulted (R28, R544, R545). -/
def fenceTile (s : State) (die site : Nat) : State :=
  if (dieOf s die).fencedSites.contains site then s
  else
    let s := modDie s die (fun d => { d with fencedSites := d.fencedSites ++ [site] })
    let j := siteJob s die site
    raiseUsers (unitFenced s die 1 site false) 0x0017 (if j = 0 then [] else [j]) die 1 site 0

/-- The bytes of an event record (R538, R540). -/
def eventBytes (e : Ev) (number : Nat) (nwrap coalesced : Bool) (count : Nat) : List Byte :=
  leBytes 2 e.code ++ leBytes 1 e.cls ++ leBytes 1 e.job ++ leBytes 1 e.die ++ leBytes 1 e.ukind ++ leBytes 2 e.index ++ leBytes 8 e.time ++ leBytes 8 e.detail ++ leBytes 4 number
    ++ leBytes 2 e.region ++ leBytes 1 ((if nwrap then 1 else 0) + (if coalesced then 2 else 0) + (if e.ext.isSome then 4 else 0)) ++ leBytes 1 count

/-- The bytes of an extension record (R538). -/
def extensionBytes (e : Ev) (x : Nat × Nat) (number : Nat) (nwrap : Bool) : List Byte :=
  leBytes 2 1 ++ leBytes 1 e.cls ++ leBytes 1 e.job ++ leBytes 1 e.die ++ leBytes 1 e.ukind ++ leBytes 2 e.index ++ leBytes 8 x.1 ++ leBytes 8 x.2 ++ leBytes 4 number
    ++ leBytes 2 e.region ++ leBytes 1 (if nwrap then 1 else 0) ++ leBytes 1 1

/-- Slots of the event ring (R481). -/
def evtSlots (r : EvtRing) : Nat := 2 ^ (r.log2 + 4)

/-- H0 writes the next held record to the ring when it can: the ring enabled and not full, the link up, and no record's write outstanding (R482; log entry 48). -/
def pumpEvents (s : State) : State :=
  match s.ev.held with
  | [] => s
  | r :: rest =>
    let g := s.evtRing
    if !g.enable ∨ !s.link.up ∨ (g.tail + 1) % evtSlots g = g.head ∨ s.host.writes.any (fun w => match w.use with | .evtEntry _ => true | _ => false) then s
    else hostWrite { s with ev := { s.ev with held := rest } } (hostAddr (g.base + 32 * g.tail)) r (.evtEntry 1)

/-- Dropped records counted, wrapping at 48 bits into WRAP (R482, R549). -/
def countLost (s : State) (n : Nat) : State := if n = 0 then s else { s with ev := { s.ev with lost := telRaise s.ev.lost n } }

/-- Records held together, or dropped together where they do not fit (R482). -/
def holdRecords (s : State) (rs : List (List Byte)) : State :=
  if s.ev.held.length + rs.length ≤ 4096 then { s with ev := { s.ev with held := s.ev.held ++ rs } } else countLost s rs.length

/-- An event numbered and written or held, with its extension (R482, R538). -/
def recordEvent (s : State) (e : Ev) (coalesced : Bool) (count : Nat) : State :=
  let n := s.ev.number
  let w := s.ev.nwrap
  let s := { s with ev := { s.ev with number := (n + 1) % 2 ^ 32, nwrap := w || n + 1 == 2 ^ 32 } }
  let rs := eventBytes e n w coalesced count :: (match e.ext with
    | some x => [extensionBytes e x n w]
    | none => [])
  pumpEvents (holdRecords s rs)

/-- The start of the 1 ms period of a time (R540). -/
def periodOf (t : Nat) : Nat := t - t % 1000000

/-- Whether a count is of an event's key (R540). -/
def Coalesce.matches (c : Coalesce) (e : Ev) (period : Nat) : Bool :=
  c.code == e.code && c.die == e.die && c.ukind == e.ukind && c.index == e.index && c.period == period

/-- A CORRECTED event: the first of its key in a period is written, later ones are counted (R540). -/
def correctedArrives (s : State) (e : Ev) : State :=
  let p := periodOf s.now
  if s.ev.coalesce.any (fun c => c.matches e p) then
    { s with ev := { s.ev with coalesce := s.ev.coalesce.map (fun c => if c.matches e p then { c with count := c.count + 1, last := e } else c) } }
  else
    recordEvent { s with ev := { s.ev with coalesce := s.ev.coalesce ++ [{ code := e.code, die := e.die, ukind := e.ukind, index := e.index, period := p, count := 0, last := e }] } } e false 1

/-- The codes of uncorrectable errors in a tile (R544; DEDUCED, log entry 49). -/
def tileUncorrectable (code : Nat) : Bool := [0x0101, 0x0110, 0x0118, 0x0120, 0x0121].contains code

/-- A tile's uncorrectable event noted: a second one within 24 h of its first fences the tile (R544). -/
def noteTileFault (s : State) (e : Ev) : State :=
  if e.ukind ≠ 1 ∨ !tileUncorrectable e.code then s
  else
    let key := siteKey e.die e.index
    match Tab.find? key s.ev.siteFaults with
    | some t => if e.time ≤ t + 86400000000000 then fenceTile s e.die e.index else { s with ev := { s.ev with siteFaults := Tab.set key e.time s.ev.siteFaults } }
    | none => { s with ev := { s.ev with siteFaults := Tab.set key e.time s.ev.siteFaults } }

/-- A fatal event's handling: FATAL and FIRST_FATAL are set and every job is faulted (R536, R563). -/
def fatalArrives (s : State) (e : Ev) : State :=
  let s := { s with ev := { s.ev with faultN := true, fatal := true, firstFatal := if s.ev.firstFatal = 0 then e.code else s.ev.firstFatal } }
  (upTo 63).foldl (fun s k => jobFault s (k + 1) e.code) s

/-- EVENT_RAISE: a unit passes an event to its die block (R537, R586). -/
def execEventRaise (die : Nat) (e : Ev) (s : State) : Host.Outcome State Fault Refusal :=
  if !isDie die then .fault (.noSuchUnit die blockSite)
  else .next (if e.code = 0 then s
    else if e.cls = 1 then (if e.job = 0 ∨ 63 < e.job then raise s { e with die := die, cls := 0, job := 0xFF } else raise s { e with die := die })
    else raise s { e with die := die, cls := min 2 e.cls })

/-- EVENT_ARRIVAL: the oldest event that waits at a die block reaches H0, which counts, numbers and writes or holds it and does what it calls for (R445, R482, R535 to R540, R544, R564, R586). -/
def execEventArrival (die : Nat) (s : State) : Host.Outcome State Fault Refusal :=
  if !isDie die && die != h0Events then .fault (.noSuchUnit die blockSite)
  else .next (
    let b := Tab.get dieEventsInitial die s.ev.dies
    match b.waiting with
    | [] => s
    | e :: rest =>
      if die ≠ h0Events ∧ die ≠ 0x60 ∧ (s.net.tableFenced.contains die ∨ (dieDistance s die 0x60).isNone) then s
      else
        let s := countLost { s with ev := { s.ev with dies := Tab.set die { waiting := rest, dropped := 0 } s.ev.dies } } b.dropped
        let s := pkgAdd s (8 * e.cls) 1
        let s := if e.cls = 0 then correctedArrives s e else recordEvent s e false 1
        let s := noteTileFault s e
        if e.cls = 2 then fatalArrives s e else if e.cls = 1 ∧ !e.defers then jobFault s e.job e.code else s)

/-- COALESCE_PERIOD_END: one COALESCED record for each key counted in a period that has ended (R540). -/
def execCoalescePeriodEnd (s : State) : Host.Outcome State Fault Refusal :=
  .next (
    let p := periodOf s.now
    let ended := s.ev.coalesce.filter (fun c => decide (c.period < p))
    let s := { s with ev := { s.ev with coalesce := s.ev.coalesce.filter (fun c => !decide (c.period < p)) } }
    ended.foldl (fun s c => if c.count = 0 then s else recordEvent s c.last true (min 255 c.count)) s)

/-- The fields of HST_EVT_CFG in a value, ENABLE apart (R481). -/
def evtFields (g : EvtRing) (v : Nat) : EvtRing := if g.enable then g else { g with vector := bits v 42 32, log2 := bits v 3 0 }

/-- HST_EVT_CFG: the ring is configured; setting ENABLE puts TAIL and HEAD to 0; a reserved LOG2 has the write ignored whole (R482). -/
def execHstEvtCfg (v : Nat) (s : State) : Host.Outcome State Fault Refusal :=
  .next (
    if 12 < bits v 3 0 then s
    else
      let on := bit v 63
      let g := { evtFields s.evtRing v with enable := on }
      let g := if on && !s.evtRing.enable then { g with tail := 0, head := 0 } else g
      pumpEvents { s with evtRing := g })

/-- HST_EVT_HEAD: ring slots are freed; a value at or beyond the ring size is ignored (R482). -/
def execHstEvtHead (v : Nat) (s : State) : Host.Outcome State Fault Refusal :=
  .next (
    let h := bits v 15 0
    if evtSlots s.evtRing ≤ h then s else pumpEvents { s with evtRing := { s.evtRing with head := h } })

/-- A record's GO: it is visible, TAIL advances and the vector is raised; an error has it held again (R482). -/
def evtVisible (s : State) (bytes : List Byte) (err : Bool) : State :=
  if err then pumpEvents { s with ev := { s.ev with held := bytes :: s.ev.held } }
  else
    let g := s.evtRing
    pumpEvents (raiseVector { s with evtRing := { g with tail := (g.tail + 1) % evtSlots g } } g.vector)

/-- ROUTE_TABLE_REWRITE: the tables come to leave out what has been lost, and packets that wait for it are dropped (R328, R347). -/
def execRouteTableRewrite (s : State) : Host.Outcome State Fault Refusal :=
  .next (match s.net.rewriteDue with
    | none => s
    | some _ =>
      let fenced := (upTo 100).filter (fun d => (dieOf s d).fenced)
      { s with net := { s.net with
          tableHoles := s.net.holes, tableFenced := fenced, tableLostGroups := s.net.lostGroups, rewriteDue := none
          packets := s.net.packets.filter (fun p => !(fenced.contains p.msg.dst.die || s.net.holes.contains (siteKey p.msg.dst.die (routerOf p.msg.dst)))) } })

end Sys2Proof.Machine
end

