-- ==== Sys2Proof/Machine/Boot.lean ====
section
/-! DEFINITION. Sys2Proof/Machine/Boot.lean: the start sequence, firmware update, identity and attestation (R513 to R532). -/

namespace Sys2Proof.Machine

/-- The package with nothing kept but its flash; the world outside and the commands that wait stay (R13, R513). -/
def bareState (s : State) : State :=
  { State.reset with
    pending := s.pending, freeCtr := s.freeCtr, out := s.out, flash := s.flash, mem := s.mem.filter (fun c => decide (hostAddr 0 ≤ c.1))
    boot := { State.reset.boot with flashOk := s.boot.flashOk, due := none, watchdog := false } }

/-- Whether the reply that a RESTART waits for is visible (R525). -/
def replyVisible (s : State) (r : Nat × Nat) : Bool :=
  let q := qOf s r.1
  !q.cmds.any (fun c => c.seq == r.2) && !q.held.any (fun e => !e.notice && e.seq == r.2) && !q.writing.any (fun e => !e.notice && e.seq == r.2)

/-- Whether a start may begin: one is due and its reply visible, or the package has no power yet (R513, R570). -/
def startable (s : State) : Bool :=
  !s.boot.powered || (s.boot.due.isSome && (s.boot.dueReply.map (replyVisible s)).getD true)

/-- The flash as the board leaves it for a start: what it programmed while the package had no power, else as it was (R507, R516; log entry 50). -/
def boardFlash (s : State) (obs : StartObs) : List Host.Cell :=
  match obs.flash with
  | some l => if !s.boot.powered ∨ s.boot.phase = 0 then l.foldl (fun m e => flashPut m e.1 e.2) [] else s.flash
  | none => s.flash

/-- FLASH_RECORD_CORRUPT for every record of an area that has COMMIT set and fails its CRC (R509). -/
def reportCorrupt (s : State) (base count : Nat) : State :=
  (usedPositions s.flash base 64 count).foldl (fun s p =>
    if recordCorrupt (flashGet s.flash (base + 64 * p) 64) then raiseCorrected s 0x001A 0 0x60 9 0 (base + 64 * p) else s) s

/-- The units of a kind that a start leaves out: those that a fence record names and those that fail their test (R517, R518). -/
def badUnits (log : List Nat) (unit : Nat) (failed : List (Nat × Nat)) : List (Nat × Nat) :=
  ((((fenceRecords log).filter (fun r => fld r 17 1 == unit)).map (fun r => (fld r 16 1, fld r 18 2))) ++ failed).eraseDups

/-- Whether a near channel passes the march test of a start: a channel that a record fences, that fails training, or whose DP tile or site is out does not, nor does one of a die that a record or its own test fences (R219, R517; DEDUCED, log entry 50). -/
def chanTested (log : List Nat) (obs : StartObs) (die ch : Nat) : Bool :=
  let site := (dpSite ch).getD 0
  !(badUnits log 0 (obs.dies.map (fun d => (d, 0)))).any (fun u => u.1 == die)
    && !(badUnits log 3 obs.near).contains (die, ch) && !(badUnits log 1 obs.tiles).contains (die, site) && !(badUnits log 2 obs.holes).contains (die, site)

/-- The rows of a channel that need a spare: those of repair records, then those that its test finds (R219). -/
def repairedRows (log : List Nat) (obs : StartObs) (die ch : Nat) : List (Nat × Nat) :=
  ((log.filter (fun r => fld r 4 1 == 2 && fld r 16 1 == die && fld r 17 1 == ch)).map (fun r => (fld r 18 2, fld r 20 4))
    ++ (if chanTested log obs die ch then (obs.rows.filter (fun r => r.1 == die && r.2.1 == ch)).map (fun r => (r.2.2.1, r.2.2.2)) else [])).eraseDups

/-- The rows of a channel that spares replace: at most the 32 of a bank, recorded rows first (R219). -/
def mappedRows (log : List Nat) (obs : StartObs) (die ch : Nat) : List (Nat × Nat) :=
  let rows := repairedRows log obs die ch
  (upTo 32).flatMap (fun b => (rows.filter (fun r => r.1 == b)).take 32)

/-- The near channels of a die that are good after the test (R219). -/
def goodNear (log : List Nat) (obs : StartObs) (die : Nat) : List Nat :=
  (upTo 24).filter (fun ch =>
    let rows := repairedRows log obs die ch
    chanTested log obs die ch && (upTo 32).all (fun b => decide ((rows.filter (fun r => r.1 == b)).length ≤ 32)))

/-- DSTATE of a die after the test: by the origin of its fence record, or by a failed test (R517, R519; DEDUCED, log entry 50). -/
def dieState (log : List Nat) (obs : StartObs) (die : Nat) : Nat :=
  match (fenceRecords log).find? (fun r => fld r 16 1 == die && fld r 17 1 == 0) with
  | some r => if fld r 20 1 = 0 then 1 else 3
  | none => if obs.dies.contains die ∨ (isCompute die ∧ (goodNear log obs die).isEmpty) then 2 else 0

/-- A far channel as the start leaves it: a position with no response leaves both its channels ABSENT, an unsupported device both UNSUPPORTED (R222, R223); a fenced one is LOST (DEDUCED, log entry 50). -/
def farState (log : List Nat) (obs : StartObs) (hub ch : Nat) : FarCh :=
  let told (c : Nat) : Nat := ((obs.far.find? (fun f => f.channel == 32 * (hub - 0x60) + c)).map FarFound.state).getD 0
  let mate := if ch % 2 = 0 then ch + 1 else ch - 1
  let seen := obs.far.find? (fun f => f.channel == 32 * (hub - 0x60) + ch)
  let st : FarState :=
    if told ch = 4 ∨ told mate = 4 then .unsupported
    else if seen.isSome ∧ (badUnits log 4 []).contains (hub, ch) then .lost
    else if told mate = 0 then .absent
    else match told ch with
      | 2 => .good
      | 3 => .trainFailed
      | _ => .absent
  { st := st, vendor := (seen.map FarFound.vendor).getD 0, refreshRate := (seen.map FarFound.refresh).getD 0 }

/-- A die after the test (R219, R223, R517). -/
def testedDie (log : List Nat) (obs : StartObs) (die : Nat) : Die :=
  let st := dieState log obs die
  { dieInitial with
    fenced := st != 0
    dstate := st
    fencedSites := if isCompute die then ((badUnits log 1 obs.tiles).filter (fun u => u.1 == die)).map (·.2) else []
    goodCh := if isCompute die ∧ st = 0 then goodNear log obs die else []
    spares := if isCompute die then (upTo 24).filterMap (fun ch => let n := (mappedRows log obs die ch).length; if n = 0 then none else some (ch, n)) else []
    far := if isHub die then (upTo 32).map (fun ch => (ch, let f := farState log obs die ch; if st ≠ 0 then { f with st := .absent } else f)) else []
    badCores := ((badUnits log 6 obs.cores).filter (fun u => u.1 == die)).map (·.2) }

/-- Whether the device positions of a hub that respond break the population rule (R222). -/
def farPopulationBad (d : Die) : Bool :=
  let here := (upTo 16).filter (fun p => ((Tab.find? (2 * p) d.far).map FarCh.st).getD .absent != .absent || ((Tab.find? (2 * p + 1) d.far).map FarCh.st).getD .absent != .absent)
  !(here == [] || here == upTo 8 || here == upTo 16)

/-- The events of a hub's bring-up (R222, R223). -/
def farEvents (s : State) (hub : Nat) : State :=
  let d := dieOf s hub
  if d.fenced then s
  else
    let st (ch : Nat) : FarState := ((Tab.find? ch d.far).map FarCh.st).getD .absent
    let s := if farPopulationBad d then raiseCorrected s 0x0212 0 hub 2 0 0 else s
    let s := (upTo 16).foldl (fun s p => if st (2 * p) = .unsupported then raiseCorrected s 0x0213 0 hub 4 (2 * p) 0 else s) s
    (upTo 32).foldl (fun s ch => if st ch = .trainFailed then raiseCorrected s 0x0214 0 hub 4 ch 0 else s) s

/-- The holes that fenced dies bring: every site of a fenced compute die (R2, R519, R544). -/
def dieHoles (fenced : List Nat) : List Nat := (fenced.filter isCompute).flatMap (fun d => (upTo 480).map (siteKey d))

/-- Steps 5 to 7: every die tested, the good-unit map built, and the route tables written (R219, R223, R325, R514, R517, R519, R520). -/
def buildPackage (s : State) (obs : StartObs) : State :=
  let log := unitLog s.flash
  let s := reportCorrupt s unitLogBase unitLogSize
  let dies := (upTo 100).map (fun d => (d, testedDie log obs d))
  let good := ((upTo 96).filter (fun d => dieState log obs d == 0))
  let gone (d : Nat) : Bool := isHub d && dieState log obs d != 0
  let groups := ((badUnits log 5 obs.groups).filter (fun u => !gone u.1 && !((dieNeighbour u.1 (recordEdge (u.2 / 6))).map gone).getD false)).flatMap (fun u => groupKey u.1 (recordEdge (u.2 / 6)) (u.2 % 6) :: (match dieNeighbour u.1 (recordEdge (u.2 / 6)) with
    | some n => [groupKey n (opposite (recordEdge (u.2 / 6))) (u.2 % 6)]
    | none => []))
  let fenced := (upTo 100).filter (fun d => dieState log obs d != 0)
  let holes := ((badUnits log 2 obs.holes).filter (fun u => isCompute u.1 && decide (u.2 < 480) && !fenced.contains u.1)).map (fun u => siteKey u.1 u.2) ++ dieHoles fenced
  let s := { s with
    dies := dies, goodDies := good
    goodFar := (upTo 128).filter (fun c => ((Tab.find? (c % 32) (testedDie log obs (0x60 + c / 32)).far).map FarCh.st) == some .good)
    net := { s.net with holes := holes, tableHoles := holes, tableFenced := fenced, lostGroups := groups.eraseDups, tableLostGroups := groups.eraseDups }
    boot := { s.boot with changeTime := s.now } }
  let s := obs.rows.eraseDups.foldl (fun s r =>
    if decide (r.1 < 96) && (mappedRows log obs r.1 r.2.1).contains r.2.2 && chanTested log obs r.1 r.2.1
      && !(log.any (fun x => fld x 4 1 == 2 && fld x 16 1 == r.1 && fld x 17 1 == r.2.1 && fld x 18 2 == r.2.2.1 && fld x 20 4 == r.2.2.2))
    then appendRepair s r.1 r.2.1 r.2.2.1 r.2.2.2 else s) s
  let s := (upTo 4).foldl (fun s h => farEvents s (0x60 + h)) s
  if good.length < (if Config.isB then 90 else 96) then raiseCorrected s 0x0018 0 0x60 0 0 0 else s

/-- Minimal mode: only H0 runs, with the golden image (R516). -/
def startMinimal (s : State) (obs : StartObs) (reason : Nat) (count fail seq : Nat) : State :=
  let base := slotBase 2
  let held := (upTo 100).map (fun d => (d, if d = 0x60 then dieInitial else { dieInitial with fenced := true, dstate := 2 }))
  let keys := keysInForce (keyRecords s.flash)
  let s := { s with
    dies := held, net := { s.net with tableFenced := (upTo 100).filter (fun d => d != 0x60) }
    boot := { s.boot with source := 2, reason := reason, startCount := count, failCount := fail, recordSeq := seq, phase := 1, watchdog := true } }
  if obs.hang ≠ 0 then s
  else
    let ok := obs.pufOk && identityOk s.flash
    let s := if ok then s else raiseCorrected s 0x0019 0 0x60 0 0 0
    match slotCheck s.flash base false with
    | some _ => { s with boot := { s.boot with watchdog := false, ident := !ok }, ev := { s.ev with faultN := true } }
    | none => { s with
        boot := { s.boot with
          dmode := 2, watchdog := false, ident := !ok, fwVersion := slotVersion s.flash base, digest := slotDigest s.flash base, doneTime := s.now
          keys := keys.1, keySeq := keys.2.1, keyRecord := keys.2.2 } }

/-- A failing step: the failure record is written and the package starts again (R514). -/
def startFails (s : State) (active fail reason starts step : Nat) : State :=
  let s := (writeBoot s (bootBody active fail reason starts)).1
  { s with boot := { s.boot with due := some false, phase := step, reason := reason, failCount := fail } }

/-- A normal start from the boot record in force (R514, R521, R528, R530). -/
def startNormal (s : State) (obs : StartObs) (r : Nat) : State :=
  let active := fld r 16 1
  let fail := min 255 (fld r 17 1 + 1)
  let starts := min (2 ^ 32 - 1) (fld r 20 4 + 1)
  let base := slotBase active
  let s := { s with boot := { s.boot with source := active % 2, reason := fld r 18 1, failCount := fld r 17 1, startCount := fld r 20 4, recordSeq := fld r 8 8, phase := 1, watchdog := true } }
  if obs.hang = 1 then s
  else
    let s := (writeBoot s (bootBody active fail 1 starts)).1
    let s := { s with boot := { s.boot with failCount := fail, startCount := starts } }
    if obs.hang = 2 ∨ obs.hang = 3 then { s with boot := { s.boot with phase := obs.hang } }
    else
      let ok := obs.pufOk && identityOk s.flash
      let s := { s with boot := { s.boot with ident := !ok } }
      let s := if ok then s else raiseCorrected s 0x0019 0 0x60 0 0 0
      match (if 1 < active then some 2 else slotCheck s.flash base false) with
      | some reason => startFails s active fail reason starts 4
      | none =>
        let keys := keysInForce (keyRecords s.flash)
        let s := { s with boot := { s.boot with fwVersion := slotVersion s.flash base, digest := slotDigest s.flash base, keys := keys.1, keySeq := keys.2.1, keyRecord := keys.2.2 } }
        if obs.hang = 4 ∨ obs.hang = 5 then { s with boot := { s.boot with phase := obs.hang } }
        else
          let s := buildPackage s obs
          if !obs.h0Ok ∨ s.goodDies.isEmpty then startFails s active fail 5 starts 6
          else if 6 ≤ obs.hang ∧ obs.hang ≤ 7 then { s with boot := { s.boot with phase := obs.hang } }
          else if !obs.personalityOk then startFails s active fail 6 starts 8
          else if obs.hang ≠ 0 then { s with boot := { s.boot with phase := min 9 obs.hang } }
          else
            let w := writeBoot s (bootBody active 0 0 starts)
            let s := w.1
            { s with
              boot := { s.boot with
                failCount := if w.2.isSome then 0 else s.boot.failCount, recordSeq := w.2.getD s.boot.recordSeq, phase := 9, dmode := 1, watchdog := false, doneTime := s.now }
              pwr := { s.pwr with refOk := true } }

/-- START: the release of H0's reset rebuilds the package from its flash, in normal or minimal mode (R513 to R516). -/
def execStart (obs : StartObs) (s : State) : Host.Outcome State Fault Refusal :=
  .next (
    if !startable s then s
    else
      let golden := s.boot.powered && s.boot.due == some true
      let s := { bareState s with flash := boardFlash s obs }
      let s := { s with now := obs.time, boot := { s.boot with flashOk := obs.flashOk } }
      let s := reportCorrupt (reportCorrupt s 0 1024) 0x10000 1024
      match bootInForce s.flash with
      | none => startMinimal s obs (if golden then 8 else 7) 0 0 0
      | some r =>
        if golden then startMinimal s obs 8 (fld r 20 4) (fld r 17 1) (fld r 8 8)
        else if 3 ≤ fld r 17 1 then startMinimal s obs (fld r 18 1) (fld r 20 4) (fld r 17 1) (fld r 8 8)
        else startNormal s obs r)

/-- START_WATCHDOG_EXPIRY: a start that has not ended in 30 s is made again; one of the golden image chooses it again (R514, R516). -/
def execStartWatchdogExpiry (s : State) : Host.Outcome State Fault Refusal :=
  .next (
    if !s.boot.powered ∨ !s.boot.watchdog ∨ s.now < 30000000000 then s
    else { s with boot := { s.boot with watchdog := false, due := some (decide (s.boot.source = 2) && decide (s.boot.reason = 8)), dueReply := none } })

/-- The slot that FW_WRITE writes: the one that ACTIVE of the record in force does not name, slot A where there is no record (R522; DESIGN CHOICE, log entry 50). -/
def inactiveSlot (s : State) : Nat :=
  match bootInForce s.flash with
  | some r => 1 - fld r 16 1 % 2
  | none => 0

/-- A slot's blocks erased and programmed, block 0 first erased where the write leaves it out (R522). -/
def programSlot (flash : List Host.Cell) (slot off : Nat) (data : List Byte) : List Host.Cell :=
  let base := slotBase slot
  let flash := if off = 0 then flash else flashErase flash base 0x10000
  flashPutList (flashErase flash (base + off) data.length) (base + off) data

/-- An image-key record checked and appended (R530): the status, and the state. -/
def appendKeys (s : State) (r : List Byte) : State × Nat :=
  let seq := leNat ((r.drop 8).take 8)
  if !keyRecordOk s.boot.keys r then (s, 0x0505)
  else match erasedPosition s.flash keyLogBase 4096 256 with
    | none => (s, 0x0301)
    | some p =>
      if !s.boot.keys.isEmpty ∧ seq ≤ s.boot.keySeq then (s, 0x0301)
      else if !s.boot.flashOk then (flashFailed s (keyLogBase + 4096 * p), 0x0403)
      else
        let r := r.take 60 ++ leBytes 4 0 ++ r.drop 64
        ({ s with
            flash := flashPutList s.flash (keyLogBase + 4096 * p) r
            boot := { s.boot with keys := keyEntries r, keySeq := seq, keyRecord := leNat r } }, 0)

/-- Whether it is a firmware command's turn: the writes and commits of a queue are carried out one at a time, in SEQ order (R526). -/
def fwTurn (s : State) (q seq : Nat) : Bool :=
  (((qOf s q).cmds.filter (fun c => (c.opcode == 0x0701 || c.opcode == 0x0702) && c.reply.isNone)).head?.map HCmd.seq) == some seq

/-- FW_WRITE: the data is read from host memory and then written to the inactive slot, or appended to the image-key list; the row is executed again once the data has come (R522, R530). -/
def execFwWrite (q seq : Nat) (s : State) : Host.Outcome State Fault Refusal :=
  hostRow s q seq 0x0701 (fun c =>
    let no (s : State) (status detail : Nat) : State := finishCmd { s with boot := { s.boot with fw := none } } q seq status detail 0
    let off := c.p 8 4
    let len := c.p 12 4
    if !fwTurn s q seq then s
    else match s.boot.fw with
    | some w =>
      if w.q ≠ q ∨ w.seq ≠ seq then s
      else match w.data with
        | none => s
        | some none => no s 0x0404 0
        | some (some data) =>
          if c.p 16 1 = 1 then
            let r := appendKeys s data
            no r.1 r.2 (if r.2 = 0x0403 then 0x001B else 0)
          else if !s.boot.flashOk then no (flashFailed s (slotBase (inactiveSlot s) + off)) 0x0403 0x001B
          else no { s with flash := programSlot s.flash (inactiveSlot s) off data } 0 0
    | none =>
      if 1 < c.p 16 1 ∨ c.p 17 7 ≠ 0 then no s 0x0102 0
      else if c.p 16 1 = 0 ∧ (off % 65536 ≠ 0 ∨ len = 0 ∨ len % 65536 ≠ 0 ∨ 2 ^ 24 < len ∨ 2 ^ 26 < off + len) then no s 0x0102 0
      else if c.p 16 1 = 1 ∧ (off ≠ 0 ∨ len ≠ 4096) then no s 0x0102 0
      else if c.p 0 8 % 64 ≠ 0 ∨ 2 ^ 52 < c.p 0 8 + len then no s 0x0103 0
      else hostRead (working { s with boot := { s.boot with fw := some { q := q, seq := seq, data := none } } } q seq) (hostAddr (c.p 0 8)) len .firmware)

/-- FW_COMMIT: a slot that checks is committed and named by a new boot record (R523). -/
def execFwCommit (q seq : Nat) (s : State) : Host.Outcome State Fault Refusal :=
  hostRow s q seq 0x0702 (fun c =>
    let slot := c.p 0 1
    let base := slotBase slot
    if !fwTurn s q seq then s
    else if 1 < slot then finishCmd s q seq 0x0102 0 0
    else match slotCheck s.flash base true with
      | some 2 => finishCmd s q seq 0x0107 0 0
      | some 3 => finishCmd s q seq 0x0505 0 0
      | some _ => finishCmd s q seq 0x0506 0 0
      | none =>
        if !s.boot.flashOk then finishCmd (flashFailed s base) q seq 0x0403 0x001B 0
        else
          let s := { s with flash := flashPutList s.flash (base + 248) (leBytes 8 0) }
          let w := writeBoot s (bootBody slot 0 0 (((bootInForce s.flash).map (fun r => fld r 20 4)).getD 0))
          finishCmd w.1 q seq 0 0 (w.2.getD 0))

/-- FW_STATUS: the three images checked now, and the record in force (R524). -/
def execFwStatus (q seq : Nat) (s : State) : Host.Outcome State Fault Refusal :=
  hostRow s q seq 0x0703 (fun c =>
    let r := (bootInForce s.flash).getD 0
    let chk (k : Nat) : Option Nat := slotCheck s.flash (slotBase k) false
    let ver (k : Nat) : Nat := if chk k = some 2 then 0 else slotVersion s.flash (slotBase k)
    let valid := (upTo 3).foldl (fun n k => n + (if (chk k).isNone then 2 ^ k else 0)) 0
    writeCmdRecord s q c (c.p 0 8)
      (leBytes 1 s.boot.source ++ leBytes 1 (fld r 16 1) ++ leBytes 1 (fld r 17 1) ++ leBytes 1 s.boot.reason ++ leBytes 1 valid ++ leBytes 1 (if s.boot.ident then 1 else 0)
        ++ leBytes 2 Config.romVersion ++ leBytes 8 (fld r 8 8) ++ leBytes 8 (ver 0) ++ leBytes 8 (ver 1) ++ leBytes 8 (ver 2) ++ leBytes 4 (fld r 20 4) ++ leBytes 4 0
        ++ leBytes 8 s.now ++ leBytes 8 0) 0)

/-- The bytes of the first certificate of a DER chain (PRESUMED, log entry 6). -/
def firstCertificate (chain : List Byte) : List Byte :=
  let l := leNat ((chain.drop 1).take 1)
  let n := if l < 0x80 then 2 + l else if l = 0x81 then 3 + leNat ((chain.drop 2).take 1) else 4 + (leNat ((chain.drop 2).take 1) * 256 + leNat ((chain.drop 3).take 1))
  chain.take n

/-- SPDM certificate slot 0: the header, the root's digest, the chain of the identity record and the alias certificate (R528, R529). -/
def spdmChain (s : State) : List Byte :=
  let chain := identityChain s.flash
  let body := leBytes 64 (Config.sha512 (firstCertificate chain)).toNat ++ chain ++ Config.secret 1 (leBytes 64 s.boot.digest ++ leBytes 8 s.boot.fwVersion)
  leBytes 2 (body.length + 4) ++ leBytes 2 0 ++ body

/-- IDENTITY_CHAIN (R529). -/
def execIdentityChain (q seq : Nat) (s : State) : Host.Outcome State Fault Refusal :=
  hostRow s q seq 0x0704 (fun c =>
    let chain := spdmChain s
    if s.boot.ident then finishCmd s q seq 0x0301 0 0
    else if c.p 8 4 < chain.length then finishCmd s q seq 0x0102 0 0
    else writeCmdRecord s q c (c.p 0 8) chain chain.length)

/-- RESTART: a start is due once the reply is visible (R525). -/
def execRestart (q seq : Nat) (s : State) : Host.Outcome State Fault Refusal :=
  hostRow s q seq 0x0705 (fun c =>
    if 1 < c.p 0 1 ∨ 1 < c.p 1 1 then finishCmd s q seq 0x0102 0 0
    else if c.p 1 1 = 0 ∧ (upTo 63).any (fun k => (jobOf s (k + 1)).st != .free) then finishCmd s q seq 0x0301 0 0
    else finishCmd { s with boot := { s.boot with due := some (decide (c.p 0 1 = 1)), dueReply := some (q, seq) } } q seq 0 0 0)

/-- The content of a measurement block with its value type (R531). -/
def measurement (s : State) (index : Nat) : Nat × List Byte :=
  let r := (bootInForce s.flash).getD 0
  match index with
  | 1 => (0x80, leBytes 2 Config.romVersion ++ leBytes 64 Config.romDigest)
  | 2 => (0x81, leBytes 64 s.boot.digest ++ leBytes 8 s.boot.fwVersion)
  | 3 => (0x83, leBytes 1 s.boot.source ++ leBytes 1 (fld r 16 1) ++ leBytes 8 (fld r 8 8) ++ leBytes 1 (fld r 17 1))
  | 4 => (0x03, leBytes 64 (Config.sha512 (leBytes 4096 s.boot.keyRecord)).toNat)
  | 5 => (0x02, leBytes 64 (Config.sha512 (goodMap s)).toNat)
  | _ => (0x83, leBytes 8 s.cfg.epoch ++ s.regions.flatMap (fun e => match e.2.sig with
      | some g => leBytes 2 e.1 ++ leBytes 1 e.2.job ++ leBytes 8 g.version ++ g.spine
      | none => []))

/-- A measurement block in the DMTF format (R531; PRESUMED, log entry 6). -/
def measurementBlock (s : State) (index : Nat) : List Byte :=
  let m := measurement s index
  leBytes 1 index ++ leBytes 1 1 ++ leBytes 2 (m.2.length + 3) ++ leBytes 1 m.1 ++ leBytes 2 m.2.length ++ m.2

/-- The SPDM requests that H0 supports, with their responses and whether each needs a signature (R531; codes PRESUMED, log entry 6). -/
def spdmResponse (code : Nat) : Option (Nat × Bool) :=
  match code with
  | 0x84 => some (0x04, false)
  | 0xE1 => some (0x61, false)
  | 0xE3 => some (0x63, false)
  | 0x81 => some (0x01, false)
  | 0x82 => some (0x02, false)
  | 0x83 => some (0x03, true)
  | 0xE0 => some (0x60, true)
  | 0xE4 => some (0x64, true)
  | 0xE5 => some (0x65, false)
  | 0xEC => some (0x6C, false)
  | 0xFE => some (0x7E, false)
  | _ => none

/-- The bytes of an SPDM answer: the certificate, its digest, the measurements asked for, and what the alias key signs (R531; log entry 6). -/
def spdmData (s : State) (code : Nat) (params : List Byte) : List Byte :=
  match code with
  | 0x81 => leBytes 64 (Config.sha512 (spdmChain s)).toNat
  | 0x82 => spdmChain s
  | 0xE0 =>
    let idx := leNat ((params.drop 1).take 1)
    let blocks := if idx = 0xFF then (upTo 6).flatMap (fun k => measurementBlock s (k + 1)) else if idx = 0 ∨ 6 < idx then [] else measurementBlock s idx
    blocks ++ Config.secret 2 (blocks ++ params)
  | _ => Config.secret code params

/-- Whether a request fits the state of the exchange and, where it names a slot, names slot 0 (R531; PRESUMED, log entry 6). -/
def spdmAllowed (s : State) (code : Nat) (params : List Byte) : Bool :=
  match code with
  | 0x84 => true
  | 0xE1 => decide (1 ≤ s.boot.spdm)
  | 0xE3 => decide (2 ≤ s.boot.spdm)
  | 0xE5 => decide (s.boot.spdm = 4)
  | 0xEC => s.boot.session
  | 0xFE => s.boot.session
  | 0x82 => decide (3 ≤ s.boot.spdm) && leNat (params.take 1) % 16 == 0
  | 0x83 => decide (3 ≤ s.boot.spdm) && leNat (params.take 1) % 16 == 0
  | 0xE4 => decide (3 ≤ s.boot.spdm) && leNat ((params.drop 1).take 1) % 16 == 0
  | _ => decide (3 ≤ s.boot.spdm)

/-- SPDM_REQUEST: a supported request is answered, any other with an SPDM error (R528, R531). -/
def execSpdmRequest (code : Nat) (params : List Byte) (s : State) : Host.Outcome State Fault Refusal :=
  .next (
    let error (s : State) : State := emit s (.spdm 0x7F [])
    match spdmResponse code with
    | none => error s
    | some (rsp, signed) =>
      if !spdmAllowed s code params || (signed && s.boot.ident) then error s
      else
        let b := s.boot
        let b' := match code with
          | 0x84 => { b with spdm := 1, session := false }
          | 0xE1 => { b with spdm := max 2 b.spdm }
          | 0xE3 => { b with spdm := max 3 b.spdm }
          | 0xE4 => { b with spdm := 4 }
          | 0xE5 => { b with spdm := 3, session := true }
          | 0xEC => { b with session := false }
          | _ => b
        emit { s with boot := b' } (.spdm rsp (spdmData s code params)))

end Sys2Proof.Machine
end

