-- ==== Sys2Proof/Machine/Power.lean ====
section
/-! DEFINITION. Sys2Proof/Machine/Power.lean: power, clocks, junction temperature and the issue level (R568 to R585). -/

namespace Sys2Proof.Machine

/-- POWER_OFF: every converter stops and all state but the flash is lost (R568, R570). -/
def execPowerOff (s : State) : Host.Outcome State Fault Refusal :=
  .next { bareState s with boot := { (bareState s).boot with powered := false } }

/-- INPUT_POWER_FAULT: the input has stayed outside its operating range (R572). -/
def execInputPowerFault (s : State) : Host.Outcome State Fault Refusal :=
  .next (if s.boot.powered then raiseFatal s 0x0012 0x60 else s)

/-- CARRIER_RAIL_FAULT: a converter or the 6 V rail has failed (R572). -/
def execCarrierRailFault (s : State) : Host.Outcome State Fault Refusal :=
  .next (if s.boot.powered then raiseFatal s 0x0013 0x60 else s)

/-- CORE_RAIL_FAILURE: a die's core rail fails (R544, R572). -/
def execCoreRailFailure (die : Nat) (s : State) : Host.Outcome State Fault Refusal :=
  if !isDie die then .fault (.noSuchUnit die blockSite) else .next (if s.boot.powered then dieFails s die 3 else s)

/-- CLOCK_REFERENCE_LOST: the 100 MHz reference is lost (R575). -/
def execClockReferenceLost (s : State) : Host.Outcome State Fault Refusal :=
  .next (if s.boot.powered then raiseFatal { s with pwr := { s.pwr with refOk := false } } 0x0011 0x60 else s)

/-- PLL_LOCK_LOST: one die's PLL loses lock (R575). -/
def execPllLockLost (die : Nat) (s : State) : Host.Outcome State Fault Refusal :=
  if !isDie die then .fault (.noSuchUnit die blockSite) else .next (if s.boot.powered then dieFails s die 2 else s)

/-- TSTATE after a sample: 0 NORMAL, 1 THROTTLE, 2 TRIPPED (R578). -/
def tstateNext (cur tj : Nat) : Nat :=
  if cur = 2 ∨ 115 ≤ tj then 2
  else if cur = 0 then (if 100 ≤ tj then 1 else 0)
  else if tj ≤ 95 then 0 else 1

/-- A cap lowered or raised within 4 to 16 (R579, R580). -/
def capDown (c n : Nat) : Nat := max 4 (c - n)
def capUp (c : Nat) : Nat := min 16 (c + 1)

/-- The STACK cap (R579). -/
def stackCap (d : Die) : Nat := if d.nearState = .throttle ∨ d.nearState = .hold then 8 else 16

/-- A compute die's caps and level recomputed at a sample, power in units of 0.1 W (R579). -/
def recap (s : State) (die power : Nat) : State :=
  let d := dieOf s die
  let thermal := if d.tstate = 1 then capDown d.capThermal 2 else if d.tstate = 0 then capUp d.capThermal else d.capThermal
  let dp := if 1650 < power then capDown d.capPower 1 else if power ≤ 1600 then capUp d.capPower else d.capPower
  let level := min (min thermal (stackCap d)) (min dp s.pwr.pcap)
  let s' := modDie s die (fun d => { d with capThermal := thermal, capPower := dp, capPackage := s.pwr.pcap, level := d.levelNext, levelNext := level, levelAt := s.now })
  if d.levelNext = 16 ∧ level < 16 then raiseCorrected s' 0x0016 0 die 2 0 0 else s'

/-- JUNCTION_THERMAL_SAMPLE: eight junction readings and the die's power of the window just ended, in units of 0.1 W (R578, R579). -/
def execJunctionThermalSample (die : Nat) (temps : List Nat) (power : Nat) (s : State) : Host.Outcome State Fault Refusal :=
  if !isDie die then .fault (.noSuchUnit die blockSite)
  else .next (
    let d := dieOf s die
    if d.fenced ∨ !s.boot.powered then s
    else
      let t := tstateNext d.tstate (maxOf (temps.take 8))
      let s := modDie s die (fun d => { d with tj := temps.take 8, tstate := t })
      if t = 2 ∧ d.tstate ≠ 2 then dieFails s die 4
      else if isCompute die then recap s die power else s)

/-- PCAP after a window (R580). -/
def pcapNext (cap power limit : Nat) : Nat :=
  if limit < power then capDown cap 1 else if power * 100 < limit * 97 then capUp cap else cap

/-- POWER_WINDOW_END: the window's input readings in 10 mV, 10 mA, W and µJ, and each die's power in units of 0.1 W; a die that no longer reports is found lost (R580 to R582, R584 to R586). -/
def execPowerWindowEnd (voltage current power energy : Nat) (dies : List (Nat × Nat)) (s : State) : Host.Outcome State Fault Refusal :=
  .next (
    if !s.boot.powered then s
    else
      let live := dies.filter (fun e => isDie e.1 && !(dieOf s e.1).fenced)
      let s := { s with pwr := { s.pwr with
        pcap := pcapNext s.pwr.pcap power s.pwr.limit
        voltage := min 65535 voltage, current := min 65535 current, power := min 65535 power
        diePower := live.foldl (fun t e => Tab.set e.1 (min 65535 e.2) t) s.pwr.diePower } }
      let s := pkgAdd s 0x100 energy
      let s := live.foldl (fun s e => pkgAdd s (0x1000 + 8 * e.1) e.2) s
      (upTo 100).foldl (fun s d => match (dieOf s d).dead with
        | some c => reportLost s d c
        | none => s) s)

/-- TIMESTAMP_CHECK: each die's offset in ps; one that cannot be held within 2 ns is fenced, and lost dies are found (R577, R586). -/
def execTimestampCheck (offsets : List (Nat × Nat)) (s : State) : Host.Outcome State Fault Refusal :=
  .next (
    if !s.boot.powered then s
    else
      let live := offsets.filter (fun e => isDie e.1 && !(dieOf s e.1).fenced)
      let s := { s with pwr := { s.pwr with alignMax := min 65535 (maxOf (live.map (·.2))) } }
      let s := live.foldl (fun s e => if 2000 < e.2 then dieFails s e.1 2 else s) s
      (upTo 100).foldl (fun s d => match (dieOf s d).dead with
        | some c => reportLost s d c
        | none => s) s)

/-- PWR_LIMIT written by the host or by management; a management write at the time of a host write is taken first (R580, R584). -/
def setLimit (s : State) (v : Nat) (host : Bool) : State :=
  let w := bits v 14 0
  if w < 4000 ∨ 17000 < w then s
  else if host then { s with pwr := { s.pwr with limit := w, hostAt := some s.now } }
  else if s.pwr.hostAt = some s.now then s
  else { s with pwr := { s.pwr with limit := w } }

/-- PWR_LIMIT_WRITE (R580). -/
def execPwrLimitWrite (v : Nat) (host : Bool) (s : State) : Host.Outcome State Fault Refusal := .next (setLimit s v host)

/-- The management outputs: PG_OUT released, FAULT_N low, ALERT_N low (R568). -/
def pgOut (s : State) : Bool := s.boot.powered
def faultLow (s : State) : Bool := s.ev.faultN
def alertLow (s : State) : Bool :=
  (upTo 100).any (fun d => (!(dieOf s d).fenced && isCompute d && decide ((dieOf s d).levelNext < 16)) || (dieOf s d).tstate != 0)

/-- PWR_STATUS, PWR_INPUT and CLK_STATUS (R584). -/
def pwrStatusReg (s : State) : Nat := (if s.pwr.pcap < 16 then 32 else 0) + s.pwr.pcap
def pwrInputReg (s : State) : Nat := s.pwr.voltage * 2 ^ 48 + s.pwr.current * 2 ^ 32 + s.pwr.power
def clkStatusReg (s : State) : Nat := s.pwr.alignMax * 2 ^ 16 + (if s.pwr.refOk then 1 else 0)

/-- PWR_DIEd (R584). -/
def pwrDieReg (s : State) (d : Nat) : Nat :=
  let x := dieOf s d
  if x.fenced then 16 * 2 ^ 48 + (if x.tstate = 2 then 2 * 2 ^ 32 else 0)
  else
    let cause (c k : Nat) : Nat := if isCompute d ∧ c < 16 then 2 ^ k else 0
    min 255 (maxOf x.tj) * 2 ^ 56 + (if isCompute d then x.levelNext else 16) * 2 ^ 48
      + cause x.capThermal 40 + cause (stackCap x) 41 + cause x.capPower 42 + cause x.capPackage 43 + x.tstate * 2 ^ 32 + Tab.get 0 d s.pwr.diePower

/-- A register of the PWR and CLK block by its offset (R584). -/
def pwrReg (s : State) (o : Nat) : Nat :=
  if o = 0 then pwrStatusReg s else if o = 8 then pwrInputReg s else if o = 0x10 then s.pwr.limit else if o = 0x20 then clkStatusReg s else if o = 0x28 then s.now
  else if 0x1000 ≤ o ∧ o < 0x1000 + 8 * 100 ∧ o % 8 = 0 then pwrDieReg s ((o - 0x1000) / 8) else 0

end Sys2Proof.Machine
end

