-- ==== Sys2Proof/Machine/HostPort.lean ====
section
/-! DEFINITION. Sys2Proof/Machine/HostPort.lean: the link, HDM memory, and the host's answers to CXL.cache requests (R233, R234, R255, R473 to R477, R502 to R505). -/

namespace Sys2Proof.Machine

/-- The event record bytes whose writes had no GO, oldest first. -/
def unseenEvents (s : State) : List (List Byte) :=
  s.host.writes.filterMap (fun w => match w.use with
    | .evtEntry _ => some w.bytes
    | _ => none)

/-- A queue at a loss or reset: disabled, its outstanding entry read dropped, entries without GO held again (R502). -/
def queueAtLoss (h : HQueue) : HQueue :=
  if h.enable ∨ h.qstate = 5 then { h with enable := false, qstate := 0, reading := false, entry := none, held := h.writing ++ h.held, writing := [] }
  else { h with reading := false, entry := none, held := h.writing ++ h.held, writing := [] }

/-- Host-port registers and host traffic at a link loss or a reset of the CXL.io function (R477, R502). -/
def resetHostPort (s : State) : State :=
  let lost := unseenEvents s
  { s with
    queues := s.queues.map (fun e => (e.1, queueAtLoss e.2))
    evtRing := { s.evtRing with enable := false }
    ev := { s.ev with held := lost ++ s.ev.held }
    msix := [], msixPending := []
    decoders := s.decoders.map (fun e => (e.1, { e.2 with committed := false }))
    biLines := [], biOld := []
    net := { s.net with mapRing := none }
    boot := { s.boot with session := false }
    host := { s.host with
      reads := s.host.reads.filter (fun r => match r.use with
        | .entry _ _ => false
        | _ => true)
      writes := s.host.writes.filter (fun w => match w.use with
        | .cqEntry _ => false
        | .evtEntry _ => false
        | .map => false
        | _ => true) } }

/-- LINK_DOWN (R502). -/
def execLinkDown (s : State) : Host.Outcome State Fault Refusal :=
  .next (
    if !s.link.up then s
    else
      let s := resetHostPort s
      raiseCorrected { s with link := { s.link with up := false, width := 0, rate := 0, downTime := s.now, graceRuns := true } } 0x0020 0 0x60 0 0 0)

/-- CXL_RESET: the CXL.io function is reset; jobs and memory are not (R477). -/
def execCxlReset (_kind : Nat) (s : State) : Host.Outcome State Fault Refusal := .next (resetHostPort s)

/-- Requests to the host do not age while the link is down: the time since it went down, or since a later request, is added to their start (R264). -/
def ageShift (s : State) (down : Nat) : State :=
  let up (t : Nat) : Nat := t + (s.now - max t down)
  { s with
    host := { s.host with reads := s.host.reads.map (fun r => { r with since := up r.since }), writes := s.host.writes.map (fun w => { w with since := up w.since }) }
    net := { s.net with nis := s.net.nis.map (fun e => (e.1, { e.2 with out := e.2.out.map (fun o => if o.msg.dst.port = portHost ∧ o.msg.dst.site = blockSite then { o with first := up o.first } else o) })) } }

/-- LINK_UP (R474, R481, R503, R504). -/
def execLinkUp (width rate : Nat) (s : State) : Host.Outcome State Fault Refusal :=
  .next (
    if s.link.up ∨ s.boot.dmode = 0 ∨ !([4, 8, 16].contains width) ∨ !([32, 64, 128].contains rate) then s
    else
      let l := s.link
      let s := ageShift s l.downTime
      let s := { s with link := { l with
        up := true, width := width, rate := rate, attaches := min 255 (l.attaches + 1), upTime := s.now
        graceRuns := l.graceRuns && decide (l.downTime + l.grace * 1000000000 < s.now) } }
      mirrorPump (raiseCorrected s 0x0021 0 0x60 0 0 (width + rate * 2 ^ 16)))

/-- A job whose suspension by the grace period is owed taken further: begun, carried on, or ended with its notice (R503). -/
def graceStep (s : State) (j : Nat) : State :=
  let x := jobOf s j
  if !x.graceDue then s
  else match x.st with
    | .active =>
      let s := stopJobMirror s j
      if jobBusy s j then s else beginSuspend s j none
    | .suspending =>
      let p := suspendStep s j
      if p.2 then postNotice (modJob p.1 j (fun x => { x with graceDue := false })) j 0x030B 0 else p.1
    | .resuming => s
    | _ => modJob s j (fun x => { x with graceDue := false })

/-- GRACE_EXPIRY: the grace period has ended with the link down, and every ACTIVE job is suspended; the row is executed again until each has been (R503). -/
def execGraceExpiry (s : State) : Host.Outcome State Fault Refusal :=
  .next (
    let due := s.link.graceRuns && decide (s.link.downTime + s.link.grace * 1000000000 < s.now)
    let s := if due then
        raiseCorrected { s with
          link := { s.link with graceRuns := false, graceExpired := true }
          jobs := s.jobs.map (fun e => if e.1 ≠ 0 ∧ (e.2.st = .active ∨ e.2.st = .resuming) then (e.1, { e.2 with graceDue := true }) else e) } 0x0022 0 0x60 0 0 0
      else s
    (upTo 63).foldl (fun s k => graceStep s (k + 1)) s)

/-- HDM_DECODER_COMMIT: a decoder commits when its size equals its window, else it reports a commit error (R233, R476). -/
def execHdmDecoderCommit (dec base size : Nat) (s : State) : Host.Outcome State Fault Refusal :=
  .next (
    if 1 < dec then s
    else
      let ok := size == hdmSize s dec && size != 0
      { s with decoders := Tab.set dec { base := base, committed := ok, error := !ok } s.decoders })

/-- The device address to which a host physical address maps through a committed decoder (R233). -/
def hdmAddress (s : State) (hpa : Nat) : Option Nat :=
  ([0, 1].filterMap (fun k => match Tab.find? k s.decoders with
    | some d => if d.committed ∧ d.base ≤ hpa ∧ hpa < d.base + hdmSize s k then some ((k + 1) * 2 ^ 59 + (hpa - d.base)) else none
    | none => none)).head?

/-- The place of a host access that may be carried out: its page OWNED with HOSTVIS, its granule backed (R234). -/
def hdmPlace (s : State) (a : Nat) : Option Place :=
  let ok (p : Place) : Option Place :=
    let pg := pageOf s p.page
    (match pg.st with
    | .owned _ => if pg.hostvis then some p else none
    | _ => none)
  match placeOf s a with
  | .near d o c => ok (.near d o c)
  | .far hc o => ok (.far hc o)
  | _ => none

/-- A place n bytes on, within one granule. -/
def Place.plus (p : Place) (n : Nat) : Place :=
  match p with
  | .near d o c => .near d (o + n) c
  | .far hc o => .far hc (o + n)
  | p => p

/-- A host access denied (R234). -/
def hdmDenied (s : State) (a : Nat) : State := raiseCorrected s 0x0023 0 0x60 0 0 a

/-- What the decode of one word of a host access leaves: its errors counted, or a word beyond correction noted as a contained error of the page's owner (R234, R237, R241). -/
def hdmWordNoted (s : State) (p : Place) (a : Nat) (r : Option Word × Bool) : State :=
  match r.1 with
  | none => uncorrectableAt s p a (pageOwner (pageOf s p.page)) false
  | some _ => if r.2 then placeTel s p false 1 else s

/-- HDM_READ: a host read of a line through a decoder: its data, or poison; it waits while its stack is in HOLD (R217, R233, R234; log entry 110). -/
def execHdmRead (hpa : Nat) (u : Upset) (s : State) : Host.Outcome State Fault Refusal :=
  .next (
    let line := hpa / 64 * 64
    let s := { s with flips := addUpsets s.flips u }
    match hdmAddress s line with
    | none => s
    | some a =>
      match hdmPlace s a with
      | none => emit (hdmDenied s (a + hpa % 64)) (.hdm hpa none)
      | some p =>
        if placeHeld s p then s else
        let r0 := decodeAt s p.home
        let r1 := decodeAt r0.1 (p.plus 32).home
        let s := hdmWordNoted (hdmWordNoted r1.1 p a r0.2) (p.plus 32) (a + 32) r1.2
        match r0.2.1, r1.2.1 with
        | some w0, some w1 =>
          let bytes := (Tab.find? p.home s.biOld).getD (leBytes 32 w0.toNat ++ leBytes 32 w1.toNat)
          emit { s with biLines := if s.biLines.contains p.home then s.biLines else s.biLines ++ [p.home] } (.hdm hpa (some bytes))
        | _, _ => emit s (.hdm hpa none))

/-- The bytes of a list replaced where a mask has its bit set. -/
def mergeMasked (mask k : Nat) : List Byte → List Byte → List Byte
  | o :: os, n :: ns => (if bit mask k then n else o) :: mergeMasked mask (k + 1) os ns
  | os, _ => os

/-- A word of a host write merged with what memory holds and stored (R211, R476). -/
def hdmStore (s : State) (p : Place) (a mask : Nat) (data : List Byte) : State :=
  if mask % 2 ^ 32 = 0 then s
  else if mask % 2 ^ 32 = 2 ^ 32 - 1 then markDirty (storeBytes s p.home data) p
  else
    let r := decodeAt s p.home
    let s := hdmWordNoted r.1 p a r.2
    match r.2.1 with
    | some w => markDirty (storeBytes s p.home (mergeMasked mask 0 (leBytes 32 w.toNat) data)) p
    | none => s

/-- HDM_WRITE: a host write of a line's bytes through a decoder, by its byte enables; it waits while its stack is in HOLD (R217, R233, R234, R476; log entry 110). -/
def execHdmWrite (hpa mask : Nat) (data : BitVec 512) (s : State) : Host.Outcome State Fault Refusal :=
  .next (
    match hdmAddress s (hpa / 64 * 64) with
    | none => s
    | some a =>
      match hdmPlace s a with
      | none => hdmDenied s (a + hpa % 64)
      | some p =>
        if placeHeld s p then s else
        let bytes := leBytes 64 data.toNat
        let s := { s with biOld := s.biOld.map (fun e => if e.1 = p.home then (e.1, mergeMasked mask 0 e.2 bytes) else e) }
        hdmStore (hdmStore s p a mask (bytes.take 32)) (p.plus 32) (a + 32) (mask / 2 ^ 32) (bytes.drop 32))

/-- BACK_INVALIDATE_SNOOP_RESPONSE: the host has let a line go, and what was written to it is visible (R233). -/
def execBackInvalidateSnoopResponse (addr : Nat) (s : State) : Host.Outcome State Fault Refusal :=
  .next (
    let l := addr / 64 * 64
    { s with biLines := s.biLines.filter (fun x => x != l), biOld := Tab.erase l s.biOld })

/-- A host access of a mull request that met poison or an error: a stream's engine is told HOST_STREAM_ERROR, another issuer HOST_READ_FAILED (R255, R268, R499). -/
def hostRefused (s : State) (m : Msg) : State := if m.src.port = portStream ∧ m.src.site ≠ blockSite then errorEvent s m 0x0303 else errorStatus s m 0x0404

/-- What a write's GO or error brings about (R255, R273, R482, R490). -/
def writeAnswered (s : State) (w : HostWrite) (err : Bool) : State :=
  match w.use with
  | .msg m => if err then hostRefused s m else ack s m
  | .command q seq => if err then hostWrite s w.addr w.bytes (.command q seq) else flushReplies s q
  | .cqEntry q => entryVisible s q err
  | .evtEntry _ => evtVisible s w.bytes (err || w.addr != hostAddr (s.evtRing.base + 32 * s.evtRing.tail))
  | .map => if !err && w.bytes.length == 8 && s.mapVector != 0xFFFF then raiseVector s s.mapVector else s
  | .headstock => s
  | .mirror => mirrorGo s err
  | .consumed => if err then hostWrite s w.addr w.bytes .consumed else s
  | .capture job last => captureGo s job last err

/-- HOST_GO_RECEIVED: a GO makes a write visible, an error response leaves host memory as it was (R255). -/
def execHostGoReceived (id : Nat) (err : Bool) (s : State) : Host.Outcome State Fault Refusal :=
  .next (match s.host.writes.find? (fun w => w.id == id) with
    | none => s
    | some w =>
      if !s.link.up then s
      else
        let s := { s with host := { s.host with writes := s.host.writes.filter (fun x => x.id != id) } }
        writeAnswered (if err then s else storeBytes s w.addr w.bytes) w err)

/-- The words of bytes. -/
def wordsOf (bs : List Byte) : List Word := (chunks 32 ((bs.length + 31) / 32) bs).map (fun c => BitVec.ofNat 256 (leNat c))

/-- What a read's data brings about, none within standing for poison or an error (R255, R417, R485, R488, R555). -/
def readAnswered (s : State) (r : HostRead) (data : Option (List Byte)) : State :=
  match r.use with
  | .msg m => match data with
    | some bs => answer s m (wordsOf bs)
    | none => hostRefused s m
  | .image off => imageArrived s off data
  | .entry q _ => modQ s q (fun h => { h with reading := false, entry := some (data.map (fun bs => BitVec.ofNat 512 (leNat bs))) })
  | .param q seq => match data with
    | some bs => modCmd s q seq (fun c => { c with params := bs, stage := .ready })
    | none => finishCmd s q seq 0x0404 0 0
  | .consumed => consumedRead s data
  | .firmware => { s with boot := { s.boot with fw := s.boot.fw.map (fun w => { w with data := some data }) } }

/-- HOST_READ_DATA: the data of a read arrives, or poison or an error response (R255). -/
def execHostReadData (id : Nat) (data : Option (List Byte)) (s : State) : Host.Outcome State Fault Refusal :=
  .next (match s.host.reads.find? (fun r => r.id == id) with
    | none => s
    | some r =>
      if !s.link.up then s
      else readAnswered { s with host := { s.host with reads := s.host.reads.filter (fun x => x.id != id) } } r (data.map (padTo r.bytes)))

/-- With no command waiting, the package timestamp counts one T-clock cycle of 1 ns (R10; log entry 3). -/
def idle (s : State) : State := { s with now := s.now + 1 }

end Sys2Proof.Machine
end

