-- ==== Sys2Proof/Machine/Registers.lean ====
section
/-! DEFINITION. Sys2Proof/Machine/Registers.lean: the registers of BAR0 as they read and are written, configuration space, and the management interface (R130, R227, R382, R383, R478 to R483, R500, R501, R533, R563, R564, R568, R584, R585). -/

namespace Sys2Proof.Machine

/-- QSTATE as it reads (R483). -/
def qstateReg (h : HQueue) : Nat :=
  if h.qstate ≠ 1 then h.qstate
  else if h.cmds.any (fun c => c.isWait && c.reply.isNone && c.stage == .working) then 2
  else if h.cqFull then 3 else 1

/-- HST_Q_CFG (R483). -/
def queueCfgReg (h : HQueue) : Nat := (if h.enable then 2 ^ 63 else 0) + h.vector * 2 ^ 32 + h.cqLog2 * 2 ^ 16 + h.sqLog2

/-- HST_Q_STATE (R483). -/
def queueStateReg (h : HQueue) : Nat :=
  h.dups * 2 ^ 32 + h.cmds.length * 2 ^ 24 + (if h.rdErr then 2 ^ 11 else 0) + (if h.cfgErr then 2 ^ 10 else 0)
    + (if h.dbErr then 2 ^ 9 else 0) + (if h.seqErr then 2 ^ 8 else 0) + qstateReg h

/-- A register of a queue by its offset (R483). -/
def queueReg (h : HQueue) (o : Nat) : Nat :=
  match o with
  | 0x00 => h.sqBase
  | 0x08 => h.cqBase
  | 0x10 => queueCfgReg h
  | 0x18 => queueStateReg h
  | 0x20 => h.lastAccepted
  | 0x28 => h.lastReplied
  | 0x30 => h.lastNotice
  | 0x38 => (if h.phase then 2 ^ 32 else 0) + h.cqTail * 2 ^ 16 + h.sqHead
  | 0x48 => h.oldest true * 2 ^ 32 + h.oldest false
  | _ => 0

/-- HST_STATUS (R481). -/
def hstStatusReg (s : State) : Nat :=
  s.link.attaches * 2 ^ 32 + s.link.rate * 2 ^ 16 + s.link.width * 2 ^ 8 + (if s.link.graceExpired then 16 else 0) + s.boot.dmode

/-- HST_EVT_CFG (R481). -/
def evtCfgReg (g : EvtRing) : Nat := (if g.enable then 2 ^ 63 else 0) + g.vector * 2 ^ 32 + g.log2

/-- A register of the HST block (R478, R481, R483). -/
def hstReg (s : State) (o : Nat) : Nat :=
  if 0x1000 ≤ o ∧ o < 0x1000 + 0x80 * 65 then queueReg (qOf s ((o - 0x1000) / 0x80)) ((o - 0x1000) % 0x80)
  else if 0x40000 ≤ o ∧ o < 0x48000 then Tab.get (2 ^ 96) ((o - 0x40000) / 16) s.msix / 2 ^ (8 * (o % 16)) % 2 ^ 64
  else if 0x48000 ≤ o ∧ o < 0x48100 then (upTo 64).foldl (fun n k => n + (if s.msixPending.contains ((o - 0x48000) * 8 + k) then 2 ^ k else 0)) 0
  else match o with
    | 0x00 => 256 * 2 ^ 48 + 2048 * 2 ^ 32 + 65 * 2 ^ 24 + 16 * 2 ^ 16 + 1024
    | 0x08 => hstStatusReg s
    | 0x10 => s.link.grace
    | 0x18 => s.link.downTime
    | 0x20 => s.link.upTime
    | 0x40 => s.evtRing.base
    | 0x48 => evtCfgReg s.evtRing
    | 0x50 => s.evtRing.tail
    | 0x58 => s.evtRing.head
    | 0x60 => s.ev.lost
    | _ => 0

/-- A register of the BOOT block (R533). -/
def bootReg (s : State) (o : Nat) : Nat :=
  match o with
  | 0x00 => s.boot.reason * 2 ^ 56 + s.boot.failCount * 2 ^ 48 + s.boot.phase * 2 ^ 32 + (if s.boot.ident then 2 ^ 16 else 0) + s.boot.source
  | 0x08 => s.boot.recordSeq
  | 0x10 => s.boot.fwVersion
  | 0x18 => s.boot.doneTime
  | _ => 0

/-- JOB_WINj_w BASE or LIMIT (R501). -/
def jobWindowReg (s : State) (j w : Nat) (limit : Bool) : Nat :=
  match Tab.find? w (jobOf s j).windows with
  | none => 0
  | some (a, n, perm) =>
    let base := a % 2 ^ 52
    if limit then 2 ^ 63 + perm % 4 * 2 ^ 58 + (base + n - 1) / 4096 * 4096 % 2 ^ 52 else base / 4096 * 4096

/-- The pages of the package in a condition, near and far (R501). -/
def pageFigure (s : State) (p : Nat → Bool) : Nat :=
  let near := (s.goodDies.flatMap (fun d => (upTo (2 ^ 15)).map (fun n => d * 2 ^ 15 + n))).filter (fun k => pageExists s k && p k)
  let far := ((upTo (2 ^ 14 * s.goodFar.length)).map (fun n => 2 ^ 22 + n)).filter (fun k => pageExists s k && p k)
  far.length * 2 ^ 32 + near.length

/-- A register of the JOB block (R472, R501). -/
def jobReg (s : State) (o : Nat) : Nat :=
  if o < 0x4000 then jobWindowReg s (o / 0x100) (o % 0x100 / 0x10) (o % 0x10 == 8)
  else if 0x10000 ≤ o ∧ o < 0x10000 + 0x100 * 64 then
    let j := (o - 0x10000) / 0x100
    let r := o % 0x100
    if r = 0 then jobStateReg s j else if r = 8 then jobPagesReg s j else if r ≤ 0x48 then jobCounterReg s j r else 0
  else if o = 0x20000 then pageFigure s (fun k => decide ((pageOf s k).st = .free) && !(pageOf s k).zeroing && !pageOnLost s k)
  else if o = 0x20008 then pageFigure s (fun k => (pageOf s k).zeroing)
  else if o = 0x20010 then pageFigure s (fun k => decide ((pageOf s k).st = .retired) || (decide ((pageOf s k).st = .free) && pageOnLost s k))
  else 0

/-- A register of the KTL block (R500). -/
def ktlReg (s : State) (o : Nat) : Nat :=
  let j := o / 0x1000
  if 1 ≤ j ∧ j ≤ 63 ∧ o % 0x1000 = 8 then (qOf s j).ktlStatus * 2 ^ 48 + (qOf s j).ktlDropped else 0

/-- DBG_PKG_STATUS (R563). -/
def pkgStatusReg (s : State) : Nat :=
  s.ev.firstFatal * 2 ^ 48 + (if (dieOf s 0x61).fenced then 2 else 0) + (if (dieOf s 0x62).fenced then 4 else 0) + (if (dieOf s 0x63).fenced then 8 else 0) + (if s.ev.fatal then 1 else 0)

/-- DBG_PAIR_STATUS (R563). -/
def pairStatusReg (s : State) : Nat :=
  (match s.pair.mirror with
  | some m => m.job * 2 ^ 10 + 4
  | none => 0) + s.pair.role

/-- What DBG_WIN shows at an offset of the window that DBG_WIN_SELECT names; the die block's per-kettle registers read 0 (R563). -/
def dbgWinReg (s : State) (o : Nat) : Nat :=
  let sel := Tab.get 0 0x01000000 s.bar0
  let die := bits sel 6 0
  let site := bits sel 25 16
  if !winExists die site then 0
  else if site = blockSite ∧ ((0x10000 ≤ o ∧ o ≤ 0x3FFFF ∧ isCompute die) ∨ (0x10000 ≤ o ∧ o ≤ 0x3FFFF ∧ isHub die) ∨ (0x60000 ≤ o ∧ o ≤ 0x7FFFF)) then 0
  else winReg s die site o

/-- A register of the DBG block (R563). -/
def dbgReg (s : State) (o : Nat) : Nat :=
  if o = 0 then Tab.get 0 0x01000000 s.bar0
  else if o = 0x10 then pkgStatusReg s
  else if o = 0x18 then pairStatusReg s
  else if o = 0x20 then s.pair.ckptDone
  else if 0x80000 ≤ o ∧ o < 0x100000 then dbgWinReg s (o - 0x80000)
  else 0

/-- The 8 bytes of BAR0 at a multiple of 8 (R478). -/
def bar0Reg (s : State) (o : Nat) : Nat :=
  (if o < 0x00100000 then hstReg s o
  else if o < 0x00200000 then bootReg s (o - 0x00100000)
  else if o < 0x00400000 then jobReg s (o - 0x00200000)
  else if o < 0x00800000 then ktlReg s (o - 0x00400000)
  else if o < 0x00C00000 then Tab.get 0 (pkgKey (o - 0x00800000)) s.tel
  else if o < 0x01000000 then pwrReg s (o - 0x00C00000)
  else if o < 0x04000000 then dbgReg s (o - 0x01000000)
  else 0) % 2 ^ 64

/-- A read of BAR0: naturally aligned accesses of 4 or 8 bytes, any other reading 0 (R479). -/
def bar0Read (s : State) (o size : Nat) : Nat :=
  if (size = 4 ∨ size = 8) ∧ o % size = 0 then bar0Reg s (o / 8 * 8) / 2 ^ (8 * (o % 8)) % 2 ^ (8 * size) else 0

/-- A write of a queue's registers; the write-1-to-clear bits take only what was written (R483, R484). -/
def queueWrite (s : State) (q o size v w : Nat) : State :=
  let h := qOf s q
  match o with
  | 0x00 => if h.enable then s else setQ s q { h with sqBase := bits v 51 6 * 64 }
  | 0x08 => if h.enable then s else setQ s q { h with cqBase := bits v 51 6 * 64 }
  | 0x10 =>
    if bit v 63 then enableQueue s q v
    else
      let h := { h with vector := bits v 42 32 }
      disableQueue (setQ s q (if h.enable then h else { h with cqLog2 := bits v 19 16, sqLog2 := bits v 3 0 })) q
  | 0x18 => setQ s q { h with rdErr := h.rdErr && !bit w 11, cfgErr := h.cfgErr && !bit w 10, dbErr := h.dbErr && !bit w 9, seqErr := h.seqErr && !bit w 8 }
  | 0x40 => if !h.enable ∧ size = 8 then setQ s q { h with replay := some (bits v 63 32, bits v 31 0) } else s
  | _ => s

/-- A write of the MSI-X table; an entry whose mask is cleared sends what is pending (R478). -/
def msixWrite (s : State) (o v : Nat) : State :=
  let k := (o - 0x40000) / 16
  let old := Tab.get (2 ^ 96) k s.msix
  let new := if o % 16 = 0 then old / 2 ^ 64 * 2 ^ 64 + v % 2 ^ 64 else v % 2 ^ 64 * 2 ^ 64 + old % 2 ^ 64
  let s := { s with msix := Tab.set k new s.msix }
  if !bit new 96 ∧ s.msixPending.contains k then raiseVector { s with msixPending := s.msixPending.filter (fun x => x != k) } k else s

/-- The 8 bytes at a multiple of 8 written: v what they would hold, w what was written, 0 elsewhere (R14, R479 to R483, R500, R563, R584). -/
def bar0Put (s : State) (o size v w : Nat) : State :=
  if 0x1000 ≤ o ∧ o < 0x1000 + 0x80 * 65 then queueWrite s ((o - 0x1000) / 0x80) ((o - 0x1000) % 0x80) size v w
  else if 0x40000 ≤ o ∧ o < 0x48000 then msixWrite s o v
  else if 0x00400000 ≤ o ∧ o < 0x00440000 ∧ o % 0x1000 = 0 then
    let j := (o - 0x00400000) / 0x1000
    let kop := bits v 63 56
    if size ≠ 8 ∨ j = 0 then s
    else if kop = 1 ∨ kop = 4 then ktlOp s j kop (bits v 47 32) (bits v 31 0)
    else ktlDrop s j 0x0102
  else if 0x00800000 ≤ o ∧ o < 0x00C00000 then
    (if bit w 63 ∧ (Tab.find? (pkgKey (o - 0x00800000)) s.tel).isSome then { s with tel := Tab.modify 0 (pkgKey (o - 0x00800000)) (fun r => r % 2 ^ 63) s.tel } else s)
  else match o with
    | 0x08 => if bit w 4 then { s with link := { s.link with graceExpired := false } } else s
    | 0x10 => if 60 < bits v 5 0 then s else { s with link := { s.link with grace := bits v 5 0 } }
    | 0x40 => if s.evtRing.enable then s else { s with evtRing := { s.evtRing with base := bits v 51 5 * 32 } }
    | 0x48 =>
      if 12 < bits v 3 0 then s
      else
        let on := bit v 63
        let g := { evtFields s.evtRing v with enable := on }
        pumpEvents { s with evtRing := if on && !s.evtRing.enable then { g with tail := 0, head := 0 } else g }
    | 0x58 => if evtSlots s.evtRing ≤ bits v 15 0 then s else pumpEvents { s with evtRing := { s.evtRing with head := bits v 15 0 } }
    | 0x60 => if bit w 63 then { s with ev := { s.ev with lost := s.ev.lost % 2 ^ 63 } } else s
    | 0x00C00010 => setLimit s v true
    | 0x01000000 => { s with bar0 := Tab.set 0x01000000 (bits v 25 16 * 2 ^ 16 + bits v 6 0) s.bar0 }
    | _ => s

/-- A write to BAR0: a 4-byte write changes its half only, and any other size or a misaligned one is ignored (R479). -/
def bar0Write (s : State) (o size v : Nat) : State :=
  if (size = 4 ∨ size = 8) ∧ o % size = 0 then
    let w := v % 2 ^ (8 * size) * 2 ^ (8 * (o % 8))
    let cur := bar0Reg s (o / 8 * 8)
    let rest := if size = 8 then 0 else if o % 8 = 0 then cur / 2 ^ 32 * 2 ^ 32 else cur % 2 ^ 32
    bar0Put s (o / 8 * 8) size (rest + w) w
  else s

/-- REGISTER_WRITE: a host write to BAR0 (R13 to R15, R479). -/
def execRegisterWrite (off size v : Nat) (s : State) : Host.Outcome State Fault Refusal := .next (bar0Write s off size v)

/-- CFG_REG: a read or write of a configuration window, or of BAR0 at H0's HOST port (R227, R382, R383; log entry 17). -/
def execCfgReg (m : Msg) (s : State) : Host.Outcome State Fault Refusal :=
  applyMsg s m (fun s =>
    let a := m.arg.toNat
    let off := bits a 31 0
    let size := bits a 39 32
    let write := bit a 40
    let v := (m.data.headD 0).toNat % 2 ^ 64
    if m.typ ≠ 0x0A then s
    else if m.dst.port = portHost then
      (if write then ack (bar0Write s off size v) m else answer s m [BitVec.ofNat 256 (bar0Read s off size)])
    else if !winExists m.dst.die m.dst.site then (if write then ack s m else answer s m [0])
    else if write then ack (winWrite s m.dst.die m.dst.site off size v) m
    else answer s m [BitVec.ofNat 256 (winReg s m.dst.die m.dst.site (off / 8 * 8) / 2 ^ (8 * (off % 8)) % 2 ^ (8 * size))])

/-- Whether a management read reaches a register: the PWR and CLK block, the TEL registers of R585, BOOT_STATUS and DBG_PKG_STATUS (R568). -/
def mgmtReads (o : Nat) : Bool :=
  (decide (0x00C00000 ≤ o) && decide (o < 0x01000000)) || (decide (0x00800100 ≤ o) && decide (o ≤ 0x00800118))
    || (decide (0x00801000 ≤ o) && decide (o < 0x00801000 + 8 * 100)) || o == 0x00100000 || o == 0x01000010

/-- MGMT_TRANSACTION: a transaction of the management interface reads 8 bytes, or writes PWR_LIMIT (R568, R580). -/
def execMgmtTransaction (off : Nat) (write : Option Nat) (s : State) : Host.Outcome State Fault Refusal :=
  .next (
    if !s.boot.powered then s
    else match write with
      | some v => if off = 0x00C00010 then setLimit s v false else s
      | none => emit s (.reg off (if mgmtReads off then bar0Read s off 8 else 0)))

end Sys2Proof.Machine
end

