-- ==== Sys2Proof/Machine/Dispatch.lean ====
section
/-! DEFINITION. Sys2Proof/Machine/Dispatch.lean: one arm per command, each one call of its meaning. -/

namespace Sys2Proof.Machine

def exec (i : Instr) (s : State) : Host.Outcome State Fault Refusal :=
  match i with
  | .start obs => Sys2Proof.Machine.execStart obs s
  | .startWatchdogExpiry => Sys2Proof.Machine.execStartWatchdogExpiry s
  | .powerOff => Sys2Proof.Machine.execPowerOff s
  | .inputPowerFault => Sys2Proof.Machine.execInputPowerFault s
  | .carrierRailFault => Sys2Proof.Machine.execCarrierRailFault s
  | .coreRailFailure die => Sys2Proof.Machine.execCoreRailFailure die s
  | .clockReferenceLost => Sys2Proof.Machine.execClockReferenceLost s
  | .pllLockLost die => Sys2Proof.Machine.execPllLockLost die s
  | .junctionThermalSample die temps power => Sys2Proof.Machine.execJunctionThermalSample die temps power s
  | .powerWindowEnd voltage current power energy dies => Sys2Proof.Machine.execPowerWindowEnd voltage current power energy dies s
  | .stackThermalSample die t0 t1 t2 t3 => Sys2Proof.Machine.execStackThermalSample die t0 t1 t2 t3 s
  | .nearThermalTimeout die => Sys2Proof.Machine.execNearThermalTimeout die s
  | .timestampCheck offsets => Sys2Proof.Machine.execTimestampCheck offsets s
  | .jobCounterUpdate => Sys2Proof.Machine.execJobCounterUpdate s
  | .mgmtTransaction off write => Sys2Proof.Machine.execMgmtTransaction off write s
  | .pwrLimitWrite v host => Sys2Proof.Machine.execPwrLimitWrite v host s
  | .registerWrite off size v => Sys2Proof.Machine.execRegisterWrite off size v s
  | .linkDown => Sys2Proof.Machine.execLinkDown s
  | .linkUp width rate => Sys2Proof.Machine.execLinkUp width rate s
  | .graceExpiry => Sys2Proof.Machine.execGraceExpiry s
  | .cxlReset kind => Sys2Proof.Machine.execCxlReset kind s
  | .hdmDecoderCommit dec base size => Sys2Proof.Machine.execHdmDecoderCommit dec base size s
  | .hdmRead hpa u => Sys2Proof.Machine.execHdmRead hpa u s
  | .hdmWrite hpa mask data => Sys2Proof.Machine.execHdmWrite hpa mask data s
  | .snoopResponse addr => Sys2Proof.Machine.execSnoopResponse addr s
  | .hostGoReceived id err => Sys2Proof.Machine.execHostGoReceived id err s
  | .hostReadData id data => Sys2Proof.Machine.execHostReadData id data s
  | .spdmRequest code params => Sys2Proof.Machine.execSpdmRequest code params s
  | .sqTail q v => Sys2Proof.Machine.execSqTail q v s
  | .cqHead q v => Sys2Proof.Machine.execCqHead q v s
  | .queueEnable q cfg => Sys2Proof.Machine.execQueueEnable q cfg s
  | .queueDisable q => Sys2Proof.Machine.execQueueDisable q s
  | .queueDrained q => Sys2Proof.Machine.execQueueDrained q s
  | .hstQReplay q v size => Sys2Proof.Machine.execHstQReplay q v size s
  | .hstEvtCfg v => Sys2Proof.Machine.execHstEvtCfg v s
  | .hstEvtHead v => Sys2Proof.Machine.execHstEvtHead v s
  | .ktlSignal j rank operand => Sys2Proof.Machine.execKtlSignal j rank operand s
  | .ktlReset j rank operand => Sys2Proof.Machine.execKtlReset j rank operand s
  | .submissionEntryRead q => Sys2Proof.Machine.execSubmissionEntryRead q s
  | .commandStart q => Sys2Proof.Machine.execCommandStart q s
  | .replyWrite q => Sys2Proof.Machine.execReplyWrite q s
  | .deviceInfo q seq => Sys2Proof.Machine.execDeviceInfo q seq s
  | .goodUnitMap q seq => Sys2Proof.Machine.execGoodUnitMap q seq s
  | .hostWindowSet q seq => Sys2Proof.Machine.execHostWindowSet q seq s
  | .loadImage q seq => Sys2Proof.Machine.execLoadImage q seq s
  | .loadVerify => Sys2Proof.Machine.execLoadVerify s
  | .loadStage => Sys2Proof.Machine.execLoadStage s
  | .loadCheck => Sys2Proof.Machine.execLoadCheck s
  | .loadCommit uncorr => Sys2Proof.Machine.execLoadCommit uncorr s
  | .regionStart region => Sys2Proof.Machine.execRegionStart region s
  | .rollbackConfig q seq => Sys2Proof.Machine.execRollbackConfig q seq s
  | .configStatus q seq => Sys2Proof.Machine.execConfigStatus q seq s
  | .createJob q seq => Sys2Proof.Machine.execCreateJob q seq s
  | .killJob q seq => Sys2Proof.Machine.execKillJob q seq s
  | .suspendJob q seq => Sys2Proof.Machine.execSuspendJob q seq s
  | .resumeJob q seq => Sys2Proof.Machine.execResumeJob q seq s
  | .allocRegion q seq => Sys2Proof.Machine.execAllocRegion q seq s
  | .freeRegion q seq => Sys2Proof.Machine.execFreeRegion q seq s
  | .allocMem q seq => Sys2Proof.Machine.execAllocMem q seq s
  | .freeMem q seq => Sys2Proof.Machine.execFreeMem q seq s
  | .allocKettles q seq => Sys2Proof.Machine.execAllocKettles q seq s
  | .freeKettles q seq => Sys2Proof.Machine.execFreeKettles q seq s
  | .jobStatus q seq => Sys2Proof.Machine.execJobStatus q seq s
  | .captureDiscard q seq => Sys2Proof.Machine.execCaptureDiscard q seq s
  | .captureDelivery job => Sys2Proof.Machine.execCaptureDelivery job s
  | .pageZeroingComplete page => Sys2Proof.Machine.execPageZeroingComplete page s
  | .servingConfig q seq => Sys2Proof.Machine.execServingConfig q seq s
  | .modelRegister q seq => Sys2Proof.Machine.execModelRegister q seq s
  | .modelUnregister q seq => Sys2Proof.Machine.execModelUnregister q seq s
  | .modelPin q seq => Sys2Proof.Machine.execModelPin q seq s
  | .timedConfig q seq => Sys2Proof.Machine.execTimedConfig q seq s
  | .streamEnqueue q seq => Sys2Proof.Machine.execStreamEnqueue q seq s
  | .taskCancel q seq => Sys2Proof.Machine.execTaskCancel q seq s
  | .kettleSignal q seq => Sys2Proof.Machine.execKettleSignal q seq s
  | .kettleReset q seq => Sys2Proof.Machine.execKettleReset q seq s
  | .kettleWaitConsume q seq => Sys2Proof.Machine.execKettleWaitConsume q seq s
  | .kettleWaitObserve q seq => Sys2Proof.Machine.execKettleWaitObserve q seq s
  | .kettleInspect q seq => Sys2Proof.Machine.execKettleInspect q seq s
  | .sync q seq => Sys2Proof.Machine.execSync q seq s
  | .mapRingSet q seq => Sys2Proof.Machine.execMapRingSet q seq s
  | .mapRingClear q seq => Sys2Proof.Machine.execMapRingClear q seq s
  | .pairRole q seq => Sys2Proof.Machine.execPairRole q seq s
  | .mirrorStart q seq => Sys2Proof.Machine.execMirrorStart q seq s
  | .mirrorStop q seq => Sys2Proof.Machine.execMirrorStop q seq s
  | .checkpoint q seq => Sys2Proof.Machine.execCheckpoint q seq s
  | .mirrorRecordConsume record => Sys2Proof.Machine.execMirrorRecordConsume record s
  | .pairMirrorStalled => Sys2Proof.Machine.execPairMirrorStalled s
  | .failover q seq => Sys2Proof.Machine.execFailover q seq s
  | .fwWrite q seq => Sys2Proof.Machine.execFwWrite q seq s
  | .fwCommit q seq => Sys2Proof.Machine.execFwCommit q seq s
  | .fwStatus q seq => Sys2Proof.Machine.execFwStatus q seq s
  | .identityChain q seq => Sys2Proof.Machine.execIdentityChain q seq s
  | .restart q seq => Sys2Proof.Machine.execRestart q seq s
  | .eventRaise die e => Sys2Proof.Machine.execEventRaise die e s
  | .eventArrival die => Sys2Proof.Machine.execEventArrival die s
  | .coalescePeriodEnd => Sys2Proof.Machine.execCoalescePeriodEnd s
  | .mullPacketRoute die site port vc headerFlip dataFlips => Sys2Proof.Machine.execMullPacketRoute die site port vc headerFlip dataFlips s
  | .mullRouterHole die site => Sys2Proof.Machine.execMullRouterHole die site s
  | .routeTableRewrite => Sys2Proof.Machine.execRouteTableRewrite s
  | .messageComplete die site src issuer msgId => Sys2Proof.Machine.execMessageComplete die site src issuer msgId s
  | .niBufferTimeout die site src issuer msgId => Sys2Proof.Machine.execNiBufferTimeout die site src issuer msgId s
  | .orderWaitTimeout die site src issuer msgId => Sys2Proof.Machine.execOrderWaitTimeout die site src issuer msgId s
  | .replyReceived m => Sys2Proof.Machine.execReplyReceived m s
  | .held m => Sys2Proof.Machine.execHeld m s
  | .messageResend die site msgId => Sys2Proof.Machine.execMessageResend die site msgId s
  | .mullTimeout die site msgId => Sys2Proof.Machine.execMullTimeout die site msgId s
  | .withdrawHeld m => Sys2Proof.Machine.execWithdrawHeld m s
  | .telemetryWindowEnd die site samples => Sys2Proof.Machine.execTelemetryWindowEnd die site samples s
  | .telemetryPeriodEnd die site => Sys2Proof.Machine.execTelemetryPeriodEnd die site s
  | .telemetry m => Sys2Proof.Machine.execTelemetry m s
  | .mapWrite => Sys2Proof.Machine.execMapWrite s
  | .signal m => Sys2Proof.Machine.execSignal m s
  | .waitConsume m => Sys2Proof.Machine.execWaitConsume m s
  | .waitObserve m => Sys2Proof.Machine.execWaitObserve m s
  | .reset m => Sys2Proof.Machine.execReset m s
  | .withdraw m => Sys2Proof.Machine.execWithdraw m s
  | .release m => Sys2Proof.Machine.execRelease m s
  | .timedDeadlineMiss region => Sys2Proof.Machine.execTimedDeadlineMiss region s
  | .tileIssue m => Sys2Proof.Machine.execTileIssue m s
  | .summary m => Sys2Proof.Machine.execSummary m s
  | .govUpdate m => Sys2Proof.Machine.execGovUpdate m s
  | .coreMsgRead m u => Sys2Proof.Machine.execCoreMsgRead m u s
  | .coreMsgWrite m => Sys2Proof.Machine.execCoreMsgWrite m s
  | .coreMsgWriteNarrow m => Sys2Proof.Machine.execCoreMsgWriteNarrow m s
  | .cfgFrame m => Sys2Proof.Machine.execCfgFrame m s
  | .cfgReg m => Sys2Proof.Machine.execCfgReg m s
  | .memRead m u => Sys2Proof.Machine.execMemRead m u s
  | .memWrite m u => Sys2Proof.Machine.execMemWrite m u s
  | .patrolScrubDram addr u => Sys2Proof.Machine.execPatrolScrubDram addr u s
  | .nearChannelLost die ch => Sys2Proof.Machine.execNearChannelLost die ch s
  | .farChannelLost hub ch => Sys2Proof.Machine.execFarChannelLost hub ch s
  | .read m u => Sys2Proof.Machine.execRead m u s
  | .write m u => Sys2Proof.Machine.execWrite m u s
  | .readNarrow m u => Sys2Proof.Machine.execReadNarrow m u s
  | .writeNarrow m u => Sys2Proof.Machine.execWriteNarrow m u s
  | .fill m u => Sys2Proof.Machine.execFill m u s
  | .copy m u => Sys2Proof.Machine.execCopy m u s
  | .leafSwap m => Sys2Proof.Machine.execLeafSwap m s
  | .leafSwapEffect die site quire => Sys2Proof.Machine.execLeafSwapEffect die site quire s
  | .quireQuery m => Sys2Proof.Machine.execQuireQuery m s
  | .gatherFlush m => Sys2Proof.Machine.execGatherFlush m s
  | .gatherStall die site => Sys2Proof.Machine.execGatherStall die site s
  | .bankGrant die site bank u => Sys2Proof.Machine.execBankGrant die site bank u s
  | .channelRunEnd die site ch => Sys2Proof.Machine.execChannelRunEnd die site ch s
  | .patrolScrubSp die site bank u => Sys2Proof.Machine.execPatrolScrubSp die site bank u s
  | .mStepIssue die site slot u => Sys2Proof.Machine.execMStepIssue die site slot u s
  | .contextSwitch die site => Sys2Proof.Machine.execContextSwitch die site s
  | .mma die site ctx => Sys2Proof.Machine.execMma die site ctx s
  | .mmaComplete die site ctx => Sys2Proof.Machine.execMmaComplete die site ctx s
  | .wload die site ctx => Sys2Proof.Machine.execWload die site ctx s
  | .wloadComplete die site => Sys2Proof.Machine.execWloadComplete die site s
  | .wrelease die site ctx => Sys2Proof.Machine.execWrelease die site ctx s
  | .zero die site ctx => Sys2Proof.Machine.execZero die site ctx s
  | .drain die site ctx => Sys2Proof.Machine.execDrain die site ctx s
  | .drainComplete die site => Sys2Proof.Machine.execDrainComplete die site s
  | .accopen die site ctx => Sys2Proof.Machine.execAccopen die site ctx s
  | .kwait die site ctx => Sys2Proof.Machine.execKwait die site ctx s
  | .accContribution die site => Sys2Proof.Machine.execAccContribution die site s
  | .auditPass die site => Sys2Proof.Machine.execAuditPass die site s
  | .regenComplete die site seg => Sys2Proof.Machine.execRegenComplete die site seg s
  | .vop die site ctx => Sys2Proof.Machine.execVop die site ctx s
  | .vectorIssue die site slot flips => Sys2Proof.Machine.execVectorIssue die site slot flips s
  | .rowReductionWrite die site ctx => Sys2Proof.Machine.execRowReductionWrite die site ctx s
  | .vopComplete die site ctx => Sys2Proof.Machine.execVopComplete die site ctx s
  | .vtKwait die site ctx => Sys2Proof.Machine.execVtKwait die site ctx s
  | .tfill die site ctx => Sys2Proof.Machine.execTfill die site ctx s
  | .tload die site ctx => Sys2Proof.Machine.execTload die site ctx s
  | .tout die site ctx => Sys2Proof.Machine.execTout die site ctx s
  | .fcallBeat die site link slot flips => Sys2Proof.Machine.execFcallBeat die site link slot flips s
  | .fcallReturn die site => Sys2Proof.Machine.execFcallReturn die site s
  | .mapRunComplete die site link => Sys2Proof.Machine.execMapRunComplete die site link s
  | .grainSlotForward die site table slot flip => Sys2Proof.Machine.execGrainSlotForward die site table slot flip s
  | .creditReturn die site table slot first second => Sys2Proof.Machine.execCreditReturn die site table slot first second s
  | .forkTake die site unit => Sys2Proof.Machine.execForkTake die site unit s
  | .joinPair die site unit => Sys2Proof.Machine.execJoinPair die site unit s
  | .joinSkewStall die site unit => Sys2Proof.Machine.execJoinSkewStall die site unit s
  | .steer die site unit => Sys2Proof.Machine.execSteer die site unit s
  | .mergeAdd die site unit input => Sys2Proof.Machine.execMergeAdd die site unit input s
  | .edgeFrameReceive die site crcOk flips => Sys2Proof.Machine.execEdgeFrameReceive die site crcOk flips s
  | .streamAdmit die site => Sys2Proof.Machine.execStreamAdmit die site s
  | .streamRequestIssue die site slot u => Sys2Proof.Machine.execStreamRequestIssue die site slot u s
  | .streamReply die site slot => Sys2Proof.Machine.execStreamReply die site slot s
  | .streamComplete die site slot => Sys2Proof.Machine.execStreamComplete die site slot s
  | .streamTimeout die site slot => Sys2Proof.Machine.execStreamTimeout die site slot s
  | .streamFault die site slot => Sys2Proof.Machine.execStreamFault die site slot s
  | .coreInstruction die core u => Sys2Proof.Machine.execCoreInstruction die core u s
  | .apertureLoad die core => Sys2Proof.Machine.execApertureLoad die core s
  | .apertureStore die core => Sys2Proof.Machine.execApertureStore die core s
  | .xtissue die core => Sys2Proof.Machine.execXtissue die core s
  | .xspcmd die core => Sys2Proof.Machine.execXspcmd die core s
  | .xsenq die core => Sys2Proof.Machine.execXsenq die core s
  | .xscancel die core => Sys2Proof.Machine.execXscancel die core s
  | .xsqadd die core => Sys2Proof.Machine.execXsqadd die core s
  | .xsqret die core => Sys2Proof.Machine.execXsqret die core s
  | .xsqupd die core => Sys2Proof.Machine.execXsqupd die core s
  | .xsqread die core => Sys2Proof.Machine.execXsqread die core s
  | .xksig die core => Sys2Proof.Machine.execXksig die core s
  | .xksigRel die core => Sys2Proof.Machine.execXksigRel die core s
  | .xkrst die core => Sys2Proof.Machine.execXkrst die core s
  | .xkwaitc die core => Sys2Proof.Machine.execXkwaitc die core s
  | .xkwaito die core => Sys2Proof.Machine.execXkwaito die core s
  | .xfenceStream die core => Sys2Proof.Machine.execXfenceStream die core s
  | .xfenceMull die core => Sys2Proof.Machine.execXfenceMull die core s
  | .xfenceHost die core => Sys2Proof.Machine.execXfenceHost die core s
  | .xfenceFull die core => Sys2Proof.Machine.execXfenceFull die core s
  | .xts die core => Sys2Proof.Machine.execXts die core s
  | .fenceComplete issuer => Sys2Proof.Machine.execFenceComplete issuer s
  | .ecallExit die core => Sys2Proof.Machine.execEcallExit die core s
  | .ecallFault die core => Sys2Proof.Machine.execEcallFault die core s
  | .coreException die core u => Sys2Proof.Machine.execCoreException die core u s
  | .timerInterrupt die core => Sys2Proof.Machine.execTimerInterrupt die core s
  | .softwareInterrupt die core => Sys2Proof.Machine.execSoftwareInterrupt die core s
  | .coreHalt die core => Sys2Proof.Machine.execCoreHalt die core s
  | .seqBuild die => Sys2Proof.Machine.execSeqBuild die s
  | .modelFetchComplete die => Sys2Proof.Machine.execModelFetchComplete die s
  | .grainCircuitHole die site => Sys2Proof.Machine.execGrainCircuitHole die site s
  | .backInvalidateSnoopResponse addr => Sys2Proof.Machine.execBackInvalidateSnoopResponse addr s
  | .packetEjection die site => Sys2Proof.Machine.execPacketEjection die site s
  | .flowEntryExpiry die site src issuer dst => Sys2Proof.Machine.execFlowEntryExpiry die site src issuer dst s
  | .refresh die ch => Sys2Proof.Machine.execRefresh die ch s
  | .farRefreshRatePoll hub ch rate => Sys2Proof.Machine.execFarRefreshRatePoll hub ch rate s

end Sys2Proof.Machine
end

