-- ==== Sys2Proof/WellFormed.lean ====
section
/-! DEFINITION. Sys2Proof/WellFormed.lean: the commands whose units the package has and whose operands fit their fields. -/

namespace Sys2Proof

open Sys2Proof.Machine

/-- A tile of one of the kinds at a site of a compute die (R26). -/
def isTile (die site : Nat) (kinds : List SiteKind) : Bool :=
  match siteKind site with
  | some k => isCompute die && kinds.contains k
  | none => false

/-- A grain switch (R277). -/
def hasSwitch (die site : Nat) : Bool := isCompute die && decide (site < 480)

/-- A mull router: at a site of a compute die, or the one of a hub (R313, R345). -/
def hasRouter (die site : Nat) : Bool := (isCompute die && decide (site < 480)) || (isHub die && site == blockSite)

/-- A network interface: at a site of a compute die or at a die block (R319, R332). -/
def hasNi (die site : Nat) : Bool := isDie die && (site == blockSite || (isCompute die && decide (site < 480)))

/-- A control core (R22, R375). -/
def isCore (die core : Nat) : Bool := isDie die && decide (core < coreCount die)

/-- The receiving end of a lane group that a neighbouring die drives (R26, R301). -/
def hasGroup (die site : Nat) : Bool :=
  (if isHub die then decide (site < 24) else isCompute die && siteKind site == some .xTile) && (dieNeighbour die (groupAt die site).1).isSome

/-- Flips lie within their codewords of 288 bits (R235). -/
def upsetFits (u : Upset) : Bool := u.all (fun e => decide (e.1 < 2 ^ 64) && decide (e.2 < 2 ^ 288))

/-- Flips of DRAM codewords, or of a staged word of the stream, named by 2^64 plus its place in stream order (R235, R245). -/
def stagedUpsetFits (u : Upset) : Bool := u.all (fun e => decide (e.1 < 2 ^ 65) && decide (e.2 < 2 ^ 288))

/-- Flips of a bank's codewords, or of the 72 bits of one of its S-tile's 4,096 tag groups, named by 2^64 plus its number (R186, R235). -/
def bankUpsetFits (u : Upset) : Bool :=
  u.all (fun e => (decide (e.1 < 2 ^ 64) && decide (e.2 < 2 ^ 288)) || (decide (2 ^ 64 ≤ e.1) && decide (e.1 < 2 ^ 64 + 4096) && decide (e.2 < 2 ^ 72)))

/-- An event fits the fields of its record, and its class is not the reserved one (R534, R538). -/
def evFits (e : Ev) : Bool :=
  decide (e.code < 65536) && decide (e.cls < 3) && decide (e.job < 256) && decide (e.ukind < 256) && decide (e.index < 65536) && decide (e.detail < 2 ^ 64) && decide (e.region < 65536)

/-- An endpoint fits its header fields (R317). -/
def epFits (e : Ep) : Bool := decide (e.die < 128) && decide (e.site < 1024) && decide (e.port < 16) && decide (e.index < 65536)

/-- A message fits its header, has at most two packets of 16 flits, and names an endpoint that exists (R317, R319). -/
def msgFits (m : Msg) : Bool :=
  decide (m.typ < 256) && epExists m.dst && epFits m.dst && epFits m.src && decide (m.issuer < 65536) && decide (m.msgId < 65536)
    && decide (m.seq < 65536) && decide (m.attempt < 256) && decide (m.job < 64) && decide (m.status < 65536) && decide (m.data.length ≤ 32)

/-- A well-formed command. -/
def Instr.wf (i : Instr) : Bool :=
  match i with
  | .start _ => true
  | .startWatchdogExpiry => true
  | .powerOff => true
  | .inputPowerFault => true
  | .carrierRailFault => true
  | .coreRailFailure die => isDie die
  | .clockReferenceLost => true
  | .pllLockLost die => isDie die
  | .junctionThermalSample die _ _ => isDie die
  | .powerWindowEnd _ _ _ _ _ => true
  | .stackThermalSample die _ _ _ _ => isCompute die
  | .nearThermalTimeout die => isCompute die
  | .timestampCheck _ => true
  | .jobCounterUpdate => true
  | .mgmtTransaction _ _ => true
  | .pwrLimitWrite v _ => decide (v < 2 ^ 64)
  | .registerWrite _ size v => [1, 2, 4, 8].contains size && decide (v < 2 ^ 64)
  | .linkDown => true
  | .linkUp _ _ => true
  | .graceExpiry => true
  | .cxlReset kind => decide (kind < 3)
  | .hdmDecoderCommit dec _ _ => decide (dec < 2)
  | .hdmRead hpa u => upsetFits u && decide (hpa < 2 ^ 52)
  | .hdmWrite hpa mask _ => decide (hpa < 2 ^ 52) && decide (mask < 2 ^ 64)
  | .snoopResponse _ => true
  | .hostGoReceived _ _ => true
  | .hostReadData _ _ => true
  | .spdmRequest _ _ => true
  | .sqTail q v => decide (q ≤ 64) && decide (v < 2 ^ 32)
  | .cqHead q v => decide (q ≤ 64) && decide (v < 2 ^ 32)
  | .queueEnable q _ => decide (q ≤ 64)
  | .queueDisable q => decide (q ≤ 64)
  | .queueDrained q => decide (q ≤ 64)
  | .hstQReplay q v size => decide (q ≤ 64) && decide (v < 2 ^ 64) && [4, 8].contains size
  | .hstEvtCfg v => decide (v < 2 ^ 64)
  | .hstEvtHead v => decide (v < 2 ^ 64)
  | .ktlSignal j rank operand => decide (j < 64) && decide (rank < 65536) && decide (operand < 2 ^ 32)
  | .ktlReset j rank operand => decide (j < 64) && decide (rank < 65536) && decide (operand < 2 ^ 32)
  | .submissionEntryRead q => decide (q ≤ 64)
  | .commandStart q => decide (q ≤ 64)
  | .replyWrite q => decide (q ≤ 64)
  | .deviceInfo q seq => decide (q ≤ 64) && decide (seq < 2 ^ 32)
  | .goodUnitMap q seq => decide (q ≤ 64) && decide (seq < 2 ^ 32)
  | .hostWindowSet q seq => decide (q ≤ 64) && decide (seq < 2 ^ 32)
  | .loadImage q seq => decide (q ≤ 64) && decide (seq < 2 ^ 32)
  | .loadVerify => true
  | .loadStage => true
  | .loadCheck => true
  | .loadCommit _ => true
  | .regionStart region => decide (region < 65536)
  | .rollbackConfig q seq => decide (q ≤ 64) && decide (seq < 2 ^ 32)
  | .configStatus q seq => decide (q ≤ 64) && decide (seq < 2 ^ 32)
  | .createJob q seq => decide (q ≤ 64) && decide (seq < 2 ^ 32)
  | .killJob q seq => decide (q ≤ 64) && decide (seq < 2 ^ 32)
  | .suspendJob q seq => decide (q ≤ 64) && decide (seq < 2 ^ 32)
  | .resumeJob q seq => decide (q ≤ 64) && decide (seq < 2 ^ 32)
  | .allocRegion q seq => decide (q ≤ 64) && decide (seq < 2 ^ 32)
  | .freeRegion q seq => decide (q ≤ 64) && decide (seq < 2 ^ 32)
  | .allocMem q seq => decide (q ≤ 64) && decide (seq < 2 ^ 32)
  | .freeMem q seq => decide (q ≤ 64) && decide (seq < 2 ^ 32)
  | .allocKettles q seq => decide (q ≤ 64) && decide (seq < 2 ^ 32)
  | .freeKettles q seq => decide (q ≤ 64) && decide (seq < 2 ^ 32)
  | .jobStatus q seq => decide (q ≤ 64) && decide (seq < 2 ^ 32)
  | .captureDiscard q seq => decide (q ≤ 64) && decide (seq < 2 ^ 32)
  | .captureDelivery job => decide (job < 64)
  | .pageZeroingComplete _ => true
  | .servingConfig q seq => decide (q ≤ 64) && decide (seq < 2 ^ 32)
  | .modelRegister q seq => decide (q ≤ 64) && decide (seq < 2 ^ 32)
  | .modelUnregister q seq => decide (q ≤ 64) && decide (seq < 2 ^ 32)
  | .modelPin q seq => decide (q ≤ 64) && decide (seq < 2 ^ 32)
  | .timedConfig q seq => decide (q ≤ 64) && decide (seq < 2 ^ 32)
  | .streamEnqueue q seq => decide (q ≤ 64) && decide (seq < 2 ^ 32)
  | .taskCancel q seq => decide (q ≤ 64) && decide (seq < 2 ^ 32)
  | .kettleSignal q seq => decide (q ≤ 64) && decide (seq < 2 ^ 32)
  | .kettleReset q seq => decide (q ≤ 64) && decide (seq < 2 ^ 32)
  | .kettleWaitConsume q seq => decide (q ≤ 64) && decide (seq < 2 ^ 32)
  | .kettleWaitObserve q seq => decide (q ≤ 64) && decide (seq < 2 ^ 32)
  | .kettleInspect q seq => decide (q ≤ 64) && decide (seq < 2 ^ 32)
  | .sync q seq => decide (q ≤ 64) && decide (seq < 2 ^ 32)
  | .mapRingSet q seq => decide (q ≤ 64) && decide (seq < 2 ^ 32)
  | .mapRingClear q seq => decide (q ≤ 64) && decide (seq < 2 ^ 32)
  | .pairRole q seq => decide (q ≤ 64) && decide (seq < 2 ^ 32)
  | .mirrorStart q seq => decide (q ≤ 64) && decide (seq < 2 ^ 32)
  | .mirrorStop q seq => decide (q ≤ 64) && decide (seq < 2 ^ 32)
  | .checkpoint q seq => decide (q ≤ 64) && decide (seq < 2 ^ 32)
  | .mirrorRecordConsume _ => true
  | .pairMirrorStalled => true
  | .failover q seq => decide (q ≤ 64) && decide (seq < 2 ^ 32)
  | .fwWrite q seq => decide (q ≤ 64) && decide (seq < 2 ^ 32)
  | .fwCommit q seq => decide (q ≤ 64) && decide (seq < 2 ^ 32)
  | .fwStatus q seq => decide (q ≤ 64) && decide (seq < 2 ^ 32)
  | .identityChain q seq => decide (q ≤ 64) && decide (seq < 2 ^ 32)
  | .restart q seq => decide (q ≤ 64) && decide (seq < 2 ^ 32)
  | .eventRaise die e => isDie die && evFits e
  | .eventArrival die => (isDie die || die == h0Events)
  | .coalescePeriodEnd => true
  | .mullPacketRoute die site _ _ headerFlip dataFlips => hasRouter die site && decide (headerFlip < 2 ^ 288) && dataFlips.all (fun f => decide (f < 2 ^ 288))
  | .mullRouterHole die site => hasSwitch die site
  | .routeTableRewrite => true
  | .messageComplete die site src issuer msgId => hasNi die site && epFits src && decide (issuer < 65536) && decide (msgId < 65536)
  | .niBufferTimeout die site src issuer msgId => hasNi die site && epFits src && decide (issuer < 65536) && decide (msgId < 65536)
  | .orderWaitTimeout die site src issuer msgId => hasNi die site && epFits src && decide (issuer < 65536) && decide (msgId < 65536)
  | .replyReceived m => msgFits m
  | .held m => msgFits m
  | .messageResend die site msgId => hasNi die site && decide (msgId < 65536)
  | .mullTimeout die site msgId => hasNi die site && decide (msgId < 65536)
  | .withdrawHeld m => msgFits m
  | .telemetryWindowEnd die site _ => hasNi die site
  | .telemetryPeriodEnd die site => hasNi die site
  | .telemetry m => msgFits m
  | .mapWrite => true
  | .signal m => msgFits m
  | .waitConsume m => msgFits m
  | .waitObserve m => msgFits m
  | .reset m => msgFits m
  | .withdraw m => msgFits m
  | .release m => msgFits m
  | .timedDeadlineMiss region => decide (region < 65536)
  | .tileIssue m => msgFits m
  | .summary m => msgFits m
  | .govUpdate m => msgFits m
  | .coreMsgRead m u => msgFits m && upsetFits u
  | .coreMsgWrite m => msgFits m
  | .coreMsgWriteNarrow m => msgFits m
  | .cfgFrame m => msgFits m
  | .cfgReg m => msgFits m
  | .memRead m u => msgFits m && upsetFits u
  | .memWrite m u => msgFits m && upsetFits u
  | .patrolScrubDram _ u => upsetFits u
  | .nearChannelLost die ch => isCompute die && decide (ch < 24)
  | .farChannelLost hub ch => isHub hub && decide (ch < 32)
  | .read m u => msgFits m && upsetFits u
  | .write m u => msgFits m && upsetFits u
  | .readNarrow m u => msgFits m && upsetFits u
  | .writeNarrow m u => msgFits m && upsetFits u
  | .fill m u => msgFits m && upsetFits u
  | .copy m u => msgFits m && upsetFits u
  | .leafSwap m => msgFits m
  | .leafSwapEffect die site _ => isTile die site [.sTile, .dpTile]
  | .quireQuery m => msgFits m
  | .gatherFlush m => msgFits m
  | .gatherStall die site => isTile die site [.sTile, .dpTile]
  | .bankGrant die site bank u => isTile die site [.sTile, .dpTile] && bankUpsetFits u && decide (bank < 16)
  | .channelRunEnd die site _ => isTile die site [.sTile, .dpTile]
  | .patrolScrubSp die site bank u => isTile die site [.sTile, .dpTile] && upsetFits u && decide (bank < 16)
  | .mStepIssue die site _ u => isTile die site [.mTile] && upsetFits u
  | .contextSwitch die site => isTile die site [.mTile, .vTile]
  | .mma die site ctx => isTile die site [.mTile] && decide (ctx < 4)
  | .mmaComplete die site ctx => isTile die site [.mTile] && decide (ctx < 4)
  | .wload die site ctx => isTile die site [.mTile] && decide (ctx < 4)
  | .wloadComplete die site => isTile die site [.mTile]
  | .wrelease die site ctx => isTile die site [.mTile] && decide (ctx < 4)
  | .zero die site ctx => isTile die site [.mTile] && decide (ctx < 4)
  | .drain die site ctx => isTile die site [.mTile] && decide (ctx < 4)
  | .drainComplete die site => isTile die site [.mTile]
  | .accopen die site ctx => isTile die site [.mTile] && decide (ctx < 4)
  | .kwait die site ctx => isTile die site [.mTile] && decide (ctx < 4)
  | .accContribution die site => isTile die site [.mTile]
  | .auditPass die site => isTile die site [.mTile]
  | .regenComplete die site _ => isTile die site [.mTile]
  | .vop die site ctx => isTile die site [.vTile] && decide (ctx < 4)
  | .vectorIssue die site _ flips => isTile die site [.vTile] && flips.all (fun f => decide (f.2 < 2 ^ 288))
  | .rowReductionWrite die site ctx => isTile die site [.vTile] && decide (ctx < 4)
  | .vopComplete die site ctx => isTile die site [.vTile] && decide (ctx < 4)
  | .vtKwait die site ctx => isTile die site [.vTile] && decide (ctx < 4)
  | .tfill die site ctx => isTile die site [.vTile] && decide (ctx < 4)
  | .tload die site ctx => isTile die site [.vTile] && decide (ctx < 4)
  | .tout die site ctx => isTile die site [.vTile] && decide (ctx < 4)
  | .fcallBeat die site link _ flips => isTile die site [.fTile] && decide (link < 2) && flips.all (fun f => decide (f < 2 ^ 288))
  | .fcallReturn die site => isTile die site [.vTile]
  | .mapRunComplete die site link => isTile die site [.fTile] && decide (link < 2)
  | .grainSlotForward die site _ _ flip => hasSwitch die site && decide (flip < 2 ^ 288)
  | .creditReturn die site _ _ _ _ => hasSwitch die site
  | .forkTake die site unit => hasSwitch die site && decide (unit < 2)
  | .joinPair die site unit => hasSwitch die site && decide (unit < 2)
  | .joinSkewStall die site unit => hasSwitch die site && decide (unit < 2)
  | .steer die site unit => hasSwitch die site && decide (unit < 2)
  | .mergeAdd die site unit input => hasSwitch die site && decide (unit < 4) && decide (input < 4)
  | .edgeFrameReceive die site _ flips => hasGroup die site && flips.all (fun f => decide (f < 2 ^ 288))
  | .streamAdmit die site => isTile die site [.dpTile, .xTile]
  | .streamRequestIssue die site slot u => isTile die site [.dpTile, .xTile] && stagedUpsetFits u && decide (slot < 8)
  | .streamReply die site slot => isTile die site [.dpTile, .xTile] && decide (slot < 8)
  | .streamComplete die site slot => isTile die site [.dpTile, .xTile] && decide (slot < 8)
  | .streamTimeout die site slot => isTile die site [.dpTile, .xTile] && decide (slot < 8)
  | .streamFault die site slot => isTile die site [.dpTile, .xTile] && decide (slot < 8)
  | .coreInstruction die core u => isCore die core && upsetFits u
  | .apertureLoad die core => isCore die core
  | .apertureStore die core => isCore die core
  | .xtissue die core => isCore die core
  | .xspcmd die core => isCore die core
  | .xsenq die core => isCore die core
  | .xscancel die core => isCore die core
  | .xsqadd die core => isCore die core
  | .xsqret die core => isCore die core
  | .xsqupd die core => isCore die core
  | .xsqread die core => isCore die core
  | .xksig die core => isCore die core
  | .xksigRel die core => isCore die core
  | .xkrst die core => isCore die core
  | .xkwaitc die core => isCore die core
  | .xkwaito die core => isCore die core
  | .xfenceStream die core => isCore die core
  | .xfenceMull die core => isCore die core
  | .xfenceHost die core => isCore die core
  | .xfenceFull die core => isCore die core
  | .xts die core => isCore die core
  | .fenceComplete issuer => isDie issuer.die
  | .ecallExit die core => isCore die core
  | .ecallFault die core => isCore die core
  | .coreException die core u => isCore die core && upsetFits u
  | .timerInterrupt die core => isCore die core
  | .softwareInterrupt die core => isCore die core
  | .coreHalt die core => isCore die core
  | .seqBuild die => isCompute die
  | .modelFetchComplete die => isCompute die
  | .grainCircuitHole die site => hasSwitch die site
  | .backInvalidateSnoopResponse _ => true
  | .packetEjection die site => hasNi die site
  | .flowEntryExpiry die site src issuer dst => hasNi die site && epFits src && epFits dst && decide (issuer < 65536)
  | .refresh die ch => ((isCompute die && decide (ch < 24)) || (isHub die && decide (ch < 32)))
  | .farRefreshRatePoll hub ch _ => isHub hub && decide (ch < 32)

end Sys2Proof
end

