-- ==== Sys2Proof/Safety.lean ====
section
/-! DEFINITION. Sys2Proof/Safety.lean: the terms in which claims are stated: completion, frames, invariants, events raised and answers given. -/

namespace Sys2Proof.Machine

/-- The parts of the state, one for each of its fields. -/
inductive Part where
  | pending
  | now
  | freeCtr
  | mem
  | flips
  | flash
  | pages
  | goodDies
  | goodFar
  | dies
  | kettles
  | net
  | ev
  | tel
  | lastFault
  | sTiles
  | mTiles
  | host
  | vTiles
  | fTiles
  | grain
  | engines
  | queues
  | link
  | decoders
  | evtRing
  | msix
  | msixPending
  | out
  | biLines
  | biOld
  | mapVector
  | bar0
  | cores
  | boot
  | pwr
  | pair
  | seqs
  | regions
  | jobs
  | cfg
  deriving DecidableEq, Repr

/-- A part is the same in two states. -/
def Part.same (p : Part) (s t : State) : Prop :=
  match p with
  | .pending => t.pending = s.pending
  | .now => t.now = s.now
  | .freeCtr => t.freeCtr = s.freeCtr
  | .mem => t.mem = s.mem
  | .flips => t.flips = s.flips
  | .flash => t.flash = s.flash
  | .pages => t.pages = s.pages
  | .goodDies => t.goodDies = s.goodDies
  | .goodFar => t.goodFar = s.goodFar
  | .dies => t.dies = s.dies
  | .kettles => t.kettles = s.kettles
  | .net => t.net = s.net
  | .ev => t.ev = s.ev
  | .tel => t.tel = s.tel
  | .lastFault => t.lastFault = s.lastFault
  | .sTiles => t.sTiles = s.sTiles
  | .mTiles => t.mTiles = s.mTiles
  | .host => t.host = s.host
  | .vTiles => t.vTiles = s.vTiles
  | .fTiles => t.fTiles = s.fTiles
  | .grain => t.grain = s.grain
  | .engines => t.engines = s.engines
  | .queues => t.queues = s.queues
  | .link => t.link = s.link
  | .decoders => t.decoders = s.decoders
  | .evtRing => t.evtRing = s.evtRing
  | .msix => t.msix = s.msix
  | .msixPending => t.msixPending = s.msixPending
  | .out => t.out = s.out
  | .biLines => t.biLines = s.biLines
  | .biOld => t.biOld = s.biOld
  | .mapVector => t.mapVector = s.mapVector
  | .bar0 => t.bar0 = s.bar0
  | .cores => t.cores = s.cores
  | .boot => t.boot = s.boot
  | .pwr => t.pwr = s.pwr
  | .pair => t.pair = s.pair
  | .seqs => t.seqs = s.seqs
  | .regions => t.regions = s.regions
  | .jobs => t.jobs = s.jobs
  | .cfg => t.cfg = s.cfg

/-- The frame: from s to t nothing changes but the parts listed. -/
def OnlyIn (l : List Part) (s t : State) : Prop := ∀ p : Part, l.contains p = false → p.same s t

/-- A command completes with a next state that has a property. -/
def Completes (i : Instr) (s : State) (p : State → Prop) : Prop := ∃ t, exec i s = .next t ∧ p t

/-- The canonical form of the flash: offsets strictly rising and no entry at the erased value (R509). -/
def flashWf : List Host.Cell → Bool
  | [] => true
  | (_, b) :: [] => b != 0xFF
  | (k, b) :: (j, c) :: t => b != 0xFF && decide (k < j) && flashWf ((j, c) :: t)

/-- The invariant of the memories. -/
def State.memoryOk (s : State) : Prop := memWf s.mem = true ∧ flashWf s.flash = true

/-- The memory outside a range of n bytes reads as before. -/
def outside (a n : Nat) (s t : State) : Prop := ∀ b, (b < a ∨ a + n ≤ b) → memByte t.mem b = memByte s.mem b

/-- The events that wait at a die block, oldest first. -/
def eventsAt (s : State) (die : Nat) : List Ev := (Tab.get dieEventsInitial die s.ev.dies).waiting

/-- A die block takes a further event: it has room, and its die is not fenced (R586). -/
def HearsEvents (s : State) (die : Nat) : Prop := (eventsAt s die).length < 64 ∧ ((dieOf s die).fenced = false ∨ die = 0x60)

/-- One event of a code, class and job has been raised at a die, stamped with the time. -/
def Raises (s t : State) (die code cls job : Nat) : Prop :=
  ∃ e, eventsAt t die = eventsAt s die ++ [e] ∧ e.code = code ∧ e.cls = cls ∧ e.job = job ∧ e.time = s.now

/-- A host command of an opcode has started and has no reply (R489). -/
def Started (s : State) (q seq op : Nat) (c : HCmd) : Prop :=
  q ≤ 64 ∧ (qOf s q).cmd? seq = some c ∧ c.opcode = op ∧ c.reply = none ∧ (c.stage = .started ∨ c.stage = .working)

/-- A host command has its reply, made at the time of t (R490). -/
def Replied (t : State) (q seq status detail result : Nat) : Prop :=
  ∃ c e, (qOf t q).cmd? seq = some c ∧ c.reply = some e ∧ e.notice = false ∧ e.seq = seq ∧ e.status = status ∧ e.opcode = c.opcode ∧ e.job = c.job
    ∧ e.detail = detail ∧ e.result = result ∧ e.time = t.now

/-- A device address takes a record of n bytes of a queue's commands (R488, R496). -/
def RecordAt (s : State) (q a n : Nat) : Prop :=
  spaceOf a = 8 ∧ addrMalformed a = false ∧ a % 64 = 0 ∧ (q = 64 ∨ windowHolds s q a n true = true)

/-- A command's record has been sent to host memory, and its reply is made but waits for it (R490). -/
def RecordSent (s t : State) (q seq a : Nat) (bytes : List Byte) (result : Nat) : Prop :=
  t.host.writes = s.host.writes ++ [{ id := s.host.nextId, addr := a, bytes := bytes, use := .command q seq, since := s.now }]
    ∧ Replied t q seq 0 0 result ∧ OnlyIn [.host, .queues] s t

/-- A page given up by its owner: it enters zeroing, or is retired at once where it held an uncorrectable codeword (R240, R453). -/
def GivenUp (s t : State) (k : Nat) : Prop :=
  (pageOf s k).st ≠ .retired →
    ((pageOf s k).uncorr = true → (pageOf t k).st = .retired) ∧ ((pageOf s k).uncorr = false → (pageOf t k).st = .system ∧ (pageOf t k).zeroing = true)

/-- A command has been answered with a status and nothing but its queue has changed. -/
def OnlyReplied (s t : State) (q seq status : Nat) : Prop := Replied t q seq status 0 0 ∧ OnlyIn [.queues] s t

/-- A command works on, without a reply. -/
def WorksOn (t : State) (q seq : Nat) : Prop := ∃ c, (qOf t q).cmd? seq = some c ∧ c.stage = .working ∧ c.reply = none

/-- No request of an endpoint's interface that still lacks its final reply has the number of the next one (R331). -/
def IdFree (s : State) (e : Ep) : Prop := ∀ o ∈ (niOf s e.die e.site).out, o.msg.msgId ≠ nextMsgId s e

/-- A request has been given to its source interface, under the next number (R317, R331). -/
def Requested (s t : State) (src : Ep) (issuer job typ : Nat) (dst : Ep) (arg : BitVec 64) (data : List Word) : Prop :=
  ∃ o ∈ (niOf t src.die src.site).out, o.msg.msgId = nextMsgId s src ∧ o.msg.src = src ∧ o.msg.issuer = issuer ∧ o.msg.job = job ∧ o.msg.typ = typ
    ∧ o.msg.dst = dst ∧ o.msg.arg = arg ∧ o.msg.data = data

/-- A message reaches its unit: its endpoint exists, is neither fenced nor parted, and belongs to its job (R324, R337, R338). -/
def Admitted (s : State) (m : Msg) : Prop :=
  epExists m.dst = true
    ∧ (m.dst.site = blockSite ∨ ((dieOf s m.dst.die).fencedSites.contains m.dst.site = false ∧ (m.dst.port = portNear ∨ siteParted s m.dst.die m.dst.site = false)))
    ∧ (epOwner s m.dst = none ∨ epOwner s m.dst = some m.job ∨ (m.job = 0 ∧ epOwner s m.dst ≠ some 64))

/-- A message has been answered: the answer's packets leave last, under its message number and attempt (R317, R331). -/
def Answered (s t : State) (m : Msg) (typ status : Nat) (scode : Bool) (data : List Word) : Prop :=
  t.net.packets = s.net.packets ++ packetsOf { m with typ := typ, dst := m.src, src := m.dst, seq := 0, status := status, scode := scode, dep := false, data := data, arg := 0 } 2

/-- A well-formed command of an S-tile reaches it (R181, R196). -/
def SpTakes (s : State) (m : Msg) (op : Nat) : Prop :=
  Admitted s m ∧ m.cfgm = false ∧ m.typ = 1 ∧ m.dst.port = portTile ∧ isSp (siteKind m.dst.site) = true ∧ spOp m = op ∧ spMalformed s m = false ∧ spSignal s m = 0

/-- Nothing else wants a bank of an S-tile: no channel, command, gather entry or stream (R176). -/
def Uncontended (s : State) (die site : Nat) : Prop :=
  (spOf s die site).chans = [] ∧ (spOf s die site).cmds = [] ∧ (spOf s die site).gather = [] ∧ engineAccs s die site = []

/-- A tile site exists on a die and has one of the kinds (R26). -/
def SiteIs (die site : Nat) (kinds : List SiteKind) : Prop := isCompute die = true ∧ ∃ k, siteKind site = some k ∧ kinds.contains k = true

/-- A tile's contained error is raised against the job that owns it (R130, R535). -/
def SiteRaises (s t : State) (die site code : Nat) : Prop :=
  siteJob s die site ≠ 0 → HearsEvents s die → Raises s t die code 1 (siteJob s die site)

/-- A tile site's signal of +1 has been sent to the kettle that a rank names (R351). -/
def SiteSignals (s t : State) (die site n rank : Nat) (rel : Bool) : Prop :=
  ∀ e, rankEp s (siteJob s die site) rank = some e → e.port = portKettle → IdFree s (tileEp die site n) →
    Requested s t (tileEp die site n) n (siteJob s die site) 4 e (kettleArg 1 rel 1) []

/-- The running context of an M-tile can issue its next descriptor, of an opcode (R105, R123). -/
def MIssues (s : State) (die site n op : Nat) (d : BitVec 512) : Prop :=
  SiteIs die site [.mTile] ∧ siteRuns s die site = true ∧ (mtOf s die site).running = some n ∧ (mtOf s die site).switchTo = none ∧ n < (mtOf s die site).ctxs.length
    ∧ ((mtOf s die site).ctx n).next = some d ∧ ((mtOf s die site).ctx n).sweep = none ∧ dfld d 0 1 = op ∧ (mtOf s die site).canIssue n = true

/-- The running context of a V-tile can issue its next descriptor, of an opcode (R105, R164). -/
def VIssues (s : State) (die site n op : Nat) (d : BitVec 512) : Prop :=
  SiteIs die site [.vTile] ∧ siteRuns s die site = true ∧ (vtOf s die site).running = some n ∧ (vtOf s die site).switchTo = none ∧ n < (vtOf s die site).ctxs.length
    ∧ ((vtOf s die site).ctx n).next = some d ∧ ((vtOf s die site).ctx n).active = none ∧ dfld d 0 1 = op ∧ (vtOf s die site).canIssue n = true

/-- A task is the only one of its serial number in its context. -/
def SoleTask (c : VCtx) (k : VTask) : Prop := k ∈ c.tasks ∧ ∀ x ∈ c.tasks, x.serial = k.serial → x = k

/-- A core that runs finds a 32-bit instruction word at its pc, in cluster memory that it may execute (R375, R379, R386). -/
def CoreFetches (s : State) (die core w : Nat) : Prop :=
  let c := coreOf s die core
  let pc := c.pc.toNat
  isDie die = true ∧ core < coreCount die ∧ coreRuns s die core = true ∧ pc % 2 = 0 ∧ pc + 4 ≤ clusterSize die
    ∧ paOk c die c.mmode pc 2 4 = true ∧ paOk c die c.mmode (pc + 2) 2 4 = true
    ∧ Tab.find? (clusterAddr die (pc / 32 * 32)) s.flips = none ∧ Tab.find? (clusterAddr die ((pc + 2) / 32 * 32)) s.flips = none
    ∧ leNat (memGetList s.mem (clusterAddr die pc) 4) = w ∧ w % 4 = 3

/-- A core is about to execute an Xenh instruction (R390). -/
def AtXenh (s : State) (die core code rd : Nat) (v1 v2 : BitVec 64) : Prop :=
  isDie die = true ∧ core < coreCount die ∧ coreNext s die core = (s, .xenh code rd v1 v2)

/-- A core's four-byte instruction has retired with a value in rd (R391, R402). -/
def Retires (s t : State) (die core rd : Nat) (v : BitVec 64) : Prop :=
  let c := coreOf s die core
  coreOf t die core = { c.put rd v with pc := c.pc + x64 4, lastPc := c.pc, instret := c.instret + 1 }

/-- A core stalls at its instruction of n bytes (R383, R391). -/
def Stalls (s t : State) (die core n : Nat) (w : CoreWait) : Prop := coreOf t die core = { coreOf s die core with wait := w, len := n, stallFrom := s.now }

/-- A core has trapped into M mode: what a trap saves, and the mode (R384, R387). -/
def Traps (s t : State) (die core cause tval : Nat) : Prop :=
  let c := coreOf s die core
  let c1 := coreOf t die core
  c1.mmode = true ∧ c1.csr 0x341 = c.pc.toNat ∧ c1.csr 0x342 = cause ∧ c1.csr 0x343 = tval ∧ c1.x = c.x ∧ c1.f = c.f
    ∧ bits (c1.csr 0x300) 12 11 = (if c.mmode then 3 else 0) ∧ bits (c1.csr 0x300) 7 7 = bits (c.csr 0x300) 3 3 ∧ bits (c1.csr 0x300) 3 3 = 0

end Sys2Proof.Machine
end

