-- ==== Sys2Proof/Certificates/Slice0/Obligations.lean ====
section
/-! DEFINITION. Sys2Proof/Certificates/Slice0/Obligations.lean: the statements for the provers. -/

open Sys2Proof
open Sys2Proof.Machine

/-- The queue is taken from its front: a step with a command in front is that command's effect on the state with the queue's rest. -/
def Obligations.StepTakesTheFrontCommand : Prop :=
  ∀ (c : Instr) (rest : List Instr) (s : State), s.pending = c :: rest → step s = exec c { s with pending := rest }

/-- With no command waiting the package idles: its timestamp counts one T-clock cycle and nothing else changes (R10; the tick on an empty queue is the model's choice, log entry 3). -/
def Obligations.AnEmptyQueueOnlyCountsTime : Prop :=
  ∀ s : State, s.pending = [] → ∃ t, step s = .next t ∧ t.now = s.now + 1 ∧ OnlyIn [.now] s t

/-- No command is refused; a command stops only by naming a unit that the package does not have, and a well-formed one never stops. -/
def Obligations.OnlyAbsentUnitsStop : Prop :=
  ∀ (i : Instr) (s : State), ((∃ t, exec i s = .next t) ∨ (∃ d k, exec i s = .fault (.noSuchUnit d k)))
    ∧ (i.wf = true → ∃ t, exec i s = .next t)

/-- A step keeps the canonical form of the device's memory and of the boot flash. -/
def Obligations.EveryStepKeepsTheMemoriesCanonical : Prop :=
  ∀ s t : State, s.memoryOk → step s = .next t → t.memoryOk

/-- After reset the memories are canonical, with nothing listed. -/
def Obligations.ResetMemoriesAreCanonical : Prop :=
  State.reset.memoryOk ∧ (∀ a, memByte State.reset.mem a = 0) ∧ (∀ a, flashByte State.reset.flash a = 0xFF)

/-- No command touches the queue of the commands that wait behind it. -/
def Obligations.EveryStepTakesOneCommand : Prop :=
  ∀ s t : State, step s = .next t → t.pending = s.pending.tail

/-- INPUT_POWER_FAULT, CARRIER_RAIL_FAULT and CLOCK_REFERENCE_LOST of a powered package raise their fatal event at H0 and assert FAULT_N; the last also clears REF_OK. Nothing else changes. CORE_RAIL_FAILURE and PLL_LOCK_LOST fence their die at once, with the cause left for H0 to report; of H0 itself they are fatal. TIMESTAMP_CHECK: with every die within 2 ns ALIGN_MAX becomes the largest offset and nothing else changes; a die more than 2 ns away is fenced, its loss found in the same check; and a compute die lost before, of no job, is reported by H0 as DIE_LOST. -/
def Obligations.FatalAndDieFailuresAreHeld : Prop :=
  (
  ∀ s : State, s.boot.powered = true → HearsEvents s 0x60 →
    Completes .inputPowerFault s (fun t => Raises s t 0x60 0x0012 2 0xFF ∧ t.ev.faultN = true ∧ OnlyIn [.ev] s t)
    ∧ Completes .carrierRailFault s (fun t => Raises s t 0x60 0x0013 2 0xFF ∧ t.ev.faultN = true ∧ OnlyIn [.ev] s t)
    ∧ Completes .clockReferenceLost s (fun t => Raises s t 0x60 0x0011 2 0xFF ∧ t.ev.faultN = true ∧ t.pwr = { s.pwr with refOk := false } ∧ OnlyIn [.ev, .pwr] s t)
  ) ∧ (
  (∀ (s : State) (die : Nat), s.boot.powered = true → isDie die = true → die ≠ 0x60 → (dieOf s die).fenced = false →
    Completes (.coreRailFailure die) s (fun t => (dieOf t die).fenced = true ∧ (dieOf t die).dstate = 3 ∧ (dieOf t die).dead = some 3
      ∧ (∀ d, d ≠ die → dieOf t d = dieOf s d) ∧ OnlyIn [.dies, .pages, .net, .ev, .boot, .flash] s t)
    ∧ Completes (.pllLockLost die) s (fun t => (dieOf t die).fenced = true ∧ (dieOf t die).dstate = 3 ∧ (dieOf t die).dead = some 2
      ∧ (∀ d, d ≠ die → dieOf t d = dieOf s d) ∧ OnlyIn [.dies, .pages, .net, .ev, .boot, .flash] s t))
  ∧ (∀ s : State, s.boot.powered = true → HearsEvents s 0x60 →
    Completes (.coreRailFailure 0x60) s (fun t => Raises s t 0x60 0x0010 2 0xFF ∧ t.ev.faultN = true ∧ OnlyIn [.ev] s t)
    ∧ Completes (.pllLockLost 0x60) s (fun t => Raises s t 0x60 0x0010 2 0xFF ∧ t.ev.faultN = true ∧ OnlyIn [.ev] s t))
  ) ∧ (
  (∀ (s : State) (offsets : List (Nat × Nat)), s.boot.powered = true → (∀ d, (dieOf s d).dead = none) →
    (∀ e ∈ offsets, isDie e.1 = true ∧ (dieOf s e.1).fenced = false ∧ e.2 ≤ 2000) →
    Completes (.timestampCheck offsets) s (fun t => t.pwr.alignMax = maxOf (offsets.map (·.2)) ∧ OnlyIn [.pwr] s t))
  ∧ (∀ (s : State) (die c : Nat), s.boot.powered = true → isCompute die = true → (dieOf s die).dead = some c → (∀ d, d ≠ die → (dieOf s d).dead = none) →
    dieUsers s die = [] → (eventsAt s h0Events).length < 64 →
    Completes (.timestampCheck []) s (fun t => Raises s t h0Events 0x0014 0 0xFF ∧ (dieOf t die).dead = none ∧ OnlyIn [.pwr, .dies, .ev] s t))
  ∧ (∀ (s : State) (die off : Nat), s.boot.powered = true → isDie die = true → die ≠ 0x60 → (dieOf s die).fenced = false → (∀ d, (dieOf s d).dead = none) → 2000 < off →
    Completes (.timestampCheck [(die, off)]) s (fun t => (dieOf t die).fenced = true ∧ (dieOf t die).dstate = 3 ∧ (dieOf t die).dead = none
      ∧ (∀ d, d ≠ die → dieOf t d = dieOf s d) ∧ OnlyIn [.pwr, .dies, .pages, .net, .ev, .boot, .flash] s t))
  )

/-- JUNCTION_THERMAL_SAMPLE: the readings are kept and TSTATE moves by the table of R578; a trip fences the die (H0: fatal) and a hub's or untripped compute die's sample touches that die's state only. The caps and the issue level of a compute die at a sample that does not trip it (R579): each cap moves as the table says within 4 to 16, and the level is the smallest of the four. -/
def Obligations.TemperatureCapsTheIssueLevel : Prop :=
  (
  ∀ (s : State) (die : Nat) (temps : List Nat) (power : Nat), s.boot.powered = true → isDie die = true → (dieOf s die).fenced = false → temps.length = 8 →
    let tj := maxOf temps
    let cur := (dieOf s die).tstate
    Completes (.junctionThermalSample die temps power) s (fun t =>
      (dieOf t die).tj = temps
      ∧ (115 ≤ tj ∨ cur = 2 → (dieOf t die).tstate = 2)
      ∧ (tj < 115 → cur = 0 → (dieOf t die).tstate = if 100 ≤ tj then 1 else 0)
      ∧ (tj < 115 → cur = 1 → (dieOf t die).tstate = if tj ≤ 95 then 0 else 1)
      ∧ (∀ d, d ≠ die → dieOf t d = dieOf s d)
      ∧ (115 ≤ tj → cur ≠ 2 → die ≠ 0x60 → (dieOf t die).fenced = true)
      ∧ (115 ≤ tj → cur ≠ 2 → die = 0x60 → t.ev.faultN = true)
      ∧ (tj < 115 → OnlyIn [.dies, .ev] s t))
  ) ∧ (
  ∀ (s : State) (die : Nat) (temps : List Nat) (power : Nat), s.boot.powered = true → isCompute die = true → (dieOf s die).fenced = false →
    temps.length = 8 → maxOf temps < 115 → (dieOf s die).tstate < 2 → 4 ≤ s.pwr.pcap → s.pwr.pcap ≤ 16 →
    (4 ≤ (dieOf s die).capThermal ∧ (dieOf s die).capThermal ≤ 16) → (4 ≤ (dieOf s die).capPower ∧ (dieOf s die).capPower ≤ 16) →
    Completes (.junctionThermalSample die temps power) s (fun t =>
      let a := dieOf s die
      let b := dieOf t die
      (b.tstate = 1 → b.capThermal = max 4 (a.capThermal - 2)) ∧ (b.tstate = 0 → b.capThermal = min 16 (a.capThermal + 1))
      ∧ (1650 < power → b.capPower = max 4 (a.capPower - 1)) ∧ (power ≤ 1600 → b.capPower = min 16 (a.capPower + 1))
      ∧ (1600 < power ∧ power ≤ 1650 → b.capPower = a.capPower) ∧ b.capPackage = s.pwr.pcap
      ∧ (b.levelNext ≤ b.capThermal ∧ b.levelNext ≤ b.capPower ∧ b.levelNext ≤ s.pwr.pcap ∧ (a.nearState = .throttle ∨ a.nearState = .hold → b.levelNext ≤ 8))
      ∧ (b.levelNext = b.capThermal ∨ b.levelNext = b.capPower ∨ b.levelNext = s.pwr.pcap ∨ b.levelNext = 8 ∨ b.levelNext = 16) ∧ 4 ≤ b.levelNext ∧ b.levelNext ≤ 16
      ∧ (a.levelNext = 16 → b.levelNext < 16 → HearsEvents s die → Raises s t die 0x0016 0 0xFF))
  )

/-- POWER_WINDOW_END: PCAP falls by 1 above PWR_LIMIT and rises by 1 below 97 % of it, within 4 to 16; the window's readings are kept and the package's energy counted. PWR_LIMIT_WRITE: a value of 4,000 W to 17,000 W is taken, any other ignored, and at one time the host's value stands. MGMT_TRANSACTION: a management write reaches PWR_LIMIT alone, and a read gives what BAR0 reads as at the offsets admitted and 0 at every other. -/
def Obligations.PowerRegistersAndPcapFollowTheirRules : Prop :=
  (
  ∀ (s : State) (voltage current power energy : Nat) (dies : List (Nat × Nat)), s.boot.powered = true → (∀ d, (dieOf s d).dead = none) →
    4 ≤ s.pwr.pcap → s.pwr.pcap ≤ 16 → 0 < s.pwr.limit → voltage < 65536 → current < 65536 → power < 65536 →
    Completes (.powerWindowEnd voltage current power energy dies) s (fun t =>
      (s.pwr.limit < power → t.pwr.pcap = max 4 (s.pwr.pcap - 1)) ∧ (power * 100 < s.pwr.limit * 97 → t.pwr.pcap = min 16 (s.pwr.pcap + 1))
      ∧ (power ≤ s.pwr.limit → s.pwr.limit * 97 ≤ power * 100 → t.pwr.pcap = s.pwr.pcap)
      ∧ t.pwr.voltage = voltage ∧ t.pwr.current = current ∧ t.pwr.power = power ∧ t.pwr.limit = s.pwr.limit
      ∧ (Tab.get 0 (pkgKey 0x100) t.tel % 2 ^ 48 = (Tab.get 0 (pkgKey 0x100) s.tel + energy) % 2 ^ 48)
      ∧ OnlyIn [.pwr, .tel] s t)
  ) ∧ (
  ∀ (s : State) (v : Nat), v < 2 ^ 15 →
    Completes (.pwrLimitWrite v true) s (fun t => t.pwr.limit = (if 4000 ≤ v ∧ v ≤ 17000 then v else s.pwr.limit) ∧ t.pwr.pcap = s.pwr.pcap ∧ OnlyIn [.pwr] s t)
    ∧ Completes (.pwrLimitWrite v false) s (fun t =>
        t.pwr.limit = (if 4000 ≤ v ∧ v ≤ 17000 ∧ s.pwr.hostAt ≠ some s.now then v else s.pwr.limit) ∧ t.pwr.pcap = s.pwr.pcap ∧ OnlyIn [.pwr] s t)
  ) ∧ (
  ∀ (s : State) (off v : Nat), s.boot.powered = true → v < 2 ^ 15 →
    Completes (.mgmtTransaction off none) s (fun t =>
      (∃ r, t.out = s.out ++ [.reg off r] ∧ (off = 0x00C00000 → r = pwrStatusReg s % 2 ^ 64) ∧ (off = 0x00C00010 → r = s.pwr.limit % 2 ^ 64)
        ∧ (off = 0x01000010 → r = pkgStatusReg s % 2 ^ 64) ∧ (off < 0x00100000 → r = 0)) ∧ OnlyIn [.out] s t)
    ∧ Completes (.mgmtTransaction off (some v)) s (fun t =>
      t.pwr.limit = (if off = 0x00C00010 ∧ 4000 ≤ v ∧ v ≤ 17000 ∧ s.pwr.hostAt ≠ some s.now then v else s.pwr.limit) ∧ OnlyIn [.pwr] s t)
  )

/-- POWER_OFF loses all state but the flash: what stays is the flash, the host's memory and what the package has already given the outside. -/
def Obligations.PowerOffKeepsOnlyTheFlash : Prop :=
  ∀ s : State, s.memoryOk →
    Completes .powerOff s (fun t => t.flash = s.flash ∧ t.boot.powered = false ∧ t.boot.dmode = 0 ∧ (∀ a, a < hostAddr 0 → memByte t.mem a = 0)
      ∧ (∀ a, hostAddr 0 ≤ a → memByte t.mem a = memByte s.mem a)
      ∧ OnlyIn [.boot, .mem, .flash, .out, .freeCtr, .pending] State.reset t ∧ t.out = s.out ∧ t.pending = s.pending)

/-- START rebuilds the package from its flash: nothing of before stays but the queue of commands, the flash, the host's memory and what the outside was given. With no boot record in force H0 starts the golden image with reason NO_BOOT_RECORD; a golden image that fails its check leaves no mode and asserts FAULT_N, one that passes gives MINIMAL. START_WATCHDOG_EXPIRY: a start that has not ended in 30 s is made again; before that, or with the watchdog stopped, nothing happens. RESTART: with FORCE, or with every job from 1 to 63 FREE, a start is due once the reply is visible; otherwise WRONG_STATE. -/
def Obligations.MinimalStartsAndRestarts : Prop :=
  (
  ∀ (s : State) (obs : StartObs), s.boot.powered = true → s.boot.due = some false → s.boot.dueReply = none → obs.flash = none → obs.hang = 0 →
    bootInForce s.flash = none → usedPositions s.flash 0 64 1024 = [] → usedPositions s.flash 0x10000 64 1024 = [] →
    Completes (.start obs) s (fun t =>
      t.now = obs.time ∧ t.boot.source = 2 ∧ t.boot.reason = 7 ∧ t.boot.due = none ∧ t.boot.watchdog = false ∧ t.flash = s.flash ∧ t.pending = s.pending
      ∧ (slotCheck s.flash (slotBase 2) false = none → t.boot.dmode = 2)
      ∧ (slotCheck s.flash (slotBase 2) false ≠ none → t.boot.dmode = 0 ∧ t.ev.faultN = true)
      ∧ (s.memoryOk → ∀ a, memByte t.mem a = if hostAddr 0 ≤ a then memByte s.mem a else 0) ∧ t.out = s.out
      ∧ OnlyIn [.pending, .now, .freeCtr, .mem, .flash, .out, .dies, .net, .ev, .boot] State.reset t
      ∧ (∀ d, d < 100 → d ≠ 0x60 → (dieOf t d).fenced = true))
  ) ∧ (
  ∀ s : State, s.boot.powered = true →
    (s.boot.watchdog = true → 30000000000 ≤ s.now →
      Completes .startWatchdogExpiry s (fun t => t.boot.due.isSome = true ∧ t.boot.dueReply = none ∧ t.boot.watchdog = false ∧ OnlyIn [.boot] s t))
    ∧ (s.boot.watchdog = false ∨ s.now < 30000000000 → Completes .startWatchdogExpiry s (fun t => OnlyIn [] s t))
  ) ∧ (
  ∀ (s : State) (q seq : Nat) (c : HCmd), Started s q seq 0x0705 c → c.p 0 1 < 2 → c.p 1 1 < 2 →
    Completes (.restart q seq) s (fun t =>
      (c.p 1 1 = 1 ∨ (∀ j, 1 ≤ j → j ≤ 63 → (jobOf s j).st = .free) →
        t.boot.due = some (decide (c.p 0 1 = 1)) ∧ t.boot.dueReply = some (q, seq) ∧ Replied t q seq 0 0 0)
      ∧ (c.p 1 1 = 0 → (∃ j, 1 ≤ j ∧ j ≤ 63 ∧ (jobOf s j).st ≠ .free) → t.boot = s.boot ∧ Replied t q seq 0x0301 0 0)
      ∧ OnlyIn [.boot, .queues] s t)
  )

/-- START from a boot record in force whose FAIL_COUNT is below 3 writes the attempt record, with one more failure and one more start; every check passing and no row newly repaired, it ends with DMODE NORMAL and a success record of no failure and the same START_COUNT, and an image that fails its check has its failure recorded and makes another start due with that reason. -/
def Obligations.StartFromABootRecord : Prop :=
  ∀ (s : State) (obs : StartObs) (r : Nat), s.boot.powered = true → s.boot.due = some false → s.boot.dueReply = none → obs.flash = none → obs.hang = 0 →
    obs.flashOk = true → bootInForce s.flash = some r → fld r 16 1 < 2 → fld r 17 1 < 3 →
    let attempt := (putBoot s.flash (bootBody (fld r 16 1) (fld r 17 1 + 1) 1 (min (2 ^ 32 - 1) (fld r 20 4 + 1)))).1
    Completes (.start obs) s (fun t =>
      t.now = obs.time ∧ t.boot.source = fld r 16 1 ∧ t.boot.startCount = min (2 ^ 32 - 1) (fld r 20 4 + 1)
      ∧ (∀ why, slotCheck attempt (slotBase (fld r 16 1)) false = some why →
          t.boot.dmode = 0 ∧ t.boot.due = some false ∧ t.boot.reason = why ∧ t.boot.failCount = fld r 17 1 + 1 ∧ t.boot.phase = 4
            ∧ t.flash = (putBoot attempt (bootBody (fld r 16 1) (fld r 17 1 + 1) why (min (2 ^ 32 - 1) (fld r 20 4 + 1)))).1)
      ∧ (slotCheck attempt (slotBase (fld r 16 1)) false = none → obs.h0Ok = true → obs.personalityOk = true → t.goodDies ≠ [] →
          t.boot.dmode = 1 ∧ t.boot.phase = 9 ∧ t.boot.failCount = 0 ∧ t.boot.watchdog = false ∧ t.boot.doneTime = obs.time ∧ t.pwr.refOk = true
            ∧ (obs.rows = [] → t.flash = (putBoot attempt (bootBody (fld r 16 1) 0 0 (min (2 ^ 32 - 1) (fld r 20 4 + 1)))).1))
      ∧ t.jobs = State.reset.jobs ∧ t.regions = [] ∧ t.kettles = [] ∧ t.queues = [])

/-- FW_WRITE of a slot: checked, its data is read from host memory; once it has come, the write erases and programs the inactive slot from its offset on, and the reply follows; a flash that does not program is answered IMAGE_COMMIT_FAILED. FW_COMMIT: a slot that checks has its COMMIT programmed and is named by a new boot record, whose SEQ is the result; a slot that fails is answered by its failure and nothing is written. FW_STATUS and IDENTITY_CHAIN send their records to host memory and make their replies, which wait for them; the chain is refused while the identity is unavailable. SPDM_REQUEST: H0 answers a request that R531 lists and the exchange admits, and every other with an SPDM error; a version request begins the exchange anew and ends the session, and measurements need the identity. The codes are the model's (PRESUMED, log entry 6). -/
def Obligations.FirmwareStatusAndAttestationAreServed : Prop :=
  (
  (∀ (s : State) (q seq : Nat) (c : HCmd), Started s q seq 0x0701 c → fwTurn s q seq = true → s.boot.fw = none → c.p 16 1 = 0 → c.p 17 7 = 0 →
    c.p 8 4 % 65536 = 0 → 0 < c.p 12 4 → c.p 12 4 % 65536 = 0 → c.p 12 4 ≤ 2 ^ 24 → c.p 8 4 + c.p 12 4 ≤ 2 ^ 26 → c.p 0 8 % 64 = 0 → c.p 0 8 + c.p 12 4 ≤ 2 ^ 52 →
    Completes (.fwWrite q seq) s (fun t => t.boot.fw = some { q := q, seq := seq, data := none }
      ∧ t.host.reads = s.host.reads ++ [{ id := s.host.nextId, addr := hostAddr (c.p 0 8), bytes := c.p 12 4, use := .firmware, since := s.now }]
      ∧ t.flash = s.flash ∧ OnlyIn [.boot, .host, .queues] s t))
  ∧ (∀ (s : State) (q seq : Nat) (c : HCmd) (data : List Byte), Started s q seq 0x0701 c → fwTurn s q seq = true →
    s.boot.fw = some { q := q, seq := seq, data := some (some data) } → c.p 16 1 = 0 →
    Completes (.fwWrite q seq) s (fun t => t.boot.fw = none
      ∧ (s.boot.flashOk = true → t.flash = programSlot s.flash (inactiveSlot s) (c.p 8 4) data ∧ Replied t q seq 0 0 0)
      ∧ (s.boot.flashOk = false → t.flash = s.flash ∧ Replied t q seq 0x0403 0x001B 0)
      ∧ OnlyIn [.boot, .flash, .queues, .ev] s t))
  ) ∧ (
  ∀ (s : State) (q seq : Nat) (c : HCmd), Started s q seq 0x0702 c → fwTurn s q seq = true → c.p 0 1 < 2 → s.boot.flashOk = true →
    let base := slotBase (c.p 0 1)
    let starts := ((bootInForce (flashPutList s.flash (base + 248) (leBytes 8 0))).map (fun r => fld r 20 4)).getD 0
    Completes (.fwCommit q seq) s (fun t =>
      (slotCheck s.flash base true = none →
        let w := putBoot (flashPutList s.flash (base + 248) (leBytes 8 0)) (bootBody (c.p 0 1) 0 0 starts)
        t.flash = w.1 ∧ Replied t q seq 0 0 w.2)
      ∧ (slotCheck s.flash base true = some 2 → t.flash = s.flash ∧ Replied t q seq 0x0107 0 0)
      ∧ (slotCheck s.flash base true = some 3 → t.flash = s.flash ∧ Replied t q seq 0x0505 0 0)
      ∧ (slotCheck s.flash base true = some 4 → t.flash = s.flash ∧ Replied t q seq 0x0506 0 0)
      ∧ OnlyIn [.flash, .queues] s t)
  ) ∧ (
  ∀ (s : State) (q seq : Nat) (c : HCmd), q = 64 → spaceOf (c.p 0 8) = 8 → addrMalformed (c.p 0 8) = false → c.p 0 8 % 64 = 0 →
    (Started s q seq 0x0703 c → Completes (.fwStatus q seq) s (fun t =>
      ∃ bs, RecordSent s t q seq (c.p 0 8) bs 0 ∧ bs.length = 64 ∧ bs.take 1 = leBytes 1 s.boot.source ∧ (bs.drop 48).take 8 = leBytes 8 s.now))
    ∧ (Started s q seq 0x0704 c → s.boot.ident = false → (spdmChain s).length ≤ c.p 8 4 → Completes (.identityChain q seq) s (fun t =>
      RecordSent s t q seq (c.p 0 8) (spdmChain s) (spdmChain s).length))
    ∧ (Started s q seq 0x0704 c → s.boot.ident = true → Completes (.identityChain q seq) s (fun t => Replied t q seq 0x0301 0 0 ∧ OnlyIn [.queues] s t))
  ) ∧ (
  ∀ (s : State) (params : List Byte),
    Completes (.spdmRequest 0x84 params) s (fun t => (∃ d, t.out = s.out ++ [.spdm 0x04 d]) ∧ t.boot.spdm = 1 ∧ t.boot.session = false ∧ OnlyIn [.boot, .out] s t)
    ∧ (∀ code rsp signed, spdmResponse code = some (rsp, signed) → spdmAllowed s code params = true → (signed = true → s.boot.ident = false) →
      Completes (.spdmRequest code params) s (fun t => t.out = s.out ++ [.spdm rsp (spdmData s code params)] ∧ OnlyIn [.boot, .out] s t))
    ∧ (∀ code rsp signed, spdmResponse code = some (rsp, signed) → spdmAllowed s code params = false → Completes (.spdmRequest code params) s (fun t => t.out = s.out ++ [.spdm 0x7F []] ∧ OnlyIn [.out] s t))
    ∧ (∀ code, spdmResponse code = none → Completes (.spdmRequest code params) s (fun t => t.out = s.out ++ [.spdm 0x7F []] ∧ OnlyIn [.out] s t))
    ∧ (3 ≤ s.boot.spdm → s.boot.ident = false → Completes (.spdmRequest 0xE0 params) s (fun t => (∃ d, t.out = s.out ++ [.spdm 0x60 d]) ∧ t.boot = s.boot ∧ OnlyIn [.boot, .out] s t))
    ∧ (3 ≤ s.boot.spdm → s.boot.ident = true → Completes (.spdmRequest 0xE0 params) s (fun t => t.out = s.out ++ [.spdm 0x7F []] ∧ OnlyIn [.out] s t))
  )

/-- LINK_DOWN and CXL_RESET: every queue and the event ring are disabled, the decoders uncommitted, MSI-X reset, the map ring cleared, entries whose writes had no GO held again; jobs, regions, kettles and memory stay. A link loss also stamps its time and starts the grace period. LINK_UP: the trained width and rate are kept, HST_LINK_UP_TIME is stamped and ATTACHES counts, saturating at 255; the grace period ends unless it has already passed. GRACE_EXPIRY with the link still down past t_d + G sets GRACE_EXPIRED. A package's one ACTIVE job becomes SUSPENDING, or is marked to be suspended where it is busy; of a package with no job the link and the events alone change. -/
def Obligations.LinkStateChangesAreTaken : Prop :=
  (
  ∀ (s : State) (kind : Nat),
    let after (t : State) : Prop :=
      (∀ q, (qOf t q).enable = false) ∧ t.evtRing.enable = false ∧ (∀ d, ((Tab.find? d t.decoders).map HdmDecoder.committed) ≠ some true) ∧ t.msix = [] ∧ t.msixPending = []
      ∧ t.net.mapRing = none ∧ t.boot.session = false ∧ (∀ q, (qOf t q).held = (qOf s q).writing ++ (qOf s q).held) ∧ (∀ q, (qOf t q).cmds = (qOf s q).cmds)
    Completes (.cxlReset kind) s (fun t => after t ∧ t.link = s.link
      ∧ OnlyIn [.queues, .evtRing, .ev, .msix, .msixPending, .decoders, .biLines, .biOld, .net, .boot, .host] s t)
    ∧ (s.link.up = true → Completes .linkDown s (fun t => after t ∧ t.link.up = false ∧ t.link.downTime = s.now ∧ t.link.graceRuns = true
      ∧ t.link.attaches = s.link.attaches ∧ t.link.grace = s.link.grace ∧ (HearsEvents s 0x60 → Raises s t 0x60 0x0020 0 0xFF)
      ∧ OnlyIn [.queues, .evtRing, .ev, .msix, .msixPending, .decoders, .biLines, .biOld, .net, .boot, .host, .link] s t))
  ) ∧ (
  ∀ (s : State) (width rate : Nat), s.link.up = false → s.boot.dmode ≠ 0 → (width = 4 ∨ width = 8 ∨ width = 16) → (rate = 32 ∨ rate = 64 ∨ rate = 128) → s.pair.mirror = none →
    Completes (.linkUp width rate) s (fun t => t.link.up = true ∧ t.link.width = width ∧ t.link.rate = rate ∧ t.link.upTime = s.now
      ∧ t.link.attaches = min 255 (s.link.attaches + 1) ∧ t.link.downTime = s.link.downTime ∧ t.link.graceExpired = s.link.graceExpired
      ∧ (s.now ≤ s.link.downTime + s.link.grace * 1000000000 → t.link.graceRuns = false)
      ∧ (s.link.downTime + s.link.grace * 1000000000 < s.now → t.link.graceRuns = s.link.graceRuns)
      ∧ (HearsEvents s 0x60 → Raises s t 0x60 0x0021 0 0xFF) ∧ t.queues = s.queues ∧ OnlyIn [.link, .host, .net, .ev] s t)
  ) ∧ (
  ∀ s : State, s.link.graceRuns = true → s.link.downTime + s.link.grace * 1000000000 < s.now →
    Completes .graceExpiry s (fun t => t.link.graceExpired = true ∧ t.link.graceRuns = false)
    ∧ ((∀ j, 1 ≤ j → (jobOf s j).st = .free ∧ (jobOf s j).graceDue = false) → HearsEvents s 0x60 →
      Completes .graceExpiry s (fun t => t.link = { s.link with graceRuns := false, graceExpired := true } ∧ Raises s t 0x60 0x0022 0 0xFF ∧ (∀ j, jobOf t j = jobOf s j)
        ∧ OnlyIn [.link, .ev, .jobs] s t))
    ∧ (∀ j, 1 ≤ j → j ≤ 63 → (jobOf s j).st = .active → (∀ k, 1 ≤ k → k ≠ j → (jobOf s k).st = .free ∧ (jobOf s k).graceDue = false) → s.pair.mirror = none →
      (jobBusy s j = true → Completes .graceExpiry s (fun t => t.link = { s.link with graceRuns := false, graceExpired := true } ∧ jobOf t j = { jobOf s j with graceDue := true } ∧ OnlyIn [.link, .ev, .jobs] s t))
      ∧ (jobBusy s j = false → s.cfg.load = none → Completes .graceExpiry s (fun t => t.link.graceExpired = true ∧ (jobOf t j).st = .suspending ∧ (jobOf t j).graceDue = true)))
  )

/-- HDM_DECODER_COMMIT: decoder 0 or 1 commits exactly when its size equals its window of R233 and reports a commit error otherwise. HDM_READ through a committed decoder: the line's bytes where its page is OWNED with HOSTVIS and backed, else poison and HDM_ACCESS_DENIED; it waits while its stack is in HOLD (its answer in the command's own step is the model's choice, log entry 110). HDM_WRITE of a whole line through a committed decoder: its 64 bytes are in memory when the command ends and no other byte changes; a write to a page that is not OWNED with HOSTVIS is dropped and reported, and one to a stack in HOLD waits. -/
def Obligations.DeviceMemoryIsDecodedAndServed : Prop :=
  (
  ∀ (s : State) (dec base size : Nat), dec < 2 →
    Completes (.hdmDecoderCommit dec base size) s (fun t =>
      Tab.find? dec t.decoders = some { base := base, committed := size == hdmSize s dec && size != 0, error := !(size == hdmSize s dec && size != 0) }
      ∧ (∀ d, d ≠ dec → Tab.find? d t.decoders = Tab.find? d s.decoders) ∧ OnlyIn [.decoders] s t)
  ) ∧ (
  ∀ (s : State) (hpa a : Nat), hdmAddress s (hpa / 64 * 64) = some a →
    (∀ p, hdmPlace s a = some p → placeHeld s p = true → Completes (.hdmRead hpa []) s (OnlyIn [] s))
    ∧ (hdmPlace s a = none → HearsEvents s 0x60 → Completes (.hdmRead hpa []) s (fun t => t.out = s.out ++ [.hdm hpa none] ∧ Raises s t 0x60 0x0023 0 0xFF ∧ OnlyIn [.out, .ev] s t))
    ∧ (∀ p, hdmPlace s a = some p → placeHeld s p = false → Tab.find? p.home s.flips = none → Tab.find? (p.plus 32).home s.flips = none → Tab.find? p.home s.biOld = none →
      Completes (.hdmRead hpa []) s (fun t => t.out = s.out ++ [.hdm hpa (some (leBytes 32 (wordAt s.mem p.home).toNat ++ leBytes 32 (wordAt s.mem (p.plus 32).home).toNat))]
        ∧ p.home ∈ t.biLines ∧ OnlyIn [.out, .biLines] s t))
  ) ∧ (
  ∀ (s : State) (hpa a : Nat) (data : BitVec 512), s.memoryOk → hdmAddress s (hpa / 64 * 64) = some a →
    (hdmPlace s a = none → HearsEvents s 0x60 → Completes (.hdmWrite hpa (2 ^ 64 - 1) data) s (fun t => Raises s t 0x60 0x0023 0 0xFF ∧ OnlyIn [.ev] s t))
    ∧ (∀ p, hdmPlace s a = some p → placeHeld s p = true → Completes (.hdmWrite hpa (2 ^ 64 - 1) data) s (OnlyIn [] s))
    ∧ (∀ p, hdmPlace s a = some p → placeHeld s p = false → Completes (.hdmWrite hpa (2 ^ 64 - 1) data) s (fun t =>
        outside p.home 64 s t ∧ memGetList t.mem p.home 64 = leBytes 64 data.toNat ∧ OnlyIn [.mem, .flips, .pages, .biOld] s t))
  )

/-- SNOOP_RESPONSE answers every snoop with RspIHitI, and BACK_INVALIDATE_SNOOP_RESPONSE lets its line go, so that what was written to it is visible. HOST_GO_RECEIVED: a GO makes its write visible at its address, an error leaves host memory as it was; once a command's last record is visible its reply joins the entries to be written. HOST_READ_DATA: a parameter block's bytes reach their command, and poison answers it HOST_READ_FAILED. -/
def Obligations.HostRequestsAndSnoopsEnd : Prop :=
  (
  ∀ (s : State) (addr : Nat),
    Completes (.snoopResponse addr) s (fun t => t.out = s.out ++ [.snoop addr] ∧ OnlyIn [.out] s t)
    ∧ Completes (.backInvalidateSnoopResponse addr) s (fun t => addr / 64 * 64 ∉ t.biLines ∧ Tab.find? (addr / 64 * 64) t.biOld = none
      ∧ (∀ l, l ≠ addr / 64 * 64 → ((l ∈ t.biLines) ↔ (l ∈ s.biLines)) ∧ Tab.find? l t.biOld = Tab.find? l s.biOld) ∧ OnlyIn [.biLines, .biOld] s t)
  ) ∧ (
  (∀ (s : State) (w : HostWrite), s.memoryOk → s.link.up = true → s.host.writes.find? (fun x => x.id == w.id) = some w → w.use = .headstock →
    Completes (.hostGoReceived w.id false) s (fun t => memGetList t.mem w.addr w.bytes.length = w.bytes ∧ outside w.addr w.bytes.length s t
      ∧ (∀ x ∈ t.host.writes, x.id ≠ w.id) ∧ t.host.reads = s.host.reads ∧ OnlyIn [.mem, .flips, .host] s t)
    ∧ Completes (.hostGoReceived w.id true) s (fun t => t.mem = s.mem ∧ (∀ x ∈ t.host.writes, x.id ≠ w.id) ∧ OnlyIn [.host] s t))
  ∧ (∀ (s : State) (w : HostWrite) (q : Nat) (c : HCmd) (e : HEntry), s.memoryOk → s.link.up = true → s.host.writes = [w] → w.use = .command q c.seq →
    (qOf s q).cmds = [c] → c.reply = some e → c.stage ≠ .replied →
    Completes (.hostGoReceived w.id false) s (fun t => memGetList t.mem w.addr w.bytes.length = w.bytes ∧ t.host.writes = []
      ∧ (qOf t q).held = (qOf s q).held ++ [e] ∧ (qOf t q).cmds = [{ c with stage := .replied }] ∧ OnlyIn [.mem, .flips, .host, .queues] s t))
  ∧ (∀ (s : State) (r : HostRead) (q seq : Nat) (c : HCmd) (bs : List Byte), s.link.up = true → s.host.reads.find? (fun x => x.id == r.id) = some r → r.use = .param q seq →
    bs.length = r.bytes → (qOf s q).cmd? seq = some c → c.reply = none →
    Completes (.hostReadData r.id (some bs)) s (fun t => (∃ d, (qOf t q).cmd? seq = some d ∧ d.params = bs ∧ d.stage = .ready ∧ d.raw = c.raw)
      ∧ (∀ x ∈ t.host.reads, x.id ≠ r.id) ∧ t.host.writes = s.host.writes ∧ OnlyIn [.host, .queues] s t)
    ∧ Completes (.hostReadData r.id none) s (fun t => Replied t q seq 0x0404 0 0 ∧ (∀ x ∈ t.host.reads, x.id ≠ r.id) ∧ OnlyIn [.host, .queues] s t))
  )

/-- SQ_TAIL and CQ_HEAD of an enabled queue: a value in range becomes the pointer, one out of range sets DB_ERR; a doorbell of a disabled queue does nothing. No other queue changes. QUEUE_ENABLE of a disabled queue of a live job with sizes in range resets its pointers and PHASE and starts reading; a FREE job's queue reads NO_JOB, a reserved size sets CFG_ERR, and a DRAINING queue ignores the write. QUEUE_DISABLE begins DRAINING and QUEUE_DRAINED ends it; accepted commands stay. -/
def Obligations.QueueRegistersAreTaken : Prop :=
  (
  ∀ (s : State) (q v : Nat), q ≤ 64 → v < 65536 →
    let h := qOf s q
    Completes (.sqTail q v) s (fun t => qOf t q = (if h.enable then (if v < 2 ^ (h.sqLog2 + 4) then { h with sqTail := v } else { h with dbErr := true }) else h)
      ∧ (∀ p, p ≠ q → qOf t p = qOf s p) ∧ OnlyIn [.queues] s t)
    ∧ Completes (.cqHead q v) s (fun t => qOf t q = (if h.enable then (if v < 2 ^ (h.cqLog2 + 4) then { h with cqHead := v } else { h with dbErr := true }) else h)
      ∧ (∀ p, p ≠ q → qOf t p = qOf s p) ∧ OnlyIn [.queues] s t)
  ) ∧ (
  ∀ (s : State) (q cfg : Nat), q ≤ 64 →
    let h := qOf s q
    let keeps (t : State) : Prop := (qOf t q).cmds = h.cmds ∧ (qOf t q).kept = h.kept ∧ (qOf t q).lastAccepted = h.lastAccepted ∧ (∀ p, p ≠ q → qOf t p = qOf s p) ∧ OnlyIn [.queues] s t
    (h.enable = false → h.qstate ≠ 5 → (q = 64 ∨ q = 0 ∨ (jobOf s q).st ≠ .free) → cfg / 2 ^ 16 % 16 < 13 → cfg % 16 < 13 →
      Completes (.queueEnable q cfg) s (fun t => (qOf t q).enable = true ∧ (qOf t q).qstate = 1 ∧ (qOf t q).sqHead = 0 ∧ (qOf t q).sqTail = 0 ∧ (qOf t q).cqHead = 0 ∧ (qOf t q).cqTail = 0 ∧ (qOf t q).phase = true
        ∧ (qOf t q).dups = 0 ∧ (qOf t q).sqLog2 = cfg % 16 ∧ (qOf t q).cqLog2 = cfg / 2 ^ 16 % 16 ∧ (qOf t q).vector = cfg / 2 ^ 32 % 2 ^ 11 ∧ (qOf t q).replay = none ∧ keeps t))
    ∧ (h.enable = false → h.qstate ≠ 5 → q ≠ 64 → q ≠ 0 → (jobOf s q).st = .free →
      Completes (.queueEnable q cfg) s (fun t => qOf t q = { h with qstate := 6 } ∧ keeps t))
    ∧ (h.enable = false → h.qstate ≠ 5 → (q = 64 ∨ q = 0 ∨ (jobOf s q).st ≠ .free) → (13 ≤ cfg / 2 ^ 16 % 16 ∨ 13 ≤ cfg % 16) →
      Completes (.queueEnable q cfg) s (fun t => (qOf t q).enable = false ∧ (qOf t q).cfgErr = true ∧ keeps t))
    ∧ (h.enable = false → h.qstate = 5 → Completes (.queueEnable q cfg) s (fun t => OnlyIn [] s t))
    ∧ (h.enable = true → Completes (.queueDisable q) s (fun t => qOf t q = { h with enable := false, qstate := 5, sqTail := h.sqHead } ∧ keeps t))
    ∧ (h.qstate = 5 → h.reading = false → h.writing = [] → Completes (.queueDrained q) s (fun t => qOf t q = { h with qstate := 0, entry := none } ∧ keeps t))
    ∧ (h.qstate = 5 → (h.reading = true ∨ h.writing ≠ []) → Completes (.queueDrained q) s (fun t => qOf t q = h ∧ keeps t))
  )

/-- HST_Q_REPLAY: an 8-byte write to a disabled queue arms a replay; a 4-byte write, or one to an enabled queue, does nothing. The next enable writes every retained entry after the armed numbers again, marked REPLAYED and in order, before any held entry, and none where nothing was armed. REPLY_WRITE: with the queue enabled, the link up and the ring not full, the oldest held entry is written at CQ_TAIL with the phase bit; with the ring full nothing is written. HOST_GO_RECEIVED for a completion entry: CQ_TAIL advances, PHASE flips when it returns to 0, and a reply that is not replayed sets LAST_REPLIED and leaves the queue's commands; an error leaves CQ_TAIL and holds the entry again. KTL_SIGNAL and KTL_RESET of a job: with the rank a kettle of the job, the operand in range and the job in a state that admits it, one kettle operation leaves H0's HOST port; otherwise the write is dropped and recorded in KTL_ERR. -/
def Obligations.RepliesAndReplayAreWritten : Prop :=
  (
  ∀ (s : State) (q v cfg : Nat), q ≤ 64 → v < 2 ^ 64 →
    let h := qOf s q
    (h.enable = false → Completes (.hstQReplay q v 8) s (fun t => (qOf t q).replay = some (v / 2 ^ 32, v % 2 ^ 32) ∧ OnlyIn [.queues] s t))
    ∧ Completes (.hstQReplay q v 4) s (fun t => qOf t q = h ∧ OnlyIn [.queues] s t)
    ∧ (h.enable = true → Completes (.hstQReplay q v 8) s (fun t => qOf t q = h ∧ OnlyIn [.queues] s t))
    ∧ (h.enable = false → h.qstate ≠ 5 → (q = 64 ∨ q = 0 ∨ (jobOf s q).st ≠ .free) → cfg / 2 ^ 16 % 16 < 13 → cfg % 16 < 13 →
      (h.replay = none → Completes (.queueEnable q cfg) s (fun t => (qOf t q).held = h.held.filter (fun e => !e.replayed && !e.unnumbered)))
      ∧ (∀ nf rf, h.replay = some (nf, rf) → seqAfter (h.oldest false) ((rf + 1) % 2 ^ 32) = false →
        Completes (.queueEnable q cfg) s (fun t => (qOf t q).held =
          (h.kept.filter (fun e => seqAfter e.seq (if e.notice then nf else rf))).map (fun e => { e with replayed := true })
            ++ h.held.filter (fun e => !e.replayed && !e.unnumbered))))
  ) ∧ (
  ∀ (s : State) (q : Nat) (e : HEntry) (rest : List HEntry), q ≤ 64 → (qOf s q).enable = true → s.link.up = true → (qOf s q).held = e :: rest → (qOf s q).writing = [] →
    let h := qOf s q
    let tail := (h.cqTail + 1) % 2 ^ (h.cqLog2 + 4)
    (tail ≠ h.cqHead → Completes (.replyWrite q) s (fun t =>
      t.host.writes = s.host.writes ++ [{ id := s.host.nextId, addr := hostAddr (h.cqBase + 32 * h.cqTail), bytes := entryBytes e h.phase, use := .cqEntry q, since := s.now }]
      ∧ (entryBytes e h.phase).length = 32
      ∧ (qOf t q).cqTail = h.cqTail ∧ (qOf t q).phase = h.phase ∧ (qOf t q).held = rest ∧ (qOf t q).writing = [e]
      ∧ (qOf t q).lastReplied = h.lastReplied ∧ OnlyIn [.queues, .host] s t))
    ∧ (tail = h.cqHead → Completes (.replyWrite q) s (fun t => OnlyIn [] s t))
  ) ∧ (
  ∀ (s : State) (q : Nat) (e : HEntry) (w : HostWrite), s.link.up = true → s.host.writes = [w] → w.use = .cqEntry q → (qOf s q).writing = [e] →
    let h := qOf s q
    let tail := (h.cqTail + 1) % 2 ^ (h.cqLog2 + 4)
    Completes (.hostGoReceived w.id false) s (fun t =>
      (qOf t q).cqTail = tail ∧ (qOf t q).phase = (if tail = 0 then !h.phase else h.phase) ∧ (qOf t q).writing = [] ∧ (qOf t q).held = h.held
      ∧ (e.notice = false → e.replayed = false → e.unnumbered = false → (qOf t q).lastReplied = e.seq ∧ (qOf t q).cmds = h.cmds.filter (fun c => c.seq != e.seq))
      ∧ t.host.writes = [] ∧ OnlyIn [.mem, .flips, .host, .queues, .msixPending, .out] s t)
    ∧ Completes (.hostGoReceived w.id true) s (fun t => (qOf t q).cqTail = h.cqTail ∧ (qOf t q).phase = h.phase ∧ (qOf t q).writing = [] ∧ (qOf t q).held = e :: h.held
      ∧ (qOf t q).lastReplied = h.lastReplied ∧ OnlyIn [.host, .queues] s t)
  ) ∧ (
  ∀ (s : State) (j rank operand : Nat), 1 ≤ j → j ≤ 63 → rank < 65536 → operand < 2 ^ 32 →
    let dropped (status : Nat) (t : State) : Prop := qOf t j = { qOf s j with ktlStatus := status, ktlDropped := satAdd (2 ^ 32 - 1) (qOf s j).ktlDropped 1 } ∧ OnlyIn [.queues] s t
    (∀ e, rankEp s j rank = some e → e.port = portKettle → ktlAdmits (jobOf s j).st = true →
      (operand ≠ 0 → operand ≠ 2 ^ 31 → Completes (.ktlSignal j rank operand) s (fun t => t = sendReq s (hostEp j) j j 4 e (kettleArg 1 false operand) [] ∧ OnlyIn [.net] s t))
      ∧ (operand < 2 ^ 31 → Completes (.ktlReset j rank operand) s (fun t => t = sendReq s (hostEp j) j j 4 e (kettleArg 4 false operand) [] ∧ OnlyIn [.net] s t))
      ∧ Completes (.ktlSignal j rank 0) s (dropped 0x0102) ∧ Completes (.ktlSignal j rank (2 ^ 31)) s (dropped 0x0102) ∧ (2 ^ 31 ≤ operand → Completes (.ktlReset j rank operand) s (dropped 0x0102)))
    ∧ (rankEp s j rank = none → Completes (.ktlSignal j rank operand) s (dropped 0x0502) ∧ Completes (.ktlReset j rank operand) s (dropped 0x0502))
    ∧ (∀ e, rankEp s j rank = some e → e.port = portKettle → ktlAdmits (jobOf s j).st = false →
      (operand ≠ 0 → operand ≠ 2 ^ 31 → Completes (.ktlSignal j rank operand) s (dropped 0x0301)) ∧ (operand < 2 ^ 31 → Completes (.ktlReset j rank operand) s (dropped 0x0301)))
    ∧ (∀ e, rankEp s j rank = some e → e.port ≠ portKettle → Completes (.ktlSignal j rank operand) s (dropped 0x0106) ∧ Completes (.ktlReset j rank operand) s (dropped 0x0106))
  )

/-- SUBMISSION_ENTRY_READ: with an entry announced and room, the read of the entry at SQ_HEAD is sent; an entry that has come is accepted when its SEQ is LAST_ACCEPTED + 1, dropped as a duplicate when it is not after LAST_ACCEPTED, and stops the queue otherwise; poison stops reading. COMMAND_START: the first command of a queue that waits is checked first (a failing one is answered with its status), has its parameter block read, becomes ready, and with nothing that holds it back starts. -/
def Obligations.CommandsAreAcceptedAndStarted : Prop :=
  (
  ∀ (s : State) (q : Nat), q ≤ 64 → (qOf s q).enable = true → (qOf s q).qstate = 1 →
    let h := qOf s q
    let next := (h.sqHead + 1) % 2 ^ (h.sqLog2 + 4)
    (h.entry = none → h.reading = false → h.sqHead ≠ h.sqTail → h.cmds.length < 32 → h.cqFull = false → s.link.up = true →
      Completes (.submissionEntryRead q) s (fun t => (qOf t q).reading = true
        ∧ t.host.reads = s.host.reads ++ [{ id := s.host.nextId, addr := hostAddr (h.sqBase + 64 * h.sqHead), bytes := 64, use := .entry q h.sqHead, since := s.now }]
        ∧ OnlyIn [.queues, .host] s t))
    ∧ (∀ b, h.entry = some (some b) → fld b.toNat 4 4 = (h.lastAccepted + 1) % 2 ^ 32 →
      Completes (.submissionEntryRead q) s (fun t => (qOf t q).lastAccepted = fld b.toNat 4 4 ∧ (qOf t q).sqHead = next
        ∧ (qOf t q).cmds = h.cmds ++ [{ seq := fld b.toNat 4 4, raw := b, params := [], stage := .accepted, reply := none, msg := none }] ∧ OnlyIn [.queues] s t))
    ∧ (∀ b, h.entry = some (some b) → fld b.toNat 4 4 ≠ (h.lastAccepted + 1) % 2 ^ 32 → seqAfter (fld b.toNat 4 4) h.lastAccepted = false →
      Completes (.submissionEntryRead q) s (fun t => (qOf t q).lastAccepted = h.lastAccepted ∧ (qOf t q).sqHead = next ∧ (qOf t q).cmds = h.cmds
        ∧ (h.dups < 65535 → (qOf t q).dups = h.dups + 1) ∧ OnlyIn [.queues] s t))
    ∧ (∀ b, h.entry = some (some b) → fld b.toNat 4 4 ≠ (h.lastAccepted + 1) % 2 ^ 32 → seqAfter (fld b.toNat 4 4) h.lastAccepted = true →
      Completes (.submissionEntryRead q) s (fun t => (qOf t q).qstate = 4 ∧ (qOf t q).seqErr = true ∧ (qOf t q).sqHead = h.sqHead ∧ (qOf t q).cmds = h.cmds ∧ OnlyIn [.queues] s t))
    ∧ (h.entry = some none →
      Completes (.submissionEntryRead q) s (fun t => (qOf t q).qstate = 7 ∧ (qOf t q).rdErr = true ∧ (qOf t q).sqHead = h.sqHead ∧ (qOf t q).cmds = h.cmds ∧ OnlyIn [.queues] s t))
  ) ∧ (
  ∀ (s : State) (q : Nat) (c : HCmd), q ≤ 64 → (qOf s q).cmds = [c] → c.reply = none →
    (c.stage = .accepted → entryStatus s q c ≠ 0 → Completes (.commandStart q) s (fun t => Replied t q c.seq (entryStatus s q c) 0 0 ∧ OnlyIn [.queues] s t))
    ∧ (c.stage = .accepted → entryStatus s q c = 0 → c.pblock = false →
      Completes (.commandStart q) s (fun t => (qOf t q).cmds = [{ c with stage := .ready }] ∧ OnlyIn [.queues] s t))
    ∧ (c.stage = .accepted → entryStatus s q c = 0 → c.pblock = true → s.link.up = true →
      Completes (.commandStart q) s (fun t => (qOf t q).cmds = [{ c with stage := .reading }]
        ∧ t.host.reads = s.host.reads ++ [{ id := s.host.nextId, addr := c.f 16 8, bytes := c.f 24 4, use := .param q c.seq, since := s.now }] ∧ OnlyIn [.queues, .host] s t))
    ∧ (c.stage = .ready → q = 64 → c.opcode = 0x0001 → c.fence = 0 → Completes (.commandStart q) s (fun t => (qOf t q).cmds = [{ c with stage := .started }] ∧ OnlyIn [.queues] s t))
    ∧ (c.stage = .ready → q = 64 → c.opcode = 0x0406 → s.ev.fatal = true → Completes (.commandStart q) s (fun t => Replied t q c.seq 0x0301 0 0 ∧ OnlyIn [.queues] s t))
  )

/-- MEM_READ of near or far memory answers DATA with the stored words, in address order, where each is backed, owned by the job and clean; a single-bit error is corrected and written back first, and an uncorrectable word has the read answered ERROR and its page marked. -/
def Obligations.DramReadsAnswerStoredWords : Prop :=
  ∀ (s : State) (m : Msg) (ws : List Word), Admitted s m → m.cfgm = false → m.typ = 2 → memHeld s m = false → memMalformed m = false → m.dst.port ≠ portHost → s.memoryOk →
    (ws.length = memCount m → (∀ i w, ws[i]? = some w → ∃ p, wordCheck s (m.arg.toNat + 32 * i) m.job = .inr p ∧ Tab.find? p.home s.flips = none ∧ w = wordAt s.mem p.home) →
      Completes (.memRead m []) s (fun t => Answered s t m 0x81 0 false ws ∧ OnlyIn [.net] s t))
    ∧ (∀ p f, memCount m = 1 → wordCheck s m.arg.toNat m.job = .inr p → Tab.find? p.home s.flips = some f →
      (∀ r, decodePattern f = .corrected r → Completes (.memRead m []) s (fun t =>
        Answered s t m 0x81 0 false [wordAt s.mem p.home ^^^ BitVec.ofNat 256 r] ∧ Tab.find? p.home t.flips = none ∧ wordAt t.mem p.home = wordAt s.mem p.home ^^^ BitVec.ofNat 256 r
          ∧ outside p.home 32 s t ∧ OnlyIn [.net, .mem, .flips, .tel] s t))
      ∧ (decodePattern f = .uncorrectable → Completes (.memRead m []) s (fun t =>
        Answered s t m 0x83 (match p with | .far _ _ => 0x0210 | _ => 0x0201) false [] ∧ (pageOf t p.page).uncorr = true
          ∧ OnlyIn [.net, .tel, .pages, .ev, .lastFault, .flash] s t)))

/-- MEM_WRITE of near or far memory stores its words in address order and is acknowledged; what it stores is what the addresses of its words lead to, every other byte reads as before, and a word whose page is not the job's is not written. A write narrower than a word changes its own bytes only: the codeword is read, merged and written back. -/
def Obligations.DramWritesStoreAndMerge : Prop :=
  (
  ∀ (s : State) (m : Msg), Admitted s m → m.cfgm = false → m.typ = 3 → memHeld s m = false → memMalformed m = false → m.dst.port ≠ portHost → memBytes m = 0 → s.memoryOk →
    (∀ ps : List Place, ps.length = m.data.length → (∀ (i : Nat) (p : Place), ps[i]? = some p → wordCheck s (memAddr m + 32 * i) m.job = .inr p) →
      Completes (.memWrite m []) s (fun t => Answered s t m 0x80 0 false []
        ∧ (∀ (i : Nat) (p : Place) (w : Word), ps[i]? = some p → m.data[i]? = some w → (∀ (j : Nat) (p' : Place), ps[j]? = some p' → j ≠ i → p'.home + 32 ≤ p.home ∨ p.home + 32 ≤ p'.home) → wordAt t.mem p.home = w)
        ∧ (∀ b, (∀ p ∈ ps, b < p.home ∨ p.home + 32 ≤ b) → memByte t.mem b = memByte s.mem b)
        ∧ (∀ p ∈ ps, (pageOf t p.page).dirty = true ∧ (pageOf t p.page).st = (pageOf s p.page).st)
        ∧ OnlyIn [.mem, .flips, .pages, .net, .biOld, .out] s t))
    ∧ (∀ code, wordCheck s (memAddr m) m.job = .inl code → m.src.port ≠ portStream → Completes (.memWrite m []) s (fun t =>
      Answered s t m 0x83 code false [] ∧ OnlyIn [.net, .ev, .lastFault] s t))
  ) ∧ (
  ∀ (s : State) (m : Msg) (p : Place) (w : Word), Admitted s m → m.cfgm = false → m.typ = 3 → memHeld s m = false → memMalformed m = false → m.dst.port ≠ portHost →
    memBytes m ≠ 0 → s.memoryOk → m.data = [w] → wordCheck s (memAddr m) m.job = .inr p → Tab.find? (p.home / 32 * 32) s.flips = none →
    Completes (.memWrite m []) s (fun t => Answered s t m 0x80 0 false []
      ∧ memGetList t.mem p.home (memBytes m) = leBytes (memBytes m) (fld w.toNat (memAddr m % 32) (memBytes m)) ∧ outside p.home (memBytes m) s t
      ∧ OnlyIn [.mem, .flips, .pages, .net, .biOld, .out] s t)
  )

/-- The near stack: a sample moves its thermal state by the table of R217 and is reported on entering THROTTLE or HOLD, HOLD of 50 ms fences the die, and a refresh changes no data. A near or far channel lost in service leaves its granules unbacked at once, counts as a change of the good-unit map and is reported, and no other channel changes; a poll of a far device's refresh rate changes that field alone. The patrol scrub of a near word: a correctable error is written back with a clean codeword and counted; a clean word is left as it is, and so is every word while the stack is in HOLD. -/
def Obligations.ChannelsWarmAreLostAndAreScrubbed : Prop :=
  (
  ∀ (s : State) (die : Nat), isCompute die = true →
    (∀ t0 t1 t2 t3, Completes (.stackThermalSample die t0 t1 t2 t3) s (fun t =>
      let d := dieOf s die
      let x := max (max t0 t1) (max t2 t3)
      (d.nearState = .normal → (dieOf t die).nearState = (if 85 < x then .double else .normal))
      ∧ (d.nearState = .double → (dieOf t die).nearState = (if 90 ≤ x then .throttle else if x ≤ 83 then .normal else .double))
      ∧ (d.nearState = .throttle → (dieOf t die).nearState = (if 95 ≤ x then .hold else if x ≤ 88 then .double else .throttle))
      ∧ (d.nearState = .hold → (dieOf t die).nearState = (if x ≤ 93 then .throttle else .hold))
      ∧ ((dieOf t die).nearState = .hold → d.nearState ≠ .hold → d.holdSince = none → (dieOf t die).holdSince = some s.now)
      ∧ ((dieOf t die).nearState ≠ .hold → (dieOf t die).holdSince = none)
      ∧ (HearsEvents s die → (dieOf t die).nearState = .throttle → d.nearState ≠ .throttle → Raises s t die 0x0203 0 0xFF)
      ∧ (HearsEvents s die → (dieOf t die).nearState = .hold → d.nearState ≠ .hold → Raises s t die 0x0204 0 0xFF)
      ∧ (∀ k, k ≠ die → dieOf t k = dieOf s k) ∧ OnlyIn [.dies, .tel, .regions, .ev] s t))
    ∧ (∀ since, (dieOf s die).holdSince = some since → (dieOf s die).nearState = .hold → (dieOf s die).fenced = false →
      (since + 50000000 ≤ s.now → Completes (.nearThermalTimeout die) s (fun t => (dieOf t die).fenced = true ∧ (∀ a o ch, placeOf t a ≠ .near die o ch)
        ∧ (∀ k, k ≠ die → dieOf t k = dieOf s k) ∧ OnlyIn [.dies, .net, .ev, .pages, .boot, .flash] s t))
      ∧ (s.now < since + 50000000 → Completes (.nearThermalTimeout die) s (fun t => OnlyIn [] s t)))
    ∧ (∀ ch, ch < 24 → Completes (.refresh die ch) s (fun t => OnlyIn [] s t))
  ) ∧ (
  (∀ (s : State) (die ch : Nat), isCompute die = true → ch < 24 → (dieOf s die).goodCh.contains ch = true → (dieOf s die).lostCh.contains ch = false →
    Completes (.nearChannelLost die ch) s (fun t => (dieOf t die).lostCh = (dieOf s die).lostCh ++ [ch] ∧ t.boot.changes = s.boot.changes + 1 ∧ (∀ a o, placeOf t a ≠ .near die o ch)
      ∧ (HearsEvents s die → Raises s t die 0x0202 0 0xFF) ∧ (∀ k, k ≠ die → dieOf t k = dieOf s k) ∧ OnlyIn [.dies, .pages, .boot, .flash, .ev] s t))
  ∧ (∀ (s : State) (hub ch : Nat) (c : FarCh), isHub hub = true → ch < 32 → Tab.find? ch (dieOf s hub).far = some c →
    (c.st = .good → Completes (.farChannelLost hub ch) s (fun t => Tab.find? ch (dieOf t hub).far = some { c with st := .lost } ∧ t.boot.changes = s.boot.changes + 1 ∧ (∀ a o, placeOf t a ≠ .far ((hub - 0x60) * 32 + ch) o)
      ∧ (hub ≠ 0x60 → HearsEvents s hub → Raises s t hub 0x0211 0 0xFF) ∧ (∀ k, k ≠ ch → Tab.find? k (dieOf t hub).far = Tab.find? k (dieOf s hub).far)
      ∧ (∀ k, k ≠ hub → dieOf t k = dieOf s k) ∧ OnlyIn [.dies, .pages, .boot, .flash, .ev] s t))
    ∧ (∀ rate, rate < 256 → Completes (.farRefreshRatePoll hub ch rate) s (fun t => Tab.find? ch (dieOf t hub).far = some { c with refreshRate := rate }
      ∧ (∀ k, k ≠ ch → Tab.find? k (dieOf t hub).far = Tab.find? k (dieOf s hub).far) ∧ (∀ k, k ≠ hub → dieOf t k = dieOf s k) ∧ OnlyIn [.dies] s t)))
  ) ∧ (
  ∀ (s : State) (addr o ch die : Nat), addrMalformed addr = false → placeOf s addr = .near die o ch → s.memoryOk →
    let a := nearAddr die (o / 32 * 32)
    (Tab.find? a s.flips = none → Completes (.patrolScrubDram addr []) s (fun t => OnlyIn [] s t))
    ∧ ((dieOf s die).nearState = .hold → Completes (.patrolScrubDram addr []) s (fun t => OnlyIn [] s t))
    ∧ (∀ f r, (dieOf s die).nearState ≠ .hold → Tab.find? a s.flips = some f → decodePattern f = .corrected r → Completes (.patrolScrubDram addr []) s (fun t =>
      wordAt t.mem a = wordAt s.mem a ^^^ BitVec.ofNat 256 r ∧ Tab.find? a t.flips = none ∧ outside a 32 s t
        ∧ telGet t die ((dpSite ch).getD 0) 0x208 = telRaise (telGet s die ((dpSite ch).getD 0) 0x208) 1 ∧ OnlyIn [.mem, .flips, .tel] s t))
  )

/-- EVENT_RAISE: an event waits at its die block in order, stamped with the time, behind at most 63 others; a further one is dropped and counted. A contained event of no job is corrected, and a fatal one asserts FAULT_N. EVENT_ARRIVAL at H0: the oldest event of H0's block is taken, numbered, and held as its record while the ring is off; a second CORRECTED event of its key in a period is only counted; a contained event faults its job, but for a stream's bad word, whose job is faulted by its task's STREAM_FAULT; a fatal one faults every active job. Each event that reaches H0 counts in the counter of its class, coalesced or not: 48 bits that wrap into a sticky bit 63, and no other class's counter changes. COALESCE_PERIOD_END: a key counted in an ended period is recorded once with its count, and a running period is left alone. -/
def Obligations.EventsAreHeldNumberedAndRecorded : Prop :=
  (
  ∀ (s : State) (die : Nat) (e : Ev), isDie die = true → e.code ≠ 0 → ((dieOf s die).fenced = false ∨ die = 0x60) →
    ((eventsAt s die).length < 64 →
      (e.cls = 0 → Completes (.eventRaise die e) s (fun t => Raises s t die e.code 0 e.job ∧ OnlyIn [.ev] s t))
      ∧ (e.cls = 1 → 1 ≤ e.job → e.job ≤ 63 → Completes (.eventRaise die e) s (fun t => Raises s t die e.code 1 e.job ∧ OnlyIn [.ev, .lastFault] s t))
      ∧ (e.cls = 1 → (e.job = 0 ∨ 63 < e.job) → Completes (.eventRaise die e) s (fun t => Raises s t die e.code 0 0xFF ∧ OnlyIn [.ev] s t))
      ∧ (2 ≤ e.cls → Completes (.eventRaise die e) s (fun t => Raises s t die e.code 2 e.job ∧ t.ev.faultN = true ∧ OnlyIn [.ev] s t)))
    ∧ (64 ≤ (eventsAt s die).length → Completes (.eventRaise die e) s (fun t => eventsAt t die = eventsAt s die
      ∧ (Tab.get dieEventsInitial die t.ev.dies).dropped = (Tab.get dieEventsInitial die s.ev.dies).dropped + 1 ∧ OnlyIn [.ev, .lastFault] s t))
  ) ∧ (
  ∀ (s : State) (e : Ev) (rest : List Ev), eventsAt s 0x60 = e :: rest → e.ukind ≠ 1 → e.ext = none → s.ev.held = [] → s.evtRing.enable = false →
    let new := s.ev.coalesce.any (fun c => c.matches e (periodOf s.now)) = false
    let recorded (t : State) : Prop := t.ev.held = [eventBytes e s.ev.number s.ev.nwrap false 1] ∧ t.ev.number = (s.ev.number + 1) % 2 ^ 32
    (e.cls = 0 → new → Completes (.eventArrival 0x60) s (fun t => eventsAt t 0x60 = rest ∧ recorded t ∧ OnlyIn [.ev, .tel] s t))
    ∧ (e.cls = 0 → ¬ new → Completes (.eventArrival 0x60) s (fun t => eventsAt t 0x60 = rest ∧ t.ev.held = [] ∧ t.ev.number = s.ev.number
      ∧ (∃ c ∈ t.ev.coalesce, c.matches e (periodOf s.now) = true ∧ 0 < c.count ∧ c.last = e) ∧ OnlyIn [.ev, .tel] s t))
    ∧ (e.cls = 1 → e.defers = true → Completes (.eventArrival 0x60) s (fun t => eventsAt t 0x60 = rest ∧ recorded t ∧ OnlyIn [.ev, .tel] s t))
    ∧ (e.cls = 1 → e.defers = false → 1 ≤ e.job → e.job ≤ 63 → (jobOf s e.job).st = .active → Completes (.eventArrival 0x60) s (fun t => recorded t ∧ (jobOf t e.job).st = .faulted
      ∧ (s.regions = [] → eventsAt t 0x60 = rest ∧ OnlyIn [.ev, .tel, .queues, .jobs, .cfg, .pair, .kettles, .host] s t)))
    ∧ (e.cls = 2 → Completes (.eventArrival 0x60) s (fun t => t.ev.fatal = true ∧ t.ev.faultN = true ∧ (s.ev.firstFatal = 0 → t.ev.firstFatal = e.code)
      ∧ (s.ev.firstFatal ≠ 0 → t.ev.firstFatal = s.ev.firstFatal) ∧ (∀ j, 1 ≤ j → j ≤ 63 → (jobOf s j).st = .active → (jobOf t j).st = .faulted)
      ∧ (s.regions = [] → eventsAt t 0x60 = rest ∧ OnlyIn [.ev, .tel, .queues, .jobs, .cfg, .pair, .kettles, .host] s t)))
  ) ∧ (
  ∀ (s : State) (die : Nat) (e : Ev) (rest : List Ev), eventsAt s die = e :: rest → e.cls ≤ 2 →
    (die = 0x60 ∨ die = h0Events ∨ (isDie die = true ∧ s.net.tableFenced.contains die = false ∧ (dieDistance s die 0x60).isSome = true)) →
    Completes (.eventArrival die) s (fun t =>
      let old := Tab.get 0 (pkgKey (8 * e.cls)) s.tel
      let new := Tab.get 0 (pkgKey (8 * e.cls)) t.tel
      new % 2 ^ 48 = (old + 1) % 2 ^ 48 ∧ bit new 63 = (bit old 63 || old % 2 ^ 48 == 2 ^ 48 - 1) ∧ new / 2 ^ 48 % 2 ^ 15 = 0 ∧ new < 2 ^ 64
      ∧ (∀ c, c ≤ 2 → c ≠ e.cls → Tab.get 0 (pkgKey (8 * c)) t.tel = Tab.get 0 (pkgKey (8 * c)) s.tel))
  ) ∧ (
  ∀ (s : State) (c : Coalesce), s.ev.coalesce = [c] → s.ev.held = [] → s.evtRing.enable = false → c.last.ext = none →
    (c.period < periodOf s.now → 0 < c.count → Completes .coalescePeriodEnd s (fun t =>
      t.ev.held = [eventBytes c.last s.ev.number s.ev.nwrap true (min 255 c.count)] ∧ t.ev.coalesce = [] ∧ t.ev.number = (s.ev.number + 1) % 2 ^ 32 ∧ OnlyIn [.ev] s t))
    ∧ (c.period < periodOf s.now → c.count = 0 → Completes .coalescePeriodEnd s (fun t => t.ev.held = [] ∧ t.ev.coalesce = [] ∧ t.ev.number = s.ev.number ∧ OnlyIn [.ev] s t))
    ∧ (periodOf s.now ≤ c.period → Completes .coalescePeriodEnd s (fun t => OnlyIn [] s t))
  )

/-- The event ring: setting ENABLE puts TAIL and HEAD to 0 and takes VECTOR and LOG2; a reserved LOG2 has the write ignored whole; HEAD takes a value below the ring size and no other. REGISTER_WRITE: an access that is neither 4 nor 8 bytes or not aligned is ignored, a 4-byte write changes its half only, HST_GRACE takes 0 to 60 seconds, and GRACE_EXPIRED is cleared by a 1. -/
def Obligations.RegisterWritesAreTaken : Prop :=
  (
  ∀ (s : State) (v : Nat), s.ev.held = [] →
    (v % 16 ≤ 12 → bit v 63 = true → s.evtRing.enable = false → Completes (.hstEvtCfg v) s (fun t =>
      t.evtRing = { s.evtRing with enable := true, vector := v / 2 ^ 32 % 2 ^ 11, log2 := v % 16, tail := 0, head := 0 } ∧ OnlyIn [.evtRing] s t))
    ∧ (v % 16 ≤ 12 → bit v 63 = false → s.evtRing.enable = true → Completes (.hstEvtCfg v) s (fun t => t.evtRing = { s.evtRing with enable := false } ∧ OnlyIn [.evtRing] s t))
    ∧ (12 < v % 16 → Completes (.hstEvtCfg v) s (fun t => OnlyIn [] s t))
    ∧ (v < 65536 → Completes (.hstEvtHead v) s (fun t =>
      t.evtRing = { s.evtRing with head := if v < 2 ^ (s.evtRing.log2 + 4) then v else s.evtRing.head } ∧ OnlyIn [.evtRing] s t))
  ) ∧ (
  ∀ (s : State) (off size v : Nat), v < 2 ^ 64 →
    ((size ≠ 4 ∧ size ≠ 8) ∨ off % size ≠ 0 → Completes (.registerWrite off size v) s (fun t => OnlyIn [] s t))
    ∧ Completes (.registerWrite 0x10 8 v) s (fun t => t.link = { s.link with grace := if v % 64 ≤ 60 then v % 64 else s.link.grace } ∧ OnlyIn [.link] s t)
    ∧ Completes (.registerWrite 0x08 8 v) s (fun t => t.link = { s.link with graceExpired := s.link.graceExpired && !bit v 4 } ∧ OnlyIn [.link] s t)
    ∧ (v < 2 ^ 32 → s.evtRing.enable = false → s.evtRing.base < 2 ^ 52 →
      Completes (.registerWrite 0x40 4 v) s (fun t => t.evtRing.base = s.evtRing.base / 2 ^ 32 * 2 ^ 32 + v / 32 * 32 ∧ OnlyIn [.evtRing] s t)
      ∧ Completes (.registerWrite 0x44 4 v) s (fun t => t.evtRing.base = v % 2 ^ 20 * 2 ^ 32 + s.evtRing.base % 2 ^ 32 / 32 * 32 ∧ OnlyIn [.evtRing] s t))
  )

/-- A router or grain switch whose site becomes a hole in service loses what it held and has the route tables due for a rewrite; the rewrite takes in all holes, fenced dies and lost lane groups and drops the packets that they leave without a way. The configuration port: CFG_REG reads a register of its window and a write clears the sticky WRAP that it names; CFG_FRAME is staged by a controller enrolled in the frame's load and discarded by any other; the job counters are brought up to date. -/
def Obligations.RoutesAndConfigurationAreServed : Prop :=
  (
  (∀ (s : State) (die site : Nat), isCompute die = true → site < 480 → s.net.holes.contains (siteKey die site) = false →
    let lost (t : State) : Prop := t.net.holes = s.net.holes ++ [siteKey die site] ∧ t.net.rewriteDue = some (s.net.rewriteDue.getD s.now)
      ∧ t.net.packets = s.net.packets.filter (fun p => !(p.die == die && p.site == site)) ∧ t.net.tableHoles = s.net.tableHoles ∧ t.boot.changes ≠ s.boot.changes
      ∧ (∀ k, k ≠ die → dieOf t k = dieOf s k) ∧ OnlyIn [.net, .boot, .flash, .ev, .dies, .pages, .lastFault] s t
    Completes (.grainCircuitHole die site) s lost
    ∧ Completes (.mullRouterHole die site) s (fun t => lost t ∧ ((dieOf s die).fenced = false → (eventsAt s die).length + (grainJobs (grOf s die site)).length + 3 < 64 →
        ∃ e, (eventsAt t die).getLast? = some e ∧ e.code = 0x0501 ∧ e.cls = 0 ∧ e.index = site)))
  ∧ (∀ (s : State) (due : Nat), s.net.rewriteDue = some due → Completes .routeTableRewrite s (fun t =>
      t.net.tableHoles = s.net.holes ∧ t.net.tableLostGroups = s.net.lostGroups ∧ t.net.rewriteDue = none
      ∧ (∀ d, t.net.tableFenced.contains d = (decide (d < 100) && (dieOf s d).fenced))
      ∧ (∀ p, p ∈ t.net.packets ↔ p ∈ s.net.packets ∧ t.net.tableFenced.contains p.msg.dst.die = false ∧ s.net.holes.contains (siteKey p.msg.dst.die (routerOf p.msg.dst)) = false)
      ∧ OnlyIn [.net] s t))
  ) ∧ (
  (∀ (s : State) (m : Msg), Admitted s m → m.cfgm = false →
    let off := m.arg.toNat % 2 ^ 32
    (m.typ = 0x0A → m.dst.port ≠ portHost → winExists m.dst.die m.dst.site = true → bits m.arg.toNat 39 32 = 8 → off % 8 = 0 →
      (bit m.arg.toNat 40 = false → Completes (.cfgReg m) s (fun t => Answered s t m 0x81 0 false [BitVec.ofNat 256 (winReg s m.dst.die m.dst.site off)] ∧ OnlyIn [.net] s t))
      ∧ (bit m.arg.toNat 40 = true → m.dst.site = blockSite → bit (m.data.headD 0).toNat 63 = true → Completes (.cfgReg m) s (fun t =>
        Answered s t m 0x80 0 false [] ∧ telGet t m.dst.die blockSite off = telGet s m.dst.die blockSite off % 2 ^ 63 ∧ OnlyIn [.net, .tel] s t)))
    ∧ (m.typ = 9 → m.dst.port = portConfig →
      let d := stageOf s m.dst.die
      let col := fld m.arg.toNat 1 1
      let f := fld m.arg.toNat 2 2
      (d.enrolled = true → s.cfg.load.isSome = true → bits m.arg.toNat 47 32 = loadTag s → (fld m.arg.toNat 0 1 = m.dst.die ∨ fld m.arg.toNat 0 1 = 0x7F) →
        Completes (.cfgFrame m) s (fun t => Answered s t m 0x80 0 false [] ∧ (stageOf t m.dst.die).frames = (d.frames + 1) % 65536
          ∧ (stageOf t m.dst.die).fsum = (d.fsum + frameCrc (fld m.arg.toNat 0 1) col f (frameData m.data)) % 2 ^ 64
          ∧ (fld m.arg.toNat 0 1, col, f, frameData m.data) ∈ (stageOf t m.dst.die).taken ∧ (∀ k, k ≠ m.dst.die → stageOf t k = stageOf s k) ∧ OnlyIn [.net, .cfg] s t))
      ∧ (d.enrolled = false → Completes (.cfgFrame m) s (fun t => t.net.packets = s.net.packets ∧ stageOf t m.dst.die = d ∧ OnlyIn [.net] s t))))
  ∧ (∀ s : State, Completes .jobCounterUpdate s (fun t => (∀ j x, Tab.find? j s.jobs = some x → (jobOf t j).st = x.st ∧ (x.st = .active → (jobOf t j).activeFrom = s.now)) ∧ OnlyIn [.jobs] s t)
    ∧ (∀ j x, s.regions = [] → s.jobs = [(j, x)] → x.st = .active → x.activeFrom ≤ s.now → Completes .jobCounterUpdate s (fun t =>
      Tab.get 0 0x10 (jobOf t j).counters % 2 ^ 48 = (Tab.get 0 0x10 x.counters + (s.now - x.activeFrom)) % 2 ^ 48)))
  )

/-- DEVICE_INFO, GOOD_UNIT_MAP, CONFIG_STATUS, JOB_STATUS and KETTLE_INSPECT send their record to host memory and make their reply; a map buffer too short is answered BAD_FIELD. -/
def Obligations.RecordCommandsWriteTheirRecords : Prop :=
  ∀ (s : State) (q seq : Nat) (c : HCmd),
    (Started s q seq 0x0001 c → RecordAt s q (c.p 0 8) 64 → Completes (.deviceInfo q seq) s (fun t => ∃ bs, RecordSent s t q seq (c.p 0 8) bs 0 ∧ bs.length = 64
      ∧ bs.take 1 = leBytes 1 orderCode ∧ (bs.drop 1).take 1 = leBytes 1 (usableDies s) ∧ (bs.drop 2).take 1 = leBytes 1 s.boot.dmode
      ∧ (bs.drop 16).take 8 = leBytes 8 s.cfg.epoch ∧ (bs.drop 24).take 8 = leBytes 8 (hdmSize s 0) ∧ (bs.drop 40).take 8 = leBytes 8 s.now))
    ∧ (Started s q seq 0x0002 c → 18752 ≤ c.p 8 4 → RecordAt s q (c.p 0 8) 18752 → Completes (.goodUnitMap q seq) s (fun t =>
      RecordSent s t q seq (c.p 0 8) (goodMap s) 18752 ∧ (goodMap s).length = 18752 ∧ (goodMap s).take 4 = leBytes 4 0x4D554755))
    ∧ (Started s q seq 0x0002 c → c.p 8 4 < 18752 → Completes (.goodUnitMap q seq) s (fun t => OnlyReplied s t q seq 0x0102))
    ∧ (Started s q seq 0x0103 c → RecordAt s q (c.p 0 8) 64 → Completes (.configStatus q seq) s (fun t => ∃ bs, RecordSent s t q seq (c.p 0 8) bs 0 ∧ bs.length = 64
      ∧ bs.take 8 = leBytes 8 s.cfg.epoch ∧ (bs.drop 16).take 8 = leBytes 8 s.cfg.loadCount ∧ (bs.drop 32).take 1 = leBytes 1 (loadPhase s) ∧ (bs.drop 40).take 8 = leBytes 8 s.now))
    ∧ (Started s q seq 0x020B c → RecordAt s q (c.p 0 8) (80 + 2 * (jobRegions s c.job).length) → Completes (.jobStatus q seq) s (fun t => ∃ bs, RecordSent s t q seq (c.p 0 8) bs 0
      ∧ bs.length = 80 + 2 * (jobRegions s c.job).length ∧ bs.take 8 = leBytes 8 (jobStateReg s c.job) ∧ (bs.drop 8).take 8 = leBytes 8 (jobPagesReg s c.job)
      ∧ (bs.drop 16).take 8 = leBytes 8 (jobCounterReg s c.job 0x10)))
    ∧ (∀ e, Started s q seq 0x0405 c → c.p 2 2 ≤ 4096 → c.p 4 4 = 0 → rankEp s c.job (c.p 0 2) = some e → e.port = portKettle →
      ((ktOf s e.die).kettle e.index).owner = some c.job → (dieOf s e.die).fenced = false → RecordAt s q (c.p 8 8) (inspectBytes s c.job e (c.p 2 2)).length →
      Completes (.kettleInspect q seq) s (fun t => RecordSent s t q seq (c.p 8 8) (inspectBytes s c.job e (c.p 2 2)) 0
        ∧ (inspectBytes s c.job e (c.p 2 2)).take 4 = leBytes 4 ((ktOf s e.die).kettle e.index).value ∧ t.kettles = s.kettles))

/-- HOST_WINDOW_SET sets one window of a job, which a running job's may only widen; MAP_RING_SET and MAP_RING_CLEAR set up and take away the map ring; SYNC changes nothing; a command that has not started changes nothing. -/
def Obligations.WindowsAndRingsAreSet : Prop :=
  ∀ (s : State) (q seq : Nat) (c : HCmd),
    (Started s q seq 0x0003 c → c.p 0 1 < 16 → c.p 1 1 < 4 → c.p 2 6 = 0 → c.job ≠ 0 → c.p 8 8 % 4096 = 0 → c.p 16 8 % 4096 = 0 → c.p 8 8 + c.p 16 8 ≤ 2 ^ 52 → (jobOf s c.job).st = .active →
      (windowWidens (Tab.find? (c.p 0 1) (jobOf s c.job).windows) (hostAddr (c.p 8 8)) (c.p 16 8) (c.p 1 1) = true → Completes (.hostWindowSet q seq) s (fun t => Replied t q seq 0 0 0
        ∧ Tab.find? (c.p 0 1) (jobOf t c.job).windows = (if c.p 16 8 = 0 then none else some (hostAddr (c.p 8 8), c.p 16 8, c.p 1 1))
        ∧ (∀ w, w ≠ c.p 0 1 → Tab.find? w (jobOf t c.job).windows = Tab.find? w (jobOf s c.job).windows) ∧ (∀ j, j ≠ c.job → jobOf t j = jobOf s j) ∧ OnlyIn [.jobs, .queues] s t))
      ∧ (windowWidens (Tab.find? (c.p 0 1) (jobOf s c.job).windows) (hostAddr (c.p 8 8)) (c.p 16 8) (c.p 1 1) = false → Completes (.hostWindowSet q seq) s (fun t => OnlyReplied s t q seq 0x0301)))
    ∧ (Started s q seq 0x0501 c → 1 ≤ c.p 8 2 → c.p 8 2 ≤ 256 → (c.p 10 2 < 2048 ∨ c.p 10 2 = 0xFFFF) → c.p 0 8 % 64 = 0 → spaceOf (c.p 0 8) = 8 → addrMalformed (c.p 0 8) = false →
      Completes (.mapRingSet q seq) s (fun t => Replied t q seq 0 0 0 ∧ t.net = { s.net with mapRing := some (c.p 0 8, c.p 8 2) } ∧ t.mapVector = c.p 10 2 ∧ OnlyIn [.net, .mapVector, .queues] s t))
    ∧ (Started s q seq 0x0501 c → (c.p 8 2 = 0 ∨ 256 < c.p 8 2) → Completes (.mapRingSet q seq) s (fun t => OnlyReplied s t q seq 0x0102))
    ∧ (Started s q seq 0x0502 c → Completes (.mapRingClear q seq) s (fun t => Replied t q seq 0 0 0 ∧ t.net = { s.net with mapRing := none } ∧ OnlyIn [.net, .queues] s t))
    ∧ (Started s q seq 0x0406 c → Completes (.sync q seq) s (fun t => OnlyReplied s t q seq 0))
    ∧ (q ≤ 64 → (qOf s q).cmd? seq = some c → c.stage = .ready → Completes (.sync q seq) s (fun t => OnlyIn [] s t) ∧ Completes (.createJob q seq) s (fun t => OnlyIn [] s t)
      ∧ Completes (.killJob q seq) s (fun t => OnlyIn [] s t) ∧ Completes (.allocMem q seq) s (fun t => OnlyIn [] s t))

/-- CREATE_JOB takes a FREE job to ACTIVE with no resource but its queue, whose numbers and retention start anew; a job that is not FREE is answered WRONG_STATE, and no other job changes. KILL_JOB of a job without regions ends at once: its kettles are free, its pages enter zeroing, its commands are answered, and it is FREE, or CAPTURED where it keeps a capture; SUSPEND_JOB and RESUME_JOB take a job to SUSPENDED and back, working while its regions are not at rest. -/
def Obligations.JobsAreCreatedAndEnded : Prop :=
  (
  ∀ (s : State) (seq : Nat) (c : HCmd), Started s 64 seq 0x0201 c → 1 ≤ c.job → c.job ≤ 63 → 1 ≤ c.p 0 4 → c.p 0 4 ≤ 65536 → c.p 4 1 < 8 → c.p 5 3 = 0 →
    (bit (c.p 4 1) 1 = true → bit (c.p 4 1) 0 = true) → (bit (c.p 4 1) 0 = false → c.p 8 8 = 0 ∧ c.p 16 8 = 0) →
    (bit (c.p 4 1) 0 = true → c.p 16 8 % 4096 = 0 ∧ 4096 ≤ c.p 16 8 ∧ c.p 16 8 ≤ 2 ^ 40 ∧ c.p 8 8 % 64 = 0 ∧ spaceOf (c.p 8 8) = 8 ∧ addrMalformed (c.p 8 8) = false
      ∧ addrMalformed (c.p 8 8 + c.p 16 8 - 1) = false) →
    ((jobOf s c.job).st = .free → Completes (.createJob 64 seq) s (fun t => Replied t 64 seq 0 0 0
      ∧ jobOf t c.job = { jobInitial with st := .active, ranks := c.p 0 4, capture := bit (c.p 4 1) 0, capData := bit (c.p 4 1) 1, selfAlloc := bit (c.p 4 1) 2, captureAddr := c.p 8 8, captureSize := c.p 16 8, activeFrom := s.now }
      ∧ (qOf t c.job).lastAccepted = 0xFFFFFFFF ∧ (qOf t c.job).lastReplied = 0xFFFFFFFF ∧ (qOf t c.job).nextNotice = 0 ∧ (qOf t c.job).kept = [] ∧ (qOf t c.job).cmds = []
      ∧ (∀ j, j ≠ c.job → jobOf t j = jobOf s j) ∧ (∀ p, p ≠ 64 → p ≠ c.job → qOf t p = qOf s p)
      ∧ t.host.reads = s.host.reads ∧ t.host.writes.map (fun w => (w.id, w.addr, w.bytes)) = s.host.writes.map (fun w => (w.id, w.addr, w.bytes)) ∧ OnlyIn [.jobs, .queues, .host] s t))
    ∧ ((jobOf s c.job).st ≠ .free → Completes (.createJob 64 seq) s (fun t => OnlyReplied s t 64 seq 0x0301))
  ) ∧ (
  (∀ (s : State) (seq : Nat) (c : HCmd), Started s 64 seq 0x0202 c → c.stage = .started → 1 ≤ c.job → c.job ≤ 63 → s.pair.mirror = none → s.cfg.load = none →
    ((jobOf s c.job).st = .active → jobRegions s c.job = [] → (jobOf s c.job).cmd = none → releasesDue s (fun _ job => job == c.job) = false →
      Completes (.killJob 64 seq) s (fun t => Replied t 64 seq 0 0 0
        ∧ ((jobOf s c.job).capture = false → jobOf t c.job = jobInitial) ∧ ((jobOf s c.job).capture = true → (jobOf t c.job).st = .captured ∧ (jobOf t c.job).captureData ≠ [])
        ∧ (∀ d k, ((ktOf t d).kettle k).owner ≠ some c.job)
        ∧ (∀ a ∈ (jobOf s c.job).allocs, ∀ k ∈ a.keys s, GivenUp s t k)
        ∧ (∀ x h, (qOf t c.job).cmd? x = some h → h.reply.isSome = true) ∧ (∀ j, j ≠ c.job → jobOf t j = jobOf s j)
        ∧ t.pair = { s.pair with committed := if s.pair.committed.any (fun x => x.1 == c.job) then none else s.pair.committed } ∧ OnlyIn [.jobs, .queues, .cfg, .kettles, .pages, .pair] s t))
    ∧ ((jobOf s c.job).st = .free → Completes (.killJob 64 seq) s (fun t => OnlyReplied s t 64 seq 0x0301)))
  ∧ (∀ (s : State) (q seq : Nat) (c : HCmd), 1 ≤ c.job → s.pair.mirror = none → s.cfg.load = none →
    (Started s q seq 0x0203 c → c.stage = .started → (jobOf s c.job).st = .active → (∀ e ∈ s.regions, e.2.job = c.job → e.2.st ≠ .parted) →
      Completes (.suspendJob q seq) s (fun t => (jobOf t c.job).st = .suspending ∧ (jobOf t c.job).cmd = some (q, seq) ∧ WorksOn t q seq ∧ (jobOf t c.job).allocs = (jobOf s c.job).allocs
        ∧ (∀ j, j ≠ c.job → jobOf t j = jobOf s j) ∧ OnlyIn [.jobs, .queues] s t))
    ∧ (Started s q seq 0x0203 c → c.stage = .working → (jobOf s c.job).st = .suspending → jobRegions s c.job = [] →
      Completes (.suspendJob q seq) s (fun t => Replied t q seq 0 0 0 ∧ (jobOf t c.job).st = .suspended ∧ (jobOf t c.job).cmd = none ∧ (jobOf t c.job).allocs = (jobOf s c.job).allocs
        ∧ (∀ j, j ≠ c.job → jobOf t j = jobOf s j) ∧ OnlyIn [.jobs, .queues, .cfg, .kettles] s t))
    ∧ (Started s q seq 0x0203 c → c.stage = .started → (jobOf s c.job).st = .free → Completes (.suspendJob q seq) s (fun t => OnlyReplied s t q seq 0x0301))
    ∧ (Started s q seq 0x0204 c → c.stage = .started → (jobOf s c.job).st = .suspended → resumeRefusal s c.job = none →
      Completes (.resumeJob q seq) s (fun t => (jobOf t c.job).st = .resuming ∧ (jobOf t c.job).cmd = some (q, seq) ∧ WorksOn t q seq
        ∧ (jobRegions s c.job = [] → (∀ j, j ≠ c.job → jobOf t j = jobOf s j) ∧ OnlyIn [.jobs, .queues] s t)))
    ∧ (Started s q seq 0x0204 c → c.stage = .working → (jobOf s c.job).st = .resuming → resumed s c.job = true →
      Completes (.resumeJob q seq) s (fun t => Replied t q seq 0 0 0 ∧ (jobOf t c.job).st = .active ∧ (jobOf t c.job).cmd = none ∧ (∀ j, j ≠ c.job → jobOf t j = jobOf s j) ∧ OnlyIn [.jobs, .queues] s t)))
  )

/-- A capture is sent to its buffer while the link is up, its header last, and CAPTURE_DISCARD frees the job without delivery, its pages entering zeroing. The kettle commands, and STREAM_ENQUEUE, send one request from H0's HOST port to the endpoint that their rank names and work on until its outcome; a rank that names none is answered BAD_RANK. -/
def Obligations.CapturesAndRequestCommandsAreServed : Prop :=
  (
  (∀ (s : State) (job : Nat), (jobOf s job).st = .captured → s.link.up = true → (∀ w ∈ s.host.writes, ∀ k last, w.use ≠ .capture k last) →
    let x := jobOf s job
    (64 < x.captureData.length → Completes (.captureDelivery job) s (fun t =>
      t.host.writes = s.host.writes ++ [{ id := s.host.nextId, addr := x.captureAddr + 64, bytes := x.captureData.drop 64, use := .capture job false, since := s.now }] ∧ OnlyIn [.host] s t))
    ∧ (x.captureData.length ≤ 64 → Completes (.captureDelivery job) s (fun t =>
      t.host.writes = s.host.writes ++ [{ id := s.host.nextId, addr := x.captureAddr, bytes := x.captureData, use := .capture job true, since := s.now }] ∧ OnlyIn [.host] s t)))
  ∧ (∀ (s : State) (job : Nat), (jobOf s job).st ≠ .captured ∨ s.link.up = false → Completes (.captureDelivery job) s (fun t => OnlyIn [] s t))
  ∧ (∀ (s : State) (q seq : Nat) (c : HCmd), Started s q seq 0x020C c → c.job ≠ 0 →
    ((jobOf s c.job).st = .captured → Completes (.captureDiscard q seq) s (fun t => Replied t q seq 0 0 0 ∧ jobOf t c.job = jobInitial
      ∧ (∀ a ∈ (jobOf s c.job).allocs, ∀ k ∈ a.keys s, GivenUp s t k)
      ∧ (∀ j, j ≠ c.job → jobOf t j = jobOf s j) ∧ OnlyIn [.jobs, .pages, .queues] s t))
    ∧ ((jobOf s c.job).st ≠ .captured → Completes (.captureDiscard q seq) s (fun t => OnlyReplied s t q seq 0x0301)))
  ) ∧ (
  ∀ (s : State) (q seq : Nat) (c : HCmd), c.stage = .started → IdFree s (hostEp q) →
    let n := c.p 4 4
    let sends (typ : Nat) (e : Ep) (arg : BitVec 64) (data : List Word) (t : State) : Prop :=
      Requested s t (hostEp q) q c.job typ e arg data ∧ WorksOn t q seq ∧ OnlyIn [.net, .queues] s t
    (∀ e, rankEp s c.job (c.p 0 2) = some e → e.port = portKettle → c.p 3 1 = 0 →
      (Started s q seq 0x0401 c → c.p 2 1 ≤ 1 → n ≠ 0 → n ≠ 2 ^ 31 → Completes (.kettleSignal q seq) s (sends 4 e (kettleArg 1 (bit (c.p 2 1) 0) n) []))
      ∧ (Started s q seq 0x0402 c → c.p 2 1 = 0 → n < 2 ^ 31 → Completes (.kettleReset q seq) s (sends 4 e (kettleArg 4 false n) []))
      ∧ (Started s q seq 0x0403 c → c.p 2 1 = 0 → n ≠ 0 → n < 2 ^ 31 → Completes (.kettleWaitConsume q seq) s (sends 4 e (kettleArg 2 false n) []))
      ∧ (Started s q seq 0x0404 c → c.p 2 1 = 0 → n ≠ 0 → n < 2 ^ 31 → Completes (.kettleWaitObserve q seq) s (sends 4 e (kettleArg 3 false n) [])))
    ∧ (∀ e, Started s q seq 0x0301 c → c.p 2 30 = 0 → rankEp s c.job (c.p 0 2) = some e → e.port = portStream →
      Completes (.streamEnqueue q seq) s (sends 5 e 0 ((upTo 5).map (fun k => BitVec.ofNat 256 (c.p (32 + 32 * k) 32)))))
    ∧ (rankEp s c.job (c.p 0 2) = none →
      (Started s q seq 0x0401 c → c.p 2 1 ≤ 1 → c.p 3 1 = 0 → Completes (.kettleSignal q seq) s (fun t => OnlyReplied s t q seq 0x0502))
      ∧ (Started s q seq 0x0301 c → c.p 2 30 = 0 → Completes (.streamEnqueue q seq) s (fun t => OnlyReplied s t q seq 0x0502)))
  )

/-- ALLOC_REGION gives a job free columns or dies with their scan areas under the lowest free number and advances the epoch; FREE_REGION of a SUSPENDED region gives it and its scan areas back, and of one that holds sites works on until it is quiet. ALLOC_MEM gives a job the lowest run of free pages, FREE_MEM takes exactly one allocation's pages into zeroing, and a page whose codewords have all been zeroed reads 0 and is FREE again, or RETIRED. -/
def Obligations.RegionsAndPagesAreAllocated : Prop :=
  (
  (∀ (s : State) (q seq : Nat) (c : HCmd) (b : Bounds), Started s q seq 0x0205 c → allocBounds c = some b → allocAdmits s q c = true → (jobOf s c.job).st = .active → (b.usable s).isEmpty = false →
    (boundsFree s b = false → Completes (.allocRegion q seq) s (fun t => Replied t q seq 0x0201 0 0 ∧ t.regions = s.regions ∧ t.cfg.epoch = s.cfg.epoch ∧ OnlyIn [.cfg, .queues] s t))
    ∧ (∀ areas n, boundsFree s b = true → (b.usable s).all (rankStoreFits s c.job) = true → scanAreasFor s b = some areas → freeRegion s = some n →
      Completes (.allocRegion q seq) s (fun t => Replied t q seq 0 0 n ∧ 1 ≤ n ∧ n ≤ 4095 ∧ Tab.find? n s.regions = none
        ∧ (∃ r, Tab.find? n t.regions = some r ∧ r.job = c.job ∧ r.bounds = b ∧ r.st = .blank ∧ r.sig = none ∧ r.scanAreas = areas
            ∧ ∀ k ∈ r.scanKeys, (pageOf t k).st = .system)
        ∧ (∀ k, k ≠ n → Tab.find? k t.regions = Tab.find? k s.regions) ∧ t.cfg.epoch = s.cfg.epoch + 1 ∧ t.cfg.prevEpoch = none ∧ OnlyIn [.regions, .pages, .cfg, .queues] s t)))
  ∧ (∀ (s : State) (q seq : Nat) (c : HCmd) (r : Region), Started s q seq 0x0206 c → c.stage = .started → Tab.find? (c.p 0 2) s.regions = some r → allocAdmits s q c = true → r.job = c.job →
    (jobOf s c.job).st = .active →
    (r.st = .suspended → Completes (.freeRegion q seq) s (fun t => Replied t q seq 0 0 0 ∧ Tab.find? (c.p 0 2) t.regions = none
      ∧ (∀ k ∈ r.scanKeys, GivenUp s t k) ∧ t.cfg.epoch = s.cfg.epoch + 1
      ∧ (∀ k, k ≠ c.p 0 2 → Tab.find? k t.regions = Tab.find? k s.regions) ∧ OnlyIn [.regions, .jobs, .pages, .cfg, .queues] s t))
    ∧ (r.st = .blank ∨ r.st = .running → Completes (.freeRegion q seq) s (fun t => WorksOn t q seq ∨ (Replied t q seq 0 0 0 ∧ Tab.find? (c.p 0 2) t.regions = none ∧ t.cfg.epoch = s.cfg.epoch + 1)))
    ∧ (r.st = .parted ∨ r.st = .faulted → Completes (.freeRegion q seq) s (fun t => Replied t q seq 0x0301 0 0 ∧ t.regions = s.regions ∧ OnlyIn [.cfg, .queues] s t)))
  ) ∧ (
  (∀ (s : State) (q seq : Nat) (c : HCmd), Started s q seq 0x0207 c → c.p 0 1 ≤ 2 → (c.p 0 1 = 0 → isCompute (c.p 1 1) = true ∧ (dieOf s (c.p 1 1)).fenced = false) → (c.p 0 1 ≠ 0 → c.p 1 1 = 0) →
    c.p 2 1 ≤ 1 → c.p 3 1 = 0 → 1 ≤ c.p 4 4 → c.p 4 4 ≤ 2097152 → allocAdmits s q c = true → (jobOf s c.job).st = .active →
    (∀ a, findAlloc s (c.p 0 1) (c.p 1 1) (c.p 4 4) = some a → Completes (.allocMem q seq) s (fun t => Replied t q seq 0 0 a.base
      ∧ (∀ k ∈ a.keys s, (pageOf t k).st = .owned c.job) ∧ (∀ k, k ∉ a.keys s → pageOf t k = pageOf s k) ∧ (jobOf t c.job).allocs = (jobOf s c.job).allocs ++ [a]
      ∧ (∀ j, j ≠ c.job → jobOf t j = jobOf s j) ∧ OnlyIn [.pages, .jobs, .queues] s t))
    ∧ (findAlloc s (c.p 0 1) (c.p 1 1) (c.p 4 4) = none → Completes (.allocMem q seq) s (fun t => OnlyReplied s t q seq 0x0202)))
  ∧ (∀ (s : State) (q seq : Nat) (c : HCmd), Started s q seq 0x0208 c → allocAdmits s q c = true → (jobOf s c.job).st = .active →
    (∀ a, (jobOf s c.job).allocs.find? (fun a => a.base == c.p 0 8) = some a → streamUses s c.job a.base (a.bytes s) = false → Completes (.freeMem q seq) s (fun t => Replied t q seq 0 0 0
      ∧ (∀ k ∈ a.keys s, GivenUp s t k) ∧ (∀ k, k ∉ a.keys s → pageOf t k = pageOf s k)
      ∧ (∀ x ∈ (jobOf t c.job).allocs, x ≠ a) ∧ OnlyIn [.pages, .jobs, .queues] s t))
    ∧ ((jobOf s c.job).allocs.find? (fun a => a.base == c.p 0 8) = none → Completes (.freeMem q seq) s (fun t => OnlyReplied s t q seq 0x0504)))
  ∧ (∀ (s : State) (page : Nat), s.memoryOk →
    ((pageOf s page).zeroing = true → Completes (.pageZeroingComplete page) s (fun t =>
      (∀ k, k < 2 ^ 21 → memByte t.mem (pageHome page + k) = 0) ∧ outside (pageHome page) (2 ^ 21) s t
      ∧ (pageOf t page).st = (if (pageOf s page).uncorr || pageOnLost s page then .retired else .free) ∧ (pageOf t page).zeroing = false
      ∧ (∀ k, k ≠ page → pageOf t k = pageOf s k) ∧ OnlyIn [.mem, .flips, .pages, .biOld, .out] s t))
    ∧ ((pageOf s page).zeroing = false → Completes (.pageZeroingComplete page) s (fun t => OnlyIn [] s t)))
  )

/-- ALLOC_KETTLES gives a job the lowest run of free kettles of a die with value 0, and FREE_KETTLES resets and frees kettles of the job that no one waits on. TASK_CANCEL stops the task's streams, answers once each has settled its requests and written its record, and works on before; task 0 is answered BAD_FIELD. TIMED_CONFIG gives a running timed region its kettles and report slots. -/
def Obligations.KettlesTasksAndTimedRegions : Prop :=
  (
  (∀ (s : State) (q seq : Nat) (c : HCmd) (k0 : Nat), Started s q seq 0x0209 c → isDie (c.p 0 1) = true → c.p 1 1 = 0 → 1 ≤ c.p 2 2 → c.p 2 2 ≤ 8192 → allocAdmits s q c = true →
    (jobOf s c.job).st = .active → (dieOf s (c.p 0 1)).fenced = false →
    findRun (fun k => ((ktOf s (c.p 0 1)).kettle k).owner.isNone) (c.p 2 2) (kettleCount (c.p 0 1)) 0 0 = some k0 →
    Completes (.allocKettles q seq) s (fun t => Replied t q seq 0 0 k0 ∧ (∀ k, k0 ≤ k → k < k0 + c.p 2 2 → (ktOf t (c.p 0 1)).kettle k = { kettleInitial with owner := some c.job })
      ∧ (∀ k, (k < k0 ∨ k0 + c.p 2 2 ≤ k) → (ktOf t (c.p 0 1)).kettle k = (ktOf s (c.p 0 1)).kettle k) ∧ (∀ d, d ≠ c.p 0 1 → ktOf t d = ktOf s d) ∧ OnlyIn [.kettles, .queues] s t))
  ∧ (∀ (s : State) (q seq : Nat) (c : HCmd), Started s q seq 0x020A c → isDie (c.p 0 1) = true → c.p 1 1 = 0 → 1 ≤ c.p 4 2 → c.p 2 2 + c.p 4 2 ≤ kettleCount (c.p 0 1) → allocAdmits s q c = true →
    (jobOf s c.job).st = .active → (∀ k, c.p 2 2 ≤ k → k < c.p 2 2 + c.p 4 2 → ((ktOf s (c.p 0 1)).kettle k).owner = some c.job) →
    ((∀ w ∈ (ktOf s (c.p 0 1)).waiters, w.kettle < c.p 2 2 ∨ c.p 2 2 + c.p 4 2 ≤ w.kettle) → Completes (.freeKettles q seq) s (fun t => Replied t q seq 0 0 0
      ∧ (∀ k, c.p 2 2 ≤ k → k < c.p 2 2 + c.p 4 2 → (ktOf t (c.p 0 1)).kettle k = kettleInitial)
      ∧ (∀ k, (k < c.p 2 2 ∨ c.p 2 2 + c.p 4 2 ≤ k) → (ktOf t (c.p 0 1)).kettle k = (ktOf s (c.p 0 1)).kettle k) ∧ (∀ d, d ≠ c.p 0 1 → ktOf t d = ktOf s d) ∧ OnlyIn [.kettles, .queues] s t))
    ∧ ((∃ w ∈ (ktOf s (c.p 0 1)).waiters, c.p 2 2 ≤ w.kettle ∧ w.kettle < c.p 2 2 + c.p 4 2) → Completes (.freeKettles q seq) s (fun t => OnlyReplied s t q seq 0x0303)))
  ) ∧ (
  (∀ (s : State) (q seq : Nat) (c : HCmd), Started s q seq 0x0302 c →
    (c.p 0 2 = 0 → Completes (.taskCancel q seq) s (fun t => OnlyReplied s t q seq 0x0102))
    ∧ (c.p 0 2 ≠ 0 → s.engines = [] → taskRecording s c.job (c.p 0 2) = false → Completes (.taskCancel q seq) s (fun t => Replied t q seq 0 0 0 ∧ OnlyIn [.seqs, .queues] s t))
    ∧ (c.p 0 2 ≠ 0 → taskGone (if c.stage = .working then cancelOn s c.job (c.p 0 2) else cancelTask s c.job (c.p 0 2)) c.job (c.p 0 2) = false → Completes (.taskCancel q seq) s (fun t => WorksOn t q seq))
    ∧ (∀ dk site slot x en, c.p 0 2 ≠ 0 → c.stage = .started → site < 1024 → s.engines = [(siteKey dk site, en)] → en.slots = [(slot, x)] → en.queue = [] → s.seqs = [] → x.job = c.job → x.task = c.p 0 2 → x.phase = .running →
      (x.outst ≠ [] → Completes (.taskCancel q seq) s (fun t => WorksOn t q seq ∧ (slotOf t dk site slot).map Strm.phase = some (.ending 3 0 0 (2 ^ 32 - 1) 0 s.now) ∧ OnlyIn [.engines, .queues] s t))
      ∧ (x.outst = [] → bit (x.f 1 1) 2 = false → taskRecording s c.job (c.p 0 2) = false → Completes (.taskCancel q seq) s (fun t => Replied t q seq 0 0 0 ∧ slotOf t dk site slot = none ∧ OnlyIn [.engines, .queues] s t))))
  ∧ (∀ (s : State) (q seq : Nat) (c : HCmd) (r : Region) (g : Sig), Started s q seq 0x0214 c → Tab.find? (c.p 0 2) s.regions = some r → c.p 6 2 ≠ 0 → r.job = c.job →
    (jobOf s c.job).st = .active → r.st = .running → r.sig = some g → bit g.mflags 0 = true → kettleRank s c.job (c.p 2 2) = none → kettleRank s c.job (c.p 4 2) = none →
    slotsReach s c.job (c.p 8 8) (c.p 6 2) 32 = none →
    Completes (.timedConfig q seq) s (fun t => Replied t q seq 0 0 0
      ∧ Tab.find? (c.p 0 2) t.regions = some { r with timed := some { startKettle := c.p 2 2, doneKettle := c.p 4 2, slots := c.p 6 2, reportAddr := c.p 8 8, next := 1, runs := [] } }
      ∧ (∀ k, k ≠ c.p 0 2 → Tab.find? k t.regions = Tab.find? k s.regions) ∧ (r.timed = none → OnlyIn [.regions, .queues] s t) ∧ OnlyIn [.regions, .queues, .mem, .flips, .host] s t))
  )

/-- LOAD_IMAGE with sound parameters begins a load in VERIFY at the image's address, and an image that is not aligned is answered BAD_ADDRESS; ROLLBACK_CONFIG with the current epoch begins the commit of the previous configuration, and without one kept is answered NO_PREVIOUS_EPOCH. The phases VERIFY, STAGE and CHECK of a load whose image has been read: a spine that checks leads on to STAGE, signatures that check enrol their dies and send their frames, and a staged configuration that checks goes on to its commit, or ends a DRYRUN; a failure rejects the load with its outcome and changes no region. -/
def Obligations.LoadsBeginAndPassTheirPhases : Prop :=
  (
  ∀ (s : State) (q seq : Nat) (c : HCmd), c.stage = .started →
    (Started s q seq 0x0101 c → 288 ≤ c.p 8 8 → c.p 8 8 ≤ 2 ^ 34 → c.p 16 4 ≤ 1 → c.p 20 4 = 0 →
      let a := c.p 0 8
      let n := c.p 8 8
      (a % 32 = 0 → addrMalformed a = false → addrMalformed (a + n - 1) = false → spaceOf (a + n - 1) = spaceOf a →
        (spaceOf a = 8 ∧ windowHolds s c.job a n false = true) ∨ (spaceOf a ≤ 2 ∧ rangeOwned s c.job a n = true) → (jobOf s c.job).st = .active →
        Completes (.loadImage q seq) s (fun t => WorksOn t q seq
          ∧ (∃ l, t.cfg.load = some l ∧ l.phase = .verify ∧ l.q = q ∧ l.cseq = seq ∧ l.job = c.job ∧ l.addr = a ∧ l.size = n ∧ l.dryrun = bit (c.p 16 4) 0 ∧ l.readTo = 0 ∧ l.aborted = false
            ∧ l.rollback = false ∧ (∀ e es, s.cfg.waiting = e :: es → l.id = e.2.2))
          ∧ t.cfg.epoch = s.cfg.epoch ∧ t.regions = s.regions ∧ OnlyIn [.cfg, .queues] s t))
      ∧ (a % 32 ≠ 0 → Completes (.loadImage q seq) s (fun t => Replied t q seq 0x0103 0 0 ∧ t.cfg.load = s.cfg.load ∧ OnlyIn [.cfg, .queues] s t)))
    ∧ (Started s q seq 0x0102 c → q = 64 →
      (s.cfg.prevEpoch = none → Completes (.rollbackConfig q seq) s (fun t => Replied t q seq 0x030A 0 0 ∧ t.cfg.load = s.cfg.load ∧ OnlyIn [.cfg, .queues] s t))
      ∧ (s.cfg.prevEpoch ≠ none → c.p 0 8 ≠ s.cfg.epoch → Completes (.rollbackConfig q seq) s (fun t => Replied t q seq 0x0307 0 0 ∧ t.cfg.load = s.cfg.load ∧ OnlyIn [.cfg, .queues] s t))
      ∧ (s.cfg.prevEpoch ≠ none → c.p 0 8 = s.cfg.epoch → (∀ e ∈ s.cfg.prevSigs, ∀ r, Tab.find? e.1 s.regions = some r → r.st ≠ .suspended ∧ r.st ≠ .parted) →
        Completes (.rollbackConfig q seq) s (fun t => WorksOn t q seq ∧ (∃ l, t.cfg.load = some l ∧ l.phase = .commit ∧ l.rollback = true ∧ l.parts = s.cfg.prevSigs ∧ l.q = q ∧ l.cseq = seq)
          ∧ t.cfg.epoch = s.cfg.epoch ∧ OnlyIn [.cfg, .queues] s t)))
  ) ∧ (
  ∀ (s : State) (l : Load) (c : HCmd), s.cfg.load = some l → l.aborted = false → l.q ≤ 64 → (qOf s l.q).cmd? l.cseq = some c → c.reply = none →
    let rejected (code : Nat) (t : State) : Prop := Replied t l.q l.cseq (rejectStatus code) 0 0 ∧ t.cfg.load = none ∧ t.cfg.epoch = s.cfg.epoch ∧ OnlyIn [.cfg, .queues, .host, .ev] s t
    let whole := let n := fld (leNat (l.bytes 0 64)) 6 2; if 1 ≤ n ∧ n ≤ 64 ∧ spineSize n ≤ l.size then spineSize n else 64
    (l.phase = .verify → 64 ≤ l.readTo → whole ≤ l.readTo →
      (spineCheck s l.job l.size (l.bytes 0 whole) = none → Completes .loadVerify s (fun t =>
        t.cfg.load = some { l with phase := .stage, version := fld (leNat (l.bytes 0 whole)) 8 8, expectEpoch := fld (leNat (l.bytes 0 whole)) 16 8 } ∧ OnlyIn [.cfg] s t))
      ∧ (∀ code, spineCheck s l.job l.size (l.bytes 0 whole) = some code → Completes .loadVerify s (rejected code)))
    ∧ (l.phase = .verify → l.readTo = 0 → spaceOf l.addr = 8 → (∀ h ∈ s.host.reads, ∀ o, h.use ≠ .image o) → Completes .loadVerify s (fun t =>
      t.host.reads = s.host.reads ++ [{ id := s.host.nextId, addr := l.addr, bytes := 64, use := .image 0, since := s.now }] ∧ OnlyIn [.host] s t))
    ∧ (l.phase = .stage → l.size ≤ l.readTo →
      (∀ code, parseSigs s l (spineSigs l) = .inl code → Completes .loadStage s (rejected code))
      ∧ (∀ gs, parseSigs s l (spineSigs l) = .inr gs → gs.all (sigInRegion s l.job gs) = true → Completes .loadStage s (fun t =>
        (∃ l', t.cfg.load = some l' ∧ l'.phase = .check ∧ l'.sigs = gs ∧ l'.parts = gs.map (fun g => (g.region, some g)) ∧ l'.job = l.job)
        ∧ (∀ d ∈ loadDies s gs, (stageOf t d).enrolled = true ∧ (stageOf t d).frames = 0 ∧ (stageOf t d).fsum = 0) ∧ t.regions = s.regions ∧ OnlyIn [.cfg, .net] s t)))
    ∧ (l.phase = .check → framesMoving s = false → l.resent = [] → (∀ d ∈ loadDies s l.sigs, delivered s l.sigs d = true) →
      (∀ code, checkParts s l.given = some code → Completes .loadCheck s (rejected code))
      ∧ (checkParts s l.given = none → l.dryrun = false → Completes .loadCheck s (fun t => t.cfg.load = some { l with phase := .commit } ∧ OnlyIn [.cfg] s t))
      ∧ (checkParts s l.given = none → l.dryrun = true → Completes .loadCheck s (fun t => Replied t l.q l.cseq 0 0 0 ∧ t.cfg.load = none ∧ t.cfg.epoch = s.cfg.epoch ∧ OnlyIn [.cfg, .queues, .host] s t)))
    ∧ (l.phase = .check → framesMoving s = false → l.resent ≠ [] → (∃ d ∈ l.resent, (dieOf s d).fenced = false ∧ delivered s l.sigs d = false) → Completes .loadCheck s (rejected 0x0706))
  )

/-- LOAD_COMMIT repeats its check before it parts anything; regions that are at rest get what the load gives them, the epoch advances and the previous configuration is kept; once the writes are acknowledged the regions' start is set 2 µs ahead. REGION_START: at its time and not before, a parted region enters RUNNING where it holds a configuration and BLANK where it holds none; no other region changes. -/
def Obligations.CommitsAndStartsWriteTheirRegions : Prop :=
  (
  ∀ (s : State) (l : Load), s.cfg.load = some l →
    (∀ c code, l.phase = .commit → commitCheck s l = some code → l.q ≤ 64 → (qOf s l.q).cmd? l.cseq = some c → c.reply = none → Completes (.loadCommit false) s (fun t =>
      Replied t l.q l.cseq (rejectStatus code) 0 0 ∧ t.cfg.load = none ∧ t.cfg.epoch = s.cfg.epoch ∧ OnlyIn [.cfg, .queues, .host, .ev] s t))
    ∧ (l.phase = .commit → commitCheck s l = none → Completes (.loadCommit false) s (fun t => ∃ l', t.cfg.load = some l' ∧ l'.phase = .parting ∧ l'.parts = l.parts))
    ∧ (l.phase = .parting → l.written = false → (l.parts.map (·.1)).Nodup → (∀ p ∈ l.parts, (Tab.find? p.1 s.regions).isSome = true) → (partStep s (l.parts.map (·.1)) false).2 = true →
      Completes (.loadCommit false) s (fun t => (∃ l', t.cfg.load = some l' ∧ l'.written = true) ∧ t.cfg.epoch = s.cfg.epoch + 1
        ∧ (l.rollback = false → t.cfg.prevEpoch = some s.cfg.epoch ∧ t.cfg.imageVersion = l.version) ∧ (l.rollback = true → t.cfg.prevEpoch = none)
        ∧ (∀ p ∈ l.parts, (Tab.find? p.1 t.regions).map Region.sig = some p.2) ∧ t.flash = s.flash ∧ t.pwr = s.pwr ∧ t.link = s.link))
    ∧ (l.phase = .parting → l.written = true → initsDone s = true → Completes (.loadCommit false) s (fun t =>
      (∀ p ∈ l.parts, ∀ r, Tab.find? p.1 s.regions = some r → r.st = .parted → r.startAt = none → (Tab.find? p.1 t.regions).map Region.startAt = some (some (s.now + 2000)))
      ∧ (∀ k r, Tab.find? k s.regions = some r → ∃ r', Tab.find? k t.regions = some r' ∧ r'.st = r.st ∧ r'.sig = r.sig ∧ r'.job = r.job) ∧ OnlyIn [.regions] s t))
    ∧ (l.phase = .parting → l.written = true → initsDone s = false → Completes (.loadCommit false) s (fun t => OnlyIn [] s t))
  ) ∧ (
  ∀ (s : State) (n at' : Nat) (r : Region), Tab.find? n s.regions = some r → r.startAt = some at' → r.st = .parted → r.scan = none → s.cfg.load = none →
    (s.now < at' → Completes (.regionStart n) s (fun t => OnlyIn [] s t))
    ∧ (at' ≤ s.now → r.sig = none → Completes (.regionStart n) s (fun t => Tab.find? n t.regions = some { r with st := .blank, startAt := none }
      ∧ (∀ k, k ≠ n → Tab.find? k t.regions = Tab.find? k s.regions) ∧ OnlyIn [.regions] s t))
    ∧ (at' ≤ s.now → r.sig ≠ none → Completes (.regionStart n) s (fun t => Tab.find? n t.regions = some { r with st := .running, startAt := none }
      ∧ (∀ k, k ≠ n → Tab.find? k t.regions = Tab.find? k s.regions) ∧ t.queues = s.queues ∧ t.jobs = s.jobs ∧ t.pages = s.pages ∧ t.flash = s.flash ∧ t.cfg = s.cfg))
  )

/-- The model registry: MODEL_REGISTER lists a model whose source the job holds, MODEL_PIN sets or clears its pin, MODEL_UNREGISTER takes it from the registry and empties its slot, and each touches its own handle only; SERVING_CONFIG gives the unit its configuration and has it wait for its first build. SEQ_BUILD: a unit of a running region with no wait outstanding sends one; a released one builds, writes its list header with the step number into cluster memory, counts the step and waits again. MODEL_FETCH_COMPLETE makes a slot RESIDENT once no stream of the fetch is left. -/
def Obligations.TheModelRegistryIsServed : Prop :=
  (
  ∀ (s : State) (q seq : Nat) (c : HCmd) (die : Nat), servingDie s c.job (c.p 0 2) = .inr die →
    let u := seqOf s die
    let h := c.p 2 1
    (Started s q seq 0x0211 c → c.p 3 1 ≤ 1 → c.p 4 4 = 0 → 32 ≤ c.p 16 8 → c.p 16 8 % 32 = 0 → u.cfg.isSome = true → bit (servedBy s u).2 2 = false → h ≠ 0 → c.p 16 8 ≤ u.c 24 8 →
      c.p 8 8 % 32 = 0 → addrMalformed (c.p 8 8) = false → addrMalformed (c.p 8 8 + c.p 16 8 - 1) = false → spaceOf (c.p 8 8 + c.p 16 8 - 1) = spaceOf (c.p 8 8) →
      (spaceOf (c.p 8 8) = 8 ∧ windowHolds s c.job (c.p 8 8) (c.p 16 8) false = true) ∨ (spaceOf (c.p 8 8) ≤ 2 ∧ rangeOwned s c.job (c.p 8 8) (c.p 16 8) = true) →
      (Tab.find? h u.models = none → Completes (.modelRegister q seq) s (fun t => Replied t q seq 0 0 0
        ∧ Tab.find? h (seqOf t die).models = some { source := c.p 8 8, bytes := c.p 16 8, pin := bit (c.p 3 1) 0 } ∧ (∀ k, k ≠ h → Tab.find? k (seqOf t die).models = Tab.find? k u.models)
        ∧ (seqOf t die).slots = u.slots ∧ (∀ d, d ≠ die → seqOf t d = seqOf s d) ∧ OnlyIn [.seqs, .queues] s t))
      ∧ (Tab.find? h u.models ≠ none → Completes (.modelRegister q seq) s (fun t => OnlyReplied s t q seq 0x0303)))
    ∧ (∀ m, Started s q seq 0x0213 c → c.p 3 1 ≤ 1 → Tab.find? h u.models = some m → bit (servedBy s u).2 2 = false → Completes (.modelPin q seq) s (fun t => Replied t q seq 0 0 0
      ∧ Tab.find? h (seqOf t die).models = some { m with pin := bit (c.p 3 1) 0 } ∧ (∀ k, k ≠ h → Tab.find? k (seqOf t die).models = Tab.find? k u.models)
      ∧ (bit (c.p 3 1) 0 = true → u.slotOf h = none → h ∈ (seqOf t die).pinFetch) ∧ (bit (c.p 3 1) 0 = false → h ∉ (seqOf t die).pinFetch) ∧ OnlyIn [.seqs, .queues] s t))
    ∧ (Started s q seq 0x0212 c → Tab.find? h u.models ≠ none → (∀ e ∈ u.table, entryModel e.2 ≠ h) → (∀ f, u.fetch = some f → f.handle ≠ h) → Completes (.modelUnregister q seq) s (fun t =>
      Replied t q seq 0 0 0 ∧ Tab.find? h (seqOf t die).models = none ∧ (seqOf t die).resident h = false ∧ (∀ k, k ≠ h → Tab.find? k (seqOf t die).models = Tab.find? k u.models) ∧ OnlyIn [.seqs, .queues] s t))
    ∧ (∀ x, Started s q seq 0x0210 c → 1 ≤ c.p 6 2 → c.p 6 2 ≤ 4096 → 1 ≤ c.p 8 4 → c.p 8 4 ≤ 2 ^ 24 → c.p 24 8 ≠ 0 → c.p 24 8 % 2 ^ 21 = 0 → 1 ≤ c.p 32 1 → c.p 32 1 ≤ 32 → c.p 33 1 = 0 → c.p 34 2 ≠ 0 →
      32 ≤ c.p 44 4 → c.p 44 4 ≤ 65536 → c.p 48 16 = 0 → bit (servedBy s u).2 2 = false → c.p 12 4 % 32 = 0 → inWindow (jobWindows s die 0xFFFF c.job) (c.p 12 4) (64 * (c.p 6 2 + 1)) 2 = true →
      c.p 16 8 % 2 ^ 21 = 0 → addrMalformed (c.p 16 8) = false → spaceOf (c.p 16 8) ≤ 1 → rangeOwned s c.job (c.p 16 8) (c.p 32 1 * c.p 24 8) = true →
      kettleRank s c.job (c.p 2 2) = none → kettleRank s c.job (c.p 4 2) = none → kettleRank s c.job (c.p 36 2) = none → fetchSite s c.job (c.p 0 2) (c.p 38 2) = some x →
      fetchWindowOk s x.1 x.2 (c.p 40 4) (c.p 44 4) = true →
      (u.table = [] → u.fetch = none → seqSending s die = false → Completes (.servingConfig q seq) s (fun t => Replied t q seq 0 0 0
        ∧ (seqOf t die).cfg = some (BitVec.ofNat 512 c.blob) ∧ (seqOf t die).step = 1 ∧ (seqOf t die).slots = [] ∧ (seqOf t die).waiting = true ∧ (seqOf t die).models = u.models
        ∧ (∀ d, d ≠ die → seqOf t d = seqOf s d) ∧ OnlyIn [.seqs, .kettles, .net, .queues] s t))
      ∧ (u.table ≠ [] → Completes (.servingConfig q seq) s (fun t => OnlyReplied s t q seq 0x0301)))
  ) ∧ (
  ∀ (s : State) (die : Nat), isDie die = true → servedRuns s (seqOf s die) = true →
    let u := seqOf s die
    (u.cfg.isSome = true → u.waiting = false → u.released = false → Completes (.seqBuild die) s (fun t => (seqOf t die).waiting = true ∧ (seqOf t die).step = u.step ∧ (seqOf t die).table = u.table
      ∧ (∀ d, d ≠ die → seqOf t d = seqOf s d) ∧ OnlyIn [.seqs, .net] s t))
    ∧ (u.cfg.isSome = true → u.waiting = false → u.released = true → s.memoryOk → Completes (.seqBuild die) s (fun t => (seqOf t die).step = u.step + 1 ∧ (seqOf t die).waiting = true ∧ (seqOf t die).retired = []
      ∧ (wordAt t.mem (clusterAddr die (u.c 12 4 + u.step % 2 * (32 * (u.c 6 2 + 1))))).toNat % 2 ^ 64 = u.step % 2 ^ 64
      ∧ (∀ b, b < clusterAddr die (u.c 12 4) → memByte t.mem b = memByte s.mem b) ∧ (∀ d, d ≠ die → seqOf t d = seqOf s d)
      ∧ OnlyIn [.seqs, .net, .mem, .flips, .cores, .jobs, .engines] s t))
    ∧ (u.waiting = true → Completes (.seqBuild die) s (fun t => OnlyIn [] s t))
    ∧ (∀ f, u.fetch = some f → taskLeft s (servedBy s u).1 (u.c 34 2) = false → Completes (.modelFetchComplete die) s (fun t => (seqOf t die).fetch = none
      ∧ (seqOf t die).slot f.slot = { st := .resident f.handle, lastUse := f.step } ∧ (∀ k, k ≠ f.slot → (seqOf t die).slot k = u.slot k)
      ∧ (jobCounterReg t (servedBy s u).1 0x40) % 2 ^ 48 = (jobCounterReg s (servedBy s u).1 0x40 + 1) % 2 ^ 48 ∧ OnlyIn [.seqs, .jobs, .net] s t))
    ∧ (∀ f, u.fetch = some f → taskLeft s (servedBy s u).1 (u.c 34 2) = true → Completes (.modelFetchComplete die) s (fun t => OnlyIn [] s t))
  )

/-- The redundant pair: PAIR_ROLE takes NONE, ACTIVE or SHADOW with its PAIR_ID, nonzero except with NONE, while no mirror exists, and answers with the serial of the identity record, MIRROR_START makes every mirrored page count as written, MIRROR_STOP ends a shadow's mirror at once and an active's after its STOP record, and a mirror that has waited 100 ms for a slot says so once. CHECKPOINT of a mirrored job at rest clears the dirty bits of its mirrored pages and queues its records from BEGIN to END; the shadow takes a record only with its header in order, writes the record's number to the consumed word, and ends its mirror on STOP; FAILOVER of a shadow with a committed checkpoint makes it ACTIVE and resumes the job, and answers with the checkpoint's number once the job is ACTIVE. -/
def Obligations.MirrorsAndCheckpointsAreKept : Prop :=
  (
  (∀ (s : State) (q seq : Nat) (c : HCmd), Started s q seq 0x0601 c → c.p 0 1 ≤ 2 → c.p 1 7 = 0 → (c.p 0 1 ≠ 0 → c.p 8 8 ≠ 0) →
    (s.pair.mirror = none → Completes (.pairRole q seq) s (fun t => Replied t q seq 0 0 (packageSerial s) ∧ t.pair = { s.pair with role := c.p 0 1, pairId := c.p 8 8 } ∧ OnlyIn [.pair, .queues] s t))
    ∧ (s.pair.mirror ≠ none → Completes (.pairRole q seq) s (fun t => OnlyReplied s t q seq 0x0301)))
  ∧ (∀ (s : State) (q seq : Nat) (c : HCmd), Started s q seq 0x0601 c → (2 < c.p 0 1 ∨ (c.p 0 1 ≠ 0 ∧ c.p 8 8 = 0)) → Completes (.pairRole q seq) s (fun t => OnlyReplied s t q seq 0x0102))
  ∧ (∀ (s : State) (q seq : Nat) (c : HCmd), Started s q seq 0x0602 c → 1 ≤ c.job → c.job ≤ 63 → 2 ≤ c.p 8 4 → c.p 8 4 ≤ 65536 → c.p 12 4 = 0 → 1 ≤ c.p 32 2 → c.p 32 2 ≤ 16 → c.p 34 6 = 0 →
    c.p 0 8 % 64 = 0 → c.p 16 8 % 64 = 0 → spaceOf (c.p 24 8) = 0 → c.p 24 8 % 2 ^ 21 = 0 → addrMalformed (c.p 24 8) = false → s.pair.mirror = none →
    let bases := (upTo (c.p 32 2)).map (fun k => c.p (40 + 8 * k) 8)
    (s.pair.role = 0 → Completes (.mirrorStart q seq) s (fun t => OnlyReplied s t q seq 0x0301))
    ∧ (s.pair.role = 1 → (jobOf s c.job).st = .active → (∀ e ∈ s.regions, e.2.job = c.job → bit ((e.2.sig.map Sig.mflags).getD 0) 0 = false) →
      (∀ b ∈ bases, (allocAt s c.job b).isSome = true) → (∀ p ∈ areaKeys (c.p 24 8) (mirrorKeys s c.job bases), pageAdmits (pageOf s p.2) c.job = true) →
      Completes (.mirrorStart q seq) s (fun t => Replied t q seq 0 0 0
        ∧ (∃ m, t.pair.mirror = some m ∧ m.job = c.job ∧ m.ring = c.p 0 8 ∧ m.slots = c.p 8 4 ∧ m.area = c.p 24 8 ∧ m.bases = bases ∧ m.mseq = 0 ∧ m.ckpt = 1 ∧ m.queue = [] ∧ m.stopping = false)
        ∧ (∀ k ∈ mirrorKeys s c.job bases, (pageOf t k).dirty = true ∧ (pageOf t k).st = (pageOf s k).st) ∧ OnlyIn [.pair, .pages, .queues] s t)))
  ∧ (∀ (s : State) (q seq : Nat) (c : HCmd), Started s q seq 0x0603 c → c.stage = .started →
    (s.pair.mirror = none → Completes (.mirrorStop q seq) s (fun t => OnlyReplied s t q seq 0x0301))
    ∧ (∀ m, s.pair.mirror = some m → m.stopping = false → s.pair.role = 2 → Completes (.mirrorStop q seq) s (fun t => Replied t q seq 0 0 0 ∧ t.pair.mirror = none ∧ OnlyIn [.pair, .queues, .ev] s t))
    ∧ (∀ m, s.pair.mirror = some m → m.stopping = false → s.pair.role = 1 → s.pair.run = none → Completes (.mirrorStop q seq) s (fun t => WorksOn t q seq
      ∧ (∃ m', t.pair.mirror = some m' ∧ m'.stopping = true ∧ (m'.queue.getLast?).map MRec.mtype = some 6) ∧ OnlyIn [.pair, .queues, .host] s t)))
  ∧ (∀ (s : State) (m : Mirror) (since : Nat), s.pair.mirror = some m → m.waitFrom = some since → s.pair.role = 1 →
    (m.stalled = false → since + 100000000 ≤ s.now → HearsEvents s 0x7F → Completes .pairMirrorStalled s (fun t =>
      Raises s t 0x7F 0x0805 0 (if m.job = 0 then 0xFF else m.job) ∧ t.pair.mirror = some { m with stalled := true } ∧ OnlyIn [.pair, .ev] s t))
    ∧ (m.stalled = true ∨ s.now < since + 100000000 → Completes .pairMirrorStalled s (fun t => OnlyIn [] s t)))
  ) ∧ (
  (∀ (s : State) (q seq : Nat) (c : HCmd), Started s q seq 0x0604 c → c.stage = .started →
    (s.pair.mirror = none → Completes (.checkpoint q seq) s (fun t => OnlyReplied s t q seq 0x0301))
    ∧ (∀ m, s.pair.mirror = some m → s.pair.run = none → s.pair.role = 1 → m.stopping = false → (jobOf s m.job).st = .active → q ≠ m.job →
      (qOf s m.job).cmds = [] → (qOf s m.job).held = [] → (qOf s m.job).writing = [] →
      Completes (.checkpoint q seq) s (fun t => WorksOn t q seq ∧ (∃ r, t.pair.run = some r ∧ r.q = q ∧ r.seq = seq ∧ r.last = (qOf s m.job).lastReplied)
        ∧ (jobRegions s m.job = [] → (∀ k ∈ mirrorKeys s m.job m.bases, (pageOf t k).dirty = false ∧ (pageOf t k).st = (pageOf s k).st)
          ∧ (∃ m', t.pair.mirror = some m' ∧ (m'.queue.head?).map MRec.mtype = some 1 ∧ (m'.queue.getLast?).map MRec.mtype = some 5 ∧ (∀ x ∈ m'.queue, x.ckpt = m.ckpt))
          ∧ OnlyIn [.pair, .pages, .mem, .flips, .host, .queues, .kettles, .biOld, .out] s t))))
  ∧ (∀ (s : State) (m : Mirror) (record : List Byte), s.pair.mirror = some m →
    let h := leNat (record.take 64)
    let good := fld h 0 4 = 0x4D524B48 ∧ fld h 60 4 = 0 ∧ fld h 8 8 = m.mseq ∧ fld h 56 4 = crc32 (record.take 56)
    (s.pair.role ≠ 2 ∨ s.link.up = false ∨ ¬ good → Completes (.mirrorRecordConsume record) s (fun t => OnlyIn [] s t))
    ∧ (s.pair.role = 2 → s.link.up = true → good → Completes (.mirrorRecordConsume record) s (fun t =>
      t.host.writes = s.host.writes ++ [{ id := s.host.nextId, addr := hostAddr m.consumedAddr, bytes := leBytes 8 m.mseq, use := .consumed, since := s.now }]
      ∧ (∀ m', t.pair.mirror = some m' → m'.mseq = m.mseq + 1 ∧ m'.consumed = m.mseq ∧ m'.job = m.job)
      ∧ (fld h 4 1 = 6 → fld h 16 8 = s.pair.pairId → fld h 5 1 = m.job → fld h 40 4 = 0 → fld h 44 4 = 0 → t.pair.mirror = none ∧ OnlyIn [.pair, .host, .ev] s t)
      ∧ (fld h 16 8 ≠ s.pair.pairId → (∃ m', t.pair.mirror = some m' ∧ m'.ckptOpen = none) ∧ OnlyIn [.pair, .host, .ev] s t))))
  ∧ (∀ (s : State) (q seq j ckpt last : Nat) (c : HCmd), Started s q seq 0x0605 c → s.pair.committed = some (j, ckpt, last) →
    (c.stage = .started → s.pair.role = 2 → (jobOf s j).st = .suspended → resumeRefusal s j = none → Completes (.failover q seq) s (fun t =>
      t.pair.role = 1 ∧ t.pair.mirror = none ∧ (jobOf t j).st = .resuming ∧ WorksOn t q seq ∧ (qOf t j).lastAccepted = last ∧ (qOf t j).kept = []))
    ∧ (c.stage = .started → s.pair.role ≠ 2 → Completes (.failover q seq) s (fun t => OnlyReplied s t q seq 0x0301))
    ∧ (c.stage = .working → (jobOf s j).st = .resuming → resumed s j = true → Completes (.failover q seq) s (fun t => Replied t q seq 0 0 ckpt ∧ (jobOf t j).st = .active
      ∧ t.pair.committed = none ∧ OnlyIn [.jobs, .pair, .queues, .ev] s t)))
  )

/-- MULL_PACKET_ROUTE: the first packet of a port and VC goes to its interface when it is at its destination's router, is dropped when the tables know no way or its header cannot be decoded, and otherwise stays or moves to a neighbour that a port leads to, from a hub's router onto a neighbouring die; no packet is made or lost on the way, and one whose output belongs to another input by the round-robin order stays where it is. -/
def Obligations.RoutersMovePacketsToNeighbours : Prop :=
  ∀ (s : State) (die site port vc hf : Nat) (df : List Nat) (p0 : Packet), ((isCompute die = true ∧ site < 480) ∨ (isHub die = true ∧ site = blockSite)) → (dieOf s die).fenced = false → s.net.holes.contains (siteKey die site) = false →
    headPacket s die site port vc = some p0 → p0.msg.cfgm = false →
    let unknown := s.net.tableHoles.contains (siteKey p0.msg.dst.die (routerOf p0.msg.dst)) || s.net.tableFenced.contains p0.msg.dst.die
    let here := p0.msg.dst.die = die ∧ routerOf p0.msg.dst = site
    let usable := decodePattern (p0.headerFlip ^^^ hf) ≠ .uncorrectable
    (¬ usable → Completes (.mullPacketRoute die site port vc hf df) s (fun t => t.net.packets = dropHead die site port vc s.net.packets
      ∧ (HearsEvents s die → Raises s t die 0x0504 0 0xFF) ∧ OnlyIn [.net, .ev] s t))
    ∧ (usable → here → inputAhead s p0 = false → Completes (.mullPacketRoute die site port vc hf df) s (fun t => t.net.packets = dropHead die site port vc s.net.packets
      ∧ (∃ p, (niOf t die p0.msg.dst.site).eject = (niOf s die p0.msg.dst.site).eject ++ [p] ∧ p.msg = p0.msg ∧ p.index = p0.index ∧ p.count = p0.count ∧ p.len = p0.len)
      ∧ telGet t die site 0x50008 = telRaise (telGet s die site 0x50008) (p0.len + 1) ∧ OnlyIn [.net, .tel] s t))
    ∧ (usable → inputAhead s p0 = true → Completes (.mullPacketRoute die site port vc hf df) s (fun t => (t.net.packets.map (fun q => (q.msg, q.index, q.die, q.site, q.port, q.vc))) = s.net.packets.map (fun q => (q.msg, q.index, q.die, q.site, q.port, q.vc))
      ∧ t.net.nis = s.net.nis ∧ t.net.turns = s.net.turns ∧ OnlyIn [.net, .tel] s t))
    ∧ (usable → ¬ here → unknown = true → Completes (.mullPacketRoute die site port vc hf df) s (fun t => t.net.packets = dropHead die site port vc s.net.packets ∧ t.net.nis = s.net.nis ∧ OnlyIn [.net, .tel] s t))
    ∧ (usable → ¬ here → unknown = false → Completes (.mullPacketRoute die site port vc hf df) s (fun t => t.net.packets.length = s.net.packets.length ∧ t.net.nis = s.net.nis
      ∧ (∀ q ∈ t.net.packets, q ∈ s.net.packets ∨ (q.msg = p0.msg ∧ q.index = p0.index ∧ ((q.die = die ∧ q.site = site ∧ q.port = port) ∨ (∃ o, portTarget s die site o = some (q.die, q.site, q.port)) ∨ (isHub die = true ∧ ∃ e, dieNeighbour die e = some q.die))))
      ∧ OnlyIn [.net, .tel] s t))

/-- PACKET_EJECTION: a reply is passed to the source interface, a request's packet joins its message's buffer, takes a free one, or is REFUSED BUSY, and REGION_PARTED at a parted site unless it is a RELEASE; one whose data cannot be decoded is answered ERROR. MESSAGE_COMPLETE passes a message on in flow order, has it wait while its predecessor is not yet applied, or refuses it ORDER_RETRY. Buffers and flow entries end at their times and not before: an incomplete message after 100 µs with BUSY, one that waits for its predecessor after 100 µs with ORDER_RETRY, and a flow entry 10 µs after its last message. -/
def Obligations.InterfacesKeepFlowsAndTimers : Prop :=
  (
  (∀ (s : State) (die site : Nat) (p : Packet) (ps : List Packet), isDie die = true → (site = blockSite ∨ (isCompute die = true ∧ site < 480)) → (niOf s die site).eject = p :: ps → p.msg.cfgm = false → p.msg.dst.die = die → p.msg.dst.site = site →
    let m := p.msg
    let fresh := ∀ b ∈ (niOf s die site).rx, sameMsg b.msg m = false
    let whole := (dataDecode p.dataFlips).1 = true
    let reached := site = blockSite ∨ m.dst.port = portNear ∨ isReleaseMsg m = true ∨ siteParted s die site = false
    (isRequest m = false → Completes (.packetEjection die site) s (fun t => (niOf t die site).eject = ps ∧ (niOf t die site).replies = (niOf s die site).replies ++ [m] ∧ OnlyIn [.net, .tel] s t))
    ∧ (whole → isRequest m = true → reached → ¬ fresh → (∀ b ∈ (niOf s die site).rx, sameMsg b.msg m = true → b.msg.attempt = m.attempt) →
      Completes (.packetEjection die site) s (fun t => (niOf t die site).eject = ps
        ∧ (niOf t die site).rx = (niOf s die site).rx.map (fun b => if sameMsg b.msg m then { b with have0 := b.have0 || p.index == 0, have1 := b.have1 || p.index == 1 } else b)
        ∧ t.net.packets = s.net.packets ∧ OnlyIn [.net, .tel] s t))
    ∧ (whole → isRequest m = true → reached → fresh → rxUsed (niOf s die site) m.dst < rxRoom m.dst →
      Completes (.packetEjection die site) s (fun t => (niOf t die site).eject = ps
        ∧ (niOf t die site).rx = (niOf s die site).rx ++ [{ msg := m, have0 := p.index == 0, have1 := p.index == 1, count := p.count, first := s.now, stage := .partialMsg }]
        ∧ t.net.packets = s.net.packets ∧ OnlyIn [.net, .tel] s t))
    ∧ (whole → isRequest m = true → reached → fresh → rxRoom m.dst ≤ rxUsed (niOf s die site) m.dst →
      Completes (.packetEjection die site) s (fun t => Answered s t m 0x82 1 false [] ∧ (niOf t die site).eject = ps ∧ (niOf t die site).rx = (niOf s die site).rx ∧ OnlyIn [.net, .tel] s t))
    ∧ (whole → isRequest m = true → site ≠ blockSite → m.dst.port ≠ portNear → isReleaseMsg m = false → siteParted s die site = true → Completes (.packetEjection die site) s (fun t => Answered s t m 0x82 3 false [] ∧ OnlyIn [.net, .tel] s t))
    ∧ (isRequest m = true → (dataDecode p.dataFlips).1 = false → Completes (.packetEjection die site) s (fun t => Answered s t m 0x83 0x0505 false []
      ∧ (∀ b ∈ (niOf t die site).rx, sameMsg b.msg m = false) ∧ OnlyIn [.net, .tel, .ev, .lastFault] s t)))
  ∧ (∀ (s : State) (die site issuer msgId : Nat) (src : Ep) (b : RxBuf), isDie die = true → completeBuf s die site src issuer msgId = some b → b.msg.dst.die = die → b.msg.dst.site = site → b.msg.cfgm = false →
    let m := b.msg
    let fl := (niOf s die site).flows.find? (fun f => f.src == m.src && f.issuer == m.issuer && f.dst == m.dst)
    let stage (st : RxStage) (t : State) : Prop := ∀ b' ∈ (niOf t die site).rx, sameMsg b'.msg m = true → b'.stage = st
    (m.dep = false → Completes (.messageComplete die site src issuer msgId) s (fun t => stage .delivered t ∧ (niOf t die site).rx.length = (niOf s die site).rx.length
      ∧ (fl ≠ none → ∀ f ∈ (niOf t die site).flows, f.src = m.src → f.issuer = m.issuer → f.dst = m.dst → f.last = m.seq ∧ f.time = s.now) ∧ OnlyIn [.net] s t))
    ∧ (∀ f, m.dep = true → fl = some f → (f.last + 1) % 65536 = m.seq → flowBusy s m = false → Completes (.messageComplete die site src issuer msgId) s (fun t => stage .delivered t ∧ OnlyIn [.net] s t))
    ∧ (∀ f, m.dep = true → fl = some f → ((f.last + 1) % 65536 ≠ m.seq ∨ flowBusy s m = true) → Completes (.messageComplete die site src issuer msgId) s (fun t => stage .waitOrder t ∧ (niOf t die site).flows = (niOf s die site).flows ∧ OnlyIn [.net] s t))
    ∧ (m.dep = true → fl = none → Completes (.messageComplete die site src issuer msgId) s (fun t => Answered s t m 0x82 2 false [] ∧ (∀ b' ∈ (niOf t die site).rx, sameMsg b'.msg m = false) ∧ OnlyIn [.net, .tel] s t)))
  ) ∧ (
  ∀ (s : State) (die site issuer msgId : Nat) (src : Ep) (b : RxBuf), isDie die = true →
    (niOf s die site).rx.find? (fun b => b.msg.src == src && b.msg.issuer == issuer && b.msg.msgId == msgId) = some b → b.msg.dst.die = die → b.msg.dst.site = site → b.msg.cfgm = false →
    (b.stage = .partialMsg → b.have0 = false ∨ (b.have1 = false ∧ b.count ≠ 1) →
      (b.first + 100000 ≤ s.now → Completes (.niBufferTimeout die site src issuer msgId) s (fun t => Answered s t b.msg 0x82 1 false []
        ∧ (∀ b' ∈ (niOf t die site).rx, sameMsg b'.msg b.msg = false) ∧ OnlyIn [.net, .tel] s t))
      ∧ (s.now < b.first + 100000 → Completes (.niBufferTimeout die site src issuer msgId) s (fun t => OnlyIn [] s t)))
    ∧ (b.stage = .waitOrder →
      (b.first + 100000 ≤ s.now → Completes (.orderWaitTimeout die site src issuer msgId) s (fun t => Answered s t b.msg 0x82 2 false []
        ∧ (∀ b' ∈ (niOf t die site).rx, sameMsg b'.msg b.msg = false) ∧ OnlyIn [.net, .tel] s t))
      ∧ (s.now < b.first + 100000 → Completes (.orderWaitTimeout die site src issuer msgId) s (fun t => OnlyIn [] s t)))
    ∧ (∀ dst, Completes (.flowEntryExpiry die site src issuer dst) s (fun t => (niOf t die site).rx = (niOf s die site).rx ∧ t.net.packets = s.net.packets
      ∧ (∀ f, f ∈ (niOf t die site).flows ↔ f ∈ (niOf s die site).flows ∧ ¬ (f.src = src ∧ f.issuer = issuer ∧ f.dst = dst ∧ f.time + 10000 ≤ s.now
          ∧ ∀ b ∈ (niOf s die site).rx, ¬ (b.msg.src = src ∧ b.msg.issuer = issuer ∧ b.msg.dst = dst))) ∧ OnlyIn [.net] s t))
  )

/-- Requests at their source interface: a refusal is resent as a whole with the next ATTEMPT when its reason's time has come, HELD stops the time limit, a final reply or the time limit ends the request, and a held message is withdrawn with an ACK of its own. The telemetry of the routers: a window's histogram is kept and added to the accumulators, a period's accumulators are sent to the fabric manager and cleared, they arrive there, and once a period the map is written to the next buffer, its first 8 bytes last, or discarded. -/
def Obligations.RequestTimersAndTelemetry : Prop :=
  (
  (∀ (s : State) (die site msgId : Nat) (o : Outst), isDie die = true → outOf s die site msgId = some o → o.msg.msgId = msgId →
    let resent (dep : Bool) (t : State) : Prop := t.net.packets = s.net.packets ++ packetsOf { o.msg with attempt := (o.msg.attempt + 1) % 256, dep := dep } 0
      ∧ (∃ o' ∈ (niOf t die site).out, o'.msg = { o.msg with attempt := (o.msg.attempt + 1) % 256, dep := dep } ∧ o'.st = .sent)
      ∧ telGet t die site 0x50018 = telRaise (telGet s die site 0x50018) 1 ∧ OnlyIn [.net, .tel] s t
    (∀ at', o.st = .refused 1 at' → (at' + 2000 ≤ s.now → sourceReply s o.msg = none → Completes (.messageResend die site msgId) s (resent o.msg.dep))
      ∧ (s.now < at' + 2000 → Completes (.messageResend die site msgId) s (fun t => OnlyIn [] s t)))
    ∧ (∀ at', o.st = .refused 2 at' → (niOf s die site).out.head? = some o → sourceReply s o.msg = none → Completes (.messageResend die site msgId) s (resent false))
    ∧ (∀ at' since, o.st = .refused 3 at' → o.partedSince = some since →
      (since + 1000000 < s.now → Completes (.messageResend die site msgId) s (fun t => (niOf t die site).replies = (niOf s die site).replies ++ [localReply o.msg 0x0507] ∧ t.net.packets = s.net.packets ∧ OnlyIn [.net] s t))
      ∧ (s.now ≤ since + 1000000 → at' + 10000 ≤ s.now → sourceReply s o.msg = none → Completes (.messageResend die site msgId) s (resent o.msg.dep)))
    ∧ (∀ m, m.dst.die = die → m.dst.site = site → m.msgId = msgId → o.st = .sent → Completes (.held m) s (fun t =>
      (∃ o' ∈ (niOf t die site).out, o'.msg = o.msg ∧ o'.st = .held) ∧ t.net.packets = s.net.packets ∧ OnlyIn [.net] s t))
    ∧ (o.msg.src.site ≠ blockSite → o.msg.src.port ≠ portStream →
      (overdue s o = false → Completes (.mullTimeout die site msgId) s (fun t => OnlyIn [] s t))
      ∧ (overdue s o = true → o.msg.typ ≠ 4 → Completes (.mullTimeout die site msgId) s (fun t => (∀ o' ∈ (niOf t die site).out, o'.msg.msgId ≠ msgId) ∧ OnlyIn [.net] s t))
      ∧ (∀ at', overdue s o = true → o.msg.typ = 4 → kopOf o.msg = 2 → o.st = .refused 1 at' → 1 ≤ o.msg.job → o.msg.job ≤ 63 → HearsEvents s o.msg.dst.die → Completes (.mullTimeout die site msgId) s (fun t =>
        (∀ o' ∈ (niOf t die site).out, o'.msg.msgId ≠ msgId) ∧ Raises s t o.msg.dst.die 0x0502 1 o.msg.job ∧ OnlyIn [.net, .ev, .lastFault] s t)))
    ∧ (∀ m, m ∈ (niOf s die site).replies → m.dst = o.msg.src → m.dst.die = die → m.dst.site = site → m.msgId = msgId → o.st = .sent →
      (m.typ = 0x82 → m.status ≠ 3 → Completes (.replyReceived m) s (fun t => (∃ o' ∈ (niOf t die site).out, o'.msg = o.msg ∧ o'.st = .refused m.status s.now ∧ o'.partedSince = none)
        ∧ t.net.packets = s.net.packets ∧ OnlyIn [.net] s t))
      ∧ (m.typ = 0x80 → site ≠ blockSite → m.dst.port ≠ portStream → o.msg.typ ≠ 4 → Completes (.replyReceived m) s (fun t => (∀ o' ∈ (niOf t die site).out, o'.msg.msgId ≠ msgId) ∧ OnlyIn [.net] s t))))
  ∧ (∀ (s : State) (m : Msg), isDie m.dst.die = true →
    ((niOf s m.dst.die m.dst.site).rx.any (fun b => sameMsg b.msg m) = true → Completes (.withdrawHeld m) s (fun t =>
      (∀ b ∈ (niOf t m.dst.die m.dst.site).rx, sameMsg b.msg m = false)
      ∧ t.net.packets = s.net.packets ++ packetsOf { m with typ := 0x80, dst := m.src, src := m.dst, seq := 0, status := 0, scode := false, dep := false, data := [], arg := 1 } 2 ∧ OnlyIn [.net, .sTiles] s t))
    ∧ ((niOf s m.dst.die m.dst.site).rx.any (fun b => sameMsg b.msg m) = false → Completes (.withdrawHeld m) s (fun t => OnlyIn [] s t)))
  ) ∧ (
  (∀ (s : State) (die site : Nat) (samples : List (List Nat)), isDie die = true → Completes (.telemetryWindowEnd die site samples) s (fun t =>
    (∀ p row, samples[p]? = some row →
      let x := Tab.get portTelInitial (siteKey die site * 16 + p) s.net.tel
      let y := Tab.get portTelInitial (siteKey die site * 16 + p) t.net.tel
      y.hist = row.take 8 ∧ y.full = (x.full || decide (0 < nth 0 8 row)) ∧ y.wstart = (s.now / 10000 - 1) * 10000 ∧ y.acc = List.zipWith (fun a b => (a + b) % 2 ^ 24) x.acc (row.take 8 ++ List.replicate 8 0))
    ∧ t.net.packets = s.net.packets ∧ t.net.nis = s.net.nis ∧ OnlyIn [.net] s t))
  ∧ (∀ (s : State) (die site : Nat), isDie die = true → IdFree s { die := die, site := site, port := portTile, index := 0 } → Completes (.telemetryPeriodEnd die site) s (fun t =>
    (∀ p, p < portCount die → (Tab.get portTelInitial (siteKey die site * 16 + p) t.net.tel).acc = List.replicate 8 0 ∧ (Tab.get portTelInitial (siteKey die site * 16 + p) t.net.tel).full = false)
    ∧ Requested s t { die := die, site := site, port := portTile, index := 0 } 0 0 0x0B (configEp 0x60) 0 ((upTo (portCount die)).map (fun p => accWord (Tab.get portTelInitial (siteKey die site * 16 + p) s.net.tel)))
    ∧ OnlyIn [.net] s t))
  ∧ (∀ (s : State) (m : Msg), Admitted s m → m.cfgm = false → m.dst.die = 0x60 → Completes (.telemetry m) s (fun t => Answered s t m 0x80 0 false []
    ∧ (∀ p w, m.data[p]? = some w → (Tab.find? (siteKey m.src.die m.src.site * 16 + p) t.net.mapIn).map PortTel.acc = some (elems 24 8 w.toNat)) ∧ OnlyIn [.net] s t))
  ∧ (∀ s : State, (s.now < s.net.mapPeriod + 1000000 → Completes .mapWrite s (fun t => OnlyIn [] s t))
    ∧ (s.net.mapPeriod + 1000000 ≤ s.now → s.net.mapRing = none → Completes .mapWrite s (fun t => t.net.mapPeriod = s.net.mapPeriod + 1000000 ∧ t.net.mapSeq = (s.net.mapSeq + 1) % 2 ^ 48 ∧ t.net.mapIn = [] ∧ OnlyIn [.net] s t))
    ∧ (∀ a n, s.net.mapPeriod + 1000000 ≤ s.now → s.net.mapRing = some (a, n) → s.net.mapWrap = false →
      let base := a + 230528 * (s.net.mapSeq % n)
      spaceOf base = 8 → spaceOf (base + 8) = 8 → Completes .mapWrite s (fun t => (∃ bs, t.host.writes = s.host.writes
          ++ [{ id := s.host.nextId, addr := base + 8, bytes := bs, use := .map, since := s.now }, { id := s.host.nextId + 1, addr := base, bytes := leBytes 8 s.net.mapSeq, use := .map, since := s.now }]
          ∧ bs.length = 230520 ∧ bs.take 8 = leBytes 8 s.net.mapPeriod)
        ∧ t.net.mapPeriod = s.net.mapPeriod + 1000000 ∧ t.net.mapSeq = (s.net.mapSeq + 1) % 2 ^ 48 ∧ t.net.mapIn = [] ∧ OnlyIn [.net, .host] s t)))
  )

/-- SIGNAL and RESET of a kettle that no one waits on: a sum within 0 to 2^31 − 1 or a reset value becomes the value and is recorded as the last operation; a sum below 0 or above leaves the value, is answered ERROR and faults the job; an operand out of range is a bad operation. No other kettle changes. -/
def Obligations.KettlesAddAndReset : Prop :=
  ∀ (s : State) (m : Msg), Admitted s m → m.cfgm = false → m.typ = 4 → m.dst.port = portKettle → m.dst.site = blockSite → (∀ w ∈ (ktOf s m.dst.die).waiters, w.kettle ≠ m.dst.index) → (∀ e ∈ s.regions, e.2.timed = none) →
    let kt := (ktOf s m.dst.die).kettle m.dst.index
    let v := (kt.value : Int) + toSigned 32 (koperandOf m)
    let others (t : State) : Prop := (∀ k, k ≠ m.dst.index → (ktOf t m.dst.die).kettle k = (ktOf s m.dst.die).kettle k) ∧ (ktOf t m.dst.die).waiters = (ktOf s m.dst.die).waiters ∧ (∀ d, d ≠ m.dst.die → ktOf t d = ktOf s d)
    let recorded (f : Bool) (k : Kettle) : Prop := k.lastOp = kopOf m ∧ k.lastSrc = m.src ∧ k.lastIssuer = m.issuer ∧ k.lastTime = s.now ∧ k.lastFaulted = f ∧ k.owner = kt.owner
    let faulted (code : Nat) (t : State) : Prop := Answered s t m 0x83 code false [] ∧ ((ktOf t m.dst.die).kettle m.dst.index).value = kt.value ∧ others t
      ∧ (1 ≤ m.job → m.job ≤ 63 → HearsEvents s m.dst.die → Raises s t m.dst.die code 1 m.job) ∧ OnlyIn [.kettles, .net, .tel, .ev, .lastFault] s t
    (kopOf m = 1 → koperandOf m ≠ 0 → koperandOf m ≠ 2 ^ 31 →
      (0 ≤ v → v ≤ 2 ^ 31 - 1 → Completes (.signal m) s (fun t => Answered s t m 0x80 0 false [] ∧ (((ktOf t m.dst.die).kettle m.dst.index).value : Int) = v
        ∧ recorded false ((ktOf t m.dst.die).kettle m.dst.index) ∧ others t ∧ OnlyIn [.kettles, .net, .tel] s t))
      ∧ (v < 0 → Completes (.signal m) s (fun t => faulted 0x0601 t ∧ recorded true ((ktOf t m.dst.die).kettle m.dst.index)))
      ∧ (2 ^ 31 - 1 < v → Completes (.signal m) s (fun t => faulted 0x0602 t ∧ recorded true ((ktOf t m.dst.die).kettle m.dst.index))))
    ∧ (kopOf m = 1 → (koperandOf m = 0 ∨ koperandOf m = 2 ^ 31) → Completes (.signal m) s (faulted 0x0603))
    ∧ (kopOf m = 4 → koperandOf m < 2 ^ 31 → Completes (.reset m) s (fun t => Answered s t m 0x80 0 false [] ∧ ((ktOf t m.dst.die).kettle m.dst.index).value = koperandOf m
      ∧ recorded false ((ktOf t m.dst.die).kettle m.dst.index) ∧ others t ∧ OnlyIn [.kettles, .net, .tel] s t))
    ∧ (kopOf m = 4 → 2 ^ 31 ≤ koperandOf m → Completes (.reset m) s (faulted 0x0603))

/-- A wait that the value meets is answered at once, a consumer taking its demand and an observer nothing; one that it does not meet is acknowledged and registered last; with the waiter table full it is refused. A signal or reset releases the one waiter of its kettle whose demand the new value meets, a consumer taking its demand, and sends it one RELEASE with the value left; a demand not met stays registered. -/
def Obligations.KettleWaitsAreMetAndReleased : Prop :=
  (
  ∀ (s : State) (m : Msg), Admitted s m → m.cfgm = false → m.typ = 4 → m.dst.port = portKettle → m.dst.site = blockSite → (∀ w ∈ (ktOf s m.dst.die).waiters, w.kettle ≠ m.dst.index) → koperandOf m ≠ 0 → koperandOf m < 2 ^ 31 →
    let u := ktOf s m.dst.die
    let kt := u.kettle m.dst.index
    let n := koperandOf m
    let met (v : Nat) (t : State) : Prop := Answered s t m 0x81 0 false [BitVec.ofNat 256 v] ∧ (ktOf t m.dst.die).kettle m.dst.index = { kt with value := v } ∧ (ktOf t m.dst.die).waiters = u.waiters
      ∧ (∀ k, k ≠ m.dst.index → (ktOf t m.dst.die).kettle k = u.kettle k) ∧ OnlyIn [.kettles, .net, .tel] s t
    let registered (observe : Bool) (t : State) : Prop := Answered s t m 0x80 0 false []
      ∧ (∃ w, (ktOf t m.dst.die).waiters = u.waiters ++ [w] ∧ w.kettle = m.dst.index ∧ w.observe = observe ∧ w.demand = n ∧ w.src = m.src ∧ w.issuer = m.issuer ∧ w.job = m.job ∧ w.time = s.now
          ∧ ∀ x ∈ u.waiters, x.slot ≠ w.slot)
      ∧ ((ktOf t m.dst.die).kettle m.dst.index).value = kt.value ∧ OnlyIn [.kettles, .net, .tel] s t
    (kopOf m = 2 → (n ≤ kt.value → Completes (.waitConsume m) s (met (kt.value - n)))
      ∧ (kt.value < n → u.waiters.length < waiterRoom m.dst.die → Completes (.waitConsume m) s (registered false))
      ∧ (kt.value < n → waiterRoom m.dst.die ≤ u.waiters.length → Completes (.waitConsume m) s (fun t => Answered s t m 0x82 1 false [] ∧ t.kettles = s.kettles ∧ OnlyIn [.net, .tel] s t)))
    ∧ (kopOf m = 3 → (n ≤ kt.value → Completes (.waitObserve m) s (met kt.value))
      ∧ (kt.value < n → u.waiters.length < waiterRoom m.dst.die → Completes (.waitObserve m) s (registered true))
      ∧ (kt.value < n → waiterRoom m.dst.die ≤ u.waiters.length → Completes (.waitObserve m) s (fun t => Answered s t m 0x82 1 false [] ∧ t.kettles = s.kettles ∧ OnlyIn [.net, .tel] s t)))
  ) ∧ (
  ∀ (s : State) (m : Msg) (w : Waiter) (v : Nat), Admitted s m → m.cfgm = false → m.typ = 4 → m.dst.port = portKettle → m.dst.site = blockSite → (ktOf s m.dst.die).waiters = [w] → w.kettle = m.dst.index → IdFree s m.dst → v < 2 ^ 31 →
    let left := if w.observe then v else v - w.demand
    let released (t : State) : Prop := (ktOf t m.dst.die).waiters = [] ∧ ((ktOf t m.dst.die).kettle m.dst.index).value = left
      ∧ Requested s t (kettleEp m.dst.die m.dst.index) w.issuer w.job 4 w.src (kettleArg 5 false left) [] ∧ OnlyIn [.kettles, .net, .tel] s t
    let kept (t : State) : Prop := (ktOf t m.dst.die).waiters = [w] ∧ ((ktOf t m.dst.die).kettle m.dst.index).value = v ∧ Answered s t m 0x80 0 false [] ∧ OnlyIn [.kettles, .net, .tel] s t
    (kopOf m = 4 → koperandOf m = v → (w.demand ≤ v → Completes (.reset m) s released) ∧ (v < w.demand → Completes (.reset m) s kept))
    ∧ (kopOf m = 1 → koperandOf m ≠ 0 → koperandOf m ≠ 2 ^ 31 → (((ktOf s m.dst.die).kettle m.dst.index).value : Int) + toSigned 32 (koperandOf m) = v → (∀ e ∈ s.regions, e.2.timed = none) →
      (w.demand ≤ v → Completes (.signal m) s released) ∧ (v < w.demand → Completes (.signal m) s kept))
  )

/-- WITHDRAW removes the waiters of its scope unreleased and is acknowledged; from any sender but H0's die block it is a job mismatch. RELEASE resumes the context or the stream that waits. A timed run past its deadline is reported once and counted. -/
def Obligations.WaitsAreWithdrawnAndReleased : Prop :=
  (∀ (s : State) (m : Msg), isDie m.dst.die = true → m.cfgm = false → m.typ = 4 → m.dst.port = portKettle →
    (m.src.die = 0x60 → m.src.site = blockSite → kopOf m = 6 → bits m.arg.toNat 23 16 ≤ 4 → (ktOf s m.dst.die).withdrawing = [] → withdrawSettled s m.dst.die m = true → Completes (.withdraw m) s (fun t =>
      Answered s t m 0x80 0 false [] ∧ (∀ w, w ∈ (ktOf t m.dst.die).waiters ↔ w ∈ (ktOf s m.dst.die).waiters ∧ inScope m w.job w.src = false) ∧ (ktOf t m.dst.die).withdrawing = []
      ∧ (ktOf t m.dst.die).kettles = (ktOf s m.dst.die).kettles ∧ (∀ d, d ≠ m.dst.die → ktOf t d = ktOf s d) ∧ OnlyIn [.kettles, .net, .tel] s t))
    ∧ (m.src.die = 0x60 → m.src.site = blockSite → kopOf m = 6 → bits m.arg.toNat 23 16 ≤ 4 → (ktOf s m.dst.die).withdrawing = [] → withdrawSettled s m.dst.die m = false → Completes (.withdraw m) s (fun t =>
      t.net = s.net ∧ (ktOf t m.dst.die).withdrawing = [m] ∧ (∀ w, w ∈ (ktOf t m.dst.die).waiters ↔ w ∈ (ktOf s m.dst.die).waiters ∧ inScope m w.job w.src = false) ∧ OnlyIn [.kettles, .tel] s t))
    ∧ (m.src.die ≠ 0x60 ∨ m.src.site ≠ blockSite → kopOf m = 6 → Completes (.withdraw m) s (fun t => Answered s t m 0x83 0x0503 false [] ∧ t.kettles = s.kettles ∧ OnlyIn [.net, .ev, .lastFault] s t)))
  ∧ (∀ (s : State) (m : Msg), Admitted s m → m.cfgm = false → m.typ = 4 → kopOf m = 5 → m.dst.site ≠ blockSite → m.dst.port = portTile →
    (siteKind m.dst.site = some .mTile → ((mtOf s m.dst.die m.dst.site).ctx m.dst.index).st = .blocked → ((mtOf s m.dst.die m.dst.site).ctx m.dst.index).wait = .sent → m.dst.index < (mtOf s m.dst.die m.dst.site).ctxs.length →
      Completes (.release m) s (fun t => Answered s t m 0x80 0 false []
        ∧ (mtOf t m.dst.die m.dst.site).ctx m.dst.index = { (mtOf s m.dst.die m.dst.site).ctx m.dst.index with st := .waiting, wait := .released }
        ∧ (∀ n, n ≠ m.dst.index → (mtOf t m.dst.die m.dst.site).ctx n = (mtOf s m.dst.die m.dst.site).ctx n) ∧ OnlyIn [.mTiles, .net] s t))
    ∧ (siteKind m.dst.site = some .vTile → ((vtOf s m.dst.die m.dst.site).ctx m.dst.index).st = .blocked → ((vtOf s m.dst.die m.dst.site).ctx m.dst.index).wait = .sent → m.dst.index < (vtOf s m.dst.die m.dst.site).ctxs.length →
      Completes (.release m) s (fun t => Answered s t m 0x80 0 false []
        ∧ (vtOf t m.dst.die m.dst.site).ctx m.dst.index = { (vtOf s m.dst.die m.dst.site).ctx m.dst.index with st := .waiting, wait := .released } ∧ OnlyIn [.vTiles, .net] s t)))
  ∧ (∀ (s : State) (m : Msg) (x : Strm), Admitted s m → m.cfgm = false → m.typ = 4 → kopOf m = 5 → m.dst.site ≠ blockSite → m.dst.port = portStream →
    slotOf s m.dst.die m.dst.site m.issuer = some x → x.phase = .trigger .sent → Completes (.release m) s (fun t => Answered s t m 0x80 0 false []
      ∧ slotOf t m.dst.die m.dst.site m.issuer = some { x with phase := .running } ∧ (∀ k, k ≠ m.issuer → slotOf t m.dst.die m.dst.site k = slotOf s m.dst.die m.dst.site k) ∧ OnlyIn [.engines, .net] s t))
  ∧ (∀ (s : State) (n : Nat) (r : Region) (d : Timed) (x : TimedRun), Tab.find? n s.regions = some r → r.timed = some d → d.runs = [x] →
    let bound := (r.sig.map Sig.timedBound).getD 0
    (x.missed = false → x.start + bound < s.now → HearsEvents s 0x7F → Completes (.timedDeadlineMiss n) s (fun t => Raises s t 0x7F 0x0710 0 r.job
      ∧ (Tab.find? n t.regions).map Region.timed = some (some { d with runs := [{ x with missed := true }] })
      ∧ Tab.get 0 0x48 (jobOf t r.job).counters = telRaise (Tab.get 0 0x48 (jobOf s r.job).counters) 1 ∧ OnlyIn [.ev, .jobs, .regions] s t))
    ∧ (s.now ≤ x.start + bound ∨ x.missed = true → Completes (.timedDeadlineMiss n) s (fun t => (Tab.find? n t.regions).map Region.timed = some (some d)  ∧ t.ev = s.ev ∧ OnlyIn [.regions] s t)))

/-- TILE_ISSUE: a descriptor whose checks pass joins the queue of an ISSUED context that has room and is acknowledged, and is held where it has none; one that fails them is answered BAD_DESCRIPTOR, and one for no such context WRONG_TARGET. SUMMARY merges into the collector of its tag, whose last one ends the step and moves on to the next slot, and GOV_UPDATE gives its pair the block exponent. CORE_MSG: words of cluster memory that the job's windows admit are read and written, and a narrow write changes its own bytes only; one outside them is answered ADDR_NOT_OWNED and nothing is written. -/
def Obligations.ClusterMessagesAreTaken : Prop :=
  (
  (∀ (s : State) (m : Msg), Admitted s m → m.cfgm = false → m.typ = 5 → m.dst.port ≠ portStream →
    let t0 := mtOf s m.dst.die m.dst.site
    let c := t0.ctx m.dst.index
    let ranks := ranksOk s (siteJob s m.dst.die m.dst.site) (mDescRanks (issueDesc m))
    (siteKind m.dst.site = some .mTile → m.dst.index < 4 → m.dst.index < t0.ctxs.length → dfld c.desc 0 1 = 1 → dfld c.desc 1 1 = 1 →
      (mDescOk c.desc (issueDesc m) = true → ranks = true → c.queue.length < 16 → Completes (.tileIssue m) s (fun t => Answered s t m 0x80 0 false []
        ∧ (mtOf t m.dst.die m.dst.site).ctx m.dst.index = { c with queue := c.queue ++ [issueDesc m] }
        ∧ (∀ n, n ≠ m.dst.index → (mtOf t m.dst.die m.dst.site).ctx n = t0.ctx n) ∧ OnlyIn [.mTiles, .net] s t))
      ∧ (mDescOk c.desc (issueDesc m) = true → ranks = true → 16 ≤ c.queue.length → isHeld s m = false → Completes (.tileIssue m) s (fun t => Answered s t m 0x84 0 false [] ∧ t.mTiles = s.mTiles ∧ OnlyIn [.net] s t))
      ∧ ((mDescOk c.desc (issueDesc m) = false ∨ ranks = false) → Completes (.tileIssue m) s (fun t => Answered s t m 0x83 0x0105 true [] ∧ OnlyIn [.net] s t)))
    ∧ (let v0 := vtOf s m.dst.die m.dst.site
      let c := v0.ctx m.dst.index
      let ok := vDescOk v0.chains (issueDesc m) = true ∧ (v0.govAll [issueDesc m]).length ≤ 8 ∧ ranksOk s (siteJob s m.dst.die m.dst.site) (vDescRanks (issueDesc m)) = true
      siteKind m.dst.site = some .vTile → m.dst.index < 4 → m.dst.index < v0.ctxs.length → dfld c.desc 0 1 = 1 → dfld c.desc 1 1 = 1 →
      (ok → c.queue.length < 16 → Completes (.tileIssue m) s (fun t => Answered s t m 0x80 0 false []
        ∧ (vtOf t m.dst.die m.dst.site).ctx m.dst.index = { c with queue := c.queue ++ [issueDesc m] }
        ∧ (∀ n, n ≠ m.dst.index → (vtOf t m.dst.die m.dst.site).ctx n = v0.ctx n) ∧ OnlyIn [.vTiles, .net] s t))
      ∧ (ok → 16 ≤ c.queue.length → isHeld s m = false → Completes (.tileIssue m) s (fun t => Answered s t m 0x84 0 false [] ∧ t.vTiles = s.vTiles ∧ OnlyIn [.net] s t))
      ∧ (¬ ok → Completes (.tileIssue m) s (fun t => Answered s t m 0x83 0x0105 true [] ∧ OnlyIn [.net] s t)))
    ∧ (siteKind m.dst.site = some .mTile → (4 ≤ m.dst.index ∨ dfld c.desc 1 1 ≠ 1) → Completes (.tileIssue m) s (fun t => Answered s t m 0x83 0x0106 true [] ∧ OnlyIn [.net] s t)))
  ∧ (∀ (s : State) (m : Msg), Admitted s m → m.cfgm = false → m.typ = 5 → m.dst.port = portStream → hasEngine m.dst.die m.dst.site = true →
    streamCheck s m.dst.die m.dst.site m.job (streamDesc m) = none → (enOf s m.dst.die m.dst.site).queue.length < 16 → Completes (.tileIssue m) s (fun t => Answered s t m 0x80 0 false []
      ∧ (∃ x, (enOf t m.dst.die m.dst.site).queue = (enOf s m.dst.die m.dst.site).queue ++ [x] ∧ x.desc = streamDesc m ∧ x.job = m.job ∧ x.owner = some (m.src, m.issuer))
      ∧ (enOf t m.dst.die m.dst.site).slots = (enOf s m.dst.die m.dst.site).slots ∧ OnlyIn [.engines, .net] s t))
  ∧ (∀ (s : State) (m : Msg), Admitted s m → m.cfgm = false → siteKind m.dst.site = some .vTile →
    let t0 := vtOf s m.dst.die m.dst.site
    let tag := m.arg.toNat % 65536
    (∀ n, m.typ = 6 → (upTo 8).find? (fun n => collFld t0 n 0 2 == tag && tag != 0) = some n → n < t0.coll.length →
      let c := nth collectorInitial n t0.coll
      (c.count + 1 = collFld t0 n 2 2 → Completes (.summary m) s (fun t =>
        let c1 := nth collectorInitial n (vtOf t m.dst.die m.dst.site).coll
        c1.count = 0 ∧ c1.step = (c.step + 1) % 2 ^ 48 ∧ c1.slot = (if c.slot + 1 < collFld t0 n 14 2 then c.slot + 1 else 0)
        ∧ (∀ k, k ≠ n → nth collectorInitial k (vtOf t m.dst.die m.dst.site).coll = nth collectorInitial k t0.coll) ∧ OnlyIn [.vTiles, .net, .ev, .lastFault] s t))
      ∧ (c.count + 1 ≠ collFld t0 n 2 2 → Completes (.summary m) s (fun t => Answered s t m 0x80 0 false []
        ∧ nth collectorInitial n (vtOf t m.dst.die m.dst.site).coll = { c with count := c.count + 1, sum := if c.count = 0 then summaryOf m.data else c.sum.merge (summaryOf m.data) }
        ∧ (∀ k, k ≠ n → nth collectorInitial k (vtOf t m.dst.die m.dst.site).coll = nth collectorInitial k t0.coll) ∧ OnlyIn [.vTiles, .net] s t)))
    ∧ (m.typ = 6 → (upTo 8).find? (fun n => collFld t0 n 0 2 == tag && tag != 0) = none → Completes (.summary m) s (fun t => Answered s t m 0x80 0 false [] ∧ t.vTiles = s.vTiles ∧ OnlyIn [.net, .ev, .lastFault] s t))
    ∧ (∀ p, m.typ = 7 → t0.pairs = [p] → p.tag = tag → (rankEp s (siteJob s m.dst.die m.dst.site) p.rank).map (fun e => (e.die, e.site)) = some (m.src.die, m.src.site) → Completes (.govUpdate m) s (fun t =>
      Answered s t m 0x80 0 false [] ∧ (vtOf t m.dst.die m.dst.site).pairs = [{ p with got := p.got + 1, b := m.arg.toNat / 2 ^ 16 % 256 }] ∧ OnlyIn [.vTiles, .net] s t)))
  ) ∧ (
  ∀ (s : State) (m : Msg), Admitted s m → m.cfgm = false → m.dst.site = blockSite → m.dst.port = portCore → m.typ = 8 → cmMalformed m = false → s.memoryOk →
    let die := m.dst.die
    let a := clusterAddr die (cmOffset m)
    let admitted (off n perm : Nat) : Prop := off + n ≤ clusterSize die ∧ (m.job = 0 ∨ cmAdmitted s m perm = true)
    (cmOp m = 1 → admitted (cmOffset m) (32 * cmCount m) 1 → (∀ k, k < cmCount m → Tab.find? (a + 32 * k) s.flips = none) →
      Completes (.coreMsgRead m []) s (fun t => Answered s t m 0x81 0 false ((upTo (cmCount m)).map (fun k => wordAt s.mem (a + 32 * k))) ∧ OnlyIn [.net] s t))
    ∧ (cmOp m = 2 → admitted (cmOffset m) (32 * cmCount m) 2 → Completes (.coreMsgWrite m) s (fun t => Answered s t m 0x80 0 false []
      ∧ (∀ k w, m.data[k]? = some w → wordAt t.mem (a + 32 * k) = w) ∧ outside a (32 * cmCount m) s t ∧ OnlyIn [.net, .mem, .flips, .cores] s t))
    ∧ (cmOp m = 3 → admitted (cmOffset m + cmByteOff m) (cmBytes m) 2 → Tab.find? a s.flips = none → Completes (.coreMsgWriteNarrow m) s (fun t => Answered s t m 0x80 0 false []
      ∧ memGetList t.mem (a + cmByteOff m) (cmBytes m) = leBytes (cmBytes m) (fld (m.data.headD 0).toNat (cmByteOff m) (cmBytes m)) ∧ outside (a + cmByteOff m) (cmBytes m) s t
      ∧ OnlyIn [.net, .mem, .flips, .cores] s t))
    ∧ (cmOp m = 2 → 1 ≤ m.job → cmOffset m + 32 * cmCount m ≤ clusterSize die → cmAdmitted s m 2 = false →
      Completes (.coreMsgWrite m) s (fun t => Answered s t m 0x83 0x0221 false [] ∧ t.mem = s.mem ∧ OnlyIn [.net, .ev, .lastFault] s t))
  )

/-- READ answers its slots' words in slot order and, in COUNTED mode, takes each of their tags one down; every other tag, and all memory, stay. Where no other source wants a bank it is answered in the same step; a command whose first slot's bank goes to another access waits, unanswered, with nothing read. A first slot that is EMPTY has the command HELD with nothing read, and an uncorrectable word is answered with its event and changes no tag. READ_NARROW answers the bytes asked for in their own places and changes no tag. WRITE, FILL and COPY store their words in their slots and give each TAGGED slot the tag of the mode; COPY also counts its source slots down; all other bytes and tags stay. Where no other source wants a bank they are answered in the same step; a WRITE whose first slot's bank goes to another access waits, unanswered, with nothing written. A first slot that is FULL has a COUNTED WRITE HELD with nothing written. WRITE_NARROW merges its bytes into the slot under its old tag; in narrow-gather mode they merge into the slot's open entry or open a new one, and with 16 COUNTED entries open the command waits. -/
def Obligations.ScratchSlotsAreReadAndWritten : Prop :=
  (
  ∀ (s : State) (m : Msg), bit (spFlags m) 0 = false →
    let alone : Prop := Uncontended s m.dst.die m.dst.site
    let begun (held : Bool) : SpCmd := { msg := m, next := 0, got := [], since := s.now, heldSent := held }
    let t0 := spOf s m.dst.die m.dst.site
    let a (k : Nat) := slotAddr m.dst.die m.dst.site (spSlot m + k)
    (SpTakes s m 1 → alone → (∀ k, k < spCount m → t0.readReady (spSlot m + k) (spMode m) = true ∧ Tab.find? (a k) s.flips = none) → Completes (.read m []) s (fun t =>
      Answered s t m 0x81 0 false ((upTo (spCount m)).map (fun k => wordAt s.mem (a k)))
        ∧ (∀ n, (spOf t m.dst.die m.dst.site).tag n = if spSlot m ≤ n ∧ n < spSlot m + spCount m ∧ spMode m = 0 then t0.tag n - 1 else t0.tag n)
        ∧ OnlyIn [.sTiles, .net, .tel] s t))
    ∧ (SpTakes s m 1 → t0.cmds = [] → t0.readReady (spSlot m) (spMode m) = false → Completes (.read m []) s (fun t =>
      Answered s t m 0x84 0 false [] ∧ spOf t m.dst.die m.dst.site = { t0 with cmds := [begun true] } ∧ OnlyIn [.sTiles, .net] s t))
    ∧ (SpTakes s m 1 → t0.cmds = [] → t0.readReady (spSlot m) (spMode m) = true → (cmdAcc t0 (begun false)).all (spWins s m.dst.die m.dst.site) = false →
      Completes (.read m []) s (fun t => spOf t m.dst.die m.dst.site = { t0 with cmds := [begun false] } ∧ OnlyIn [.sTiles] s t))
    ∧ (∀ f, SpTakes s m 1 → alone → spDefers m = false → t0.readReady (spSlot m) (spMode m) = true → Tab.find? (a 0) s.flips = some f → decodePattern f = .uncorrectable → Completes (.read m []) s (fun t =>
      Answered s t m 0x83 0x0120 false [] ∧ (siteJob s m.dst.die m.dst.site ≠ 0 → HearsEvents s m.dst.die → Raises s t m.dst.die 0x0120 1 (siteJob s m.dst.die m.dst.site))
        ∧ (spOf t m.dst.die m.dst.site).tags = t0.tags ∧ OnlyIn [.sTiles, .net, .ev, .lastFault, .tel] s t))
    ∧ (SpTakes s m 3 → alone → t0.readReady (spSlot m) (spMode m) = true → Tab.find? (a 0) s.flips = none → Completes (.readNarrow m []) s (fun t =>
      Answered s t m 0x81 0 false [mergeMask 0 (wordAt s.mem (a 0)) (narrowMask m)] ∧ (∀ n, (spOf t m.dst.die m.dst.site).tag n = t0.tag n) ∧ OnlyIn [.sTiles, .net, .tel] s t))
  ) ∧ (
  ∀ (s : State) (m : Msg), bit (spFlags m) 0 = false → s.memoryOk →
    let alone : Prop := Uncontended s m.dst.die m.dst.site
    let begun (held : Bool) : SpCmd := { msg := m, next := 0, got := [], since := s.now, heldSent := held }
    let t0 := spOf s m.dst.die m.dst.site
    let a (k : Nat) := slotAddr m.dst.die m.dst.site (spSlot m + k)
    let ready : Prop := ∀ k, k < spCount m → t0.writeReady (spSlot m + k) (spMode m) = true
    let inRun (n : Nat) : Prop := spSlot m ≤ n ∧ n < spSlot m + spCount m
    let written (n : Nat) : Nat := if t0.tagged n then (writeTag (spMode m) (((t0.rangeAt n).map SpRange.readers).getD 0) (t0.tag n)).getD 0 else t0.tag n
    (SpTakes s m 2 → alone → ready → Completes (.write m []) s (fun t => Answered s t m 0x80 0 false []
      ∧ (∀ k, k < spCount m → wordAt t.mem (a k) = nth 0 (k + 1) m.data) ∧ outside (a 0) (32 * spCount m) s t
      ∧ (∀ n, (inRun n → (spOf t m.dst.die m.dst.site).tag n = written n) ∧ (¬ inRun n → (spOf t m.dst.die m.dst.site).tag n = t0.tag n)) ∧ OnlyIn [.sTiles, .mem, .flips, .net, .tel] s t))
    ∧ (SpTakes s m 2 → t0.cmds = [] → t0.writeReady (spSlot m) (spMode m) = false → Completes (.write m []) s (fun t =>
      Answered s t m 0x84 0 false [] ∧ spOf t m.dst.die m.dst.site = { t0 with cmds := [begun true] } ∧ OnlyIn [.sTiles, .net] s t))
    ∧ (SpTakes s m 2 → t0.cmds = [] → t0.writeReady (spSlot m) (spMode m) = true → (cmdAcc t0 (begun false)).all (spWins s m.dst.die m.dst.site) = false →
      Completes (.write m []) s (fun t => spOf t m.dst.die m.dst.site = { t0 with cmds := [begun false] } ∧ OnlyIn [.sTiles] s t))
    ∧ (SpTakes s m 5 → alone → ready → Completes (.fill m []) s (fun t => Answered s t m 0x80 0 false []
      ∧ (∀ k, k < spCount m → wordAt t.mem (a k) = BitVec.ofNat 256 (packElems 64 [spPattern m, spPattern m, spPattern m, spPattern m])) ∧ outside (a 0) (32 * spCount m) s t
      ∧ (∀ n, (inRun n → (spOf t m.dst.die m.dst.site).tag n = written n) ∧ (¬ inRun n → (spOf t m.dst.die m.dst.site).tag n = t0.tag n)) ∧ OnlyIn [.sTiles, .mem, .flips, .net, .tel] s t))
    ∧ (SpTakes s m 6 → alone → ready → (∀ k, k < spCount m → t0.readReady (spSrcSlot m + k) (spSrcMode m) = true ∧ Tab.find? (slotAddr m.dst.die m.dst.site (spSrcSlot m + k)) s.flips = none) →
      Completes (.copy m []) s (fun t => Answered s t m 0x80 0 false []
        ∧ (∀ k, k < spCount m → wordAt t.mem (a k) = wordAt s.mem (slotAddr m.dst.die m.dst.site (spSrcSlot m + k))) ∧ outside (a 0) (32 * spCount m) s t
        ∧ (∀ n, (inRun n → (spOf t m.dst.die m.dst.site).tag n = written n)
            ∧ (spSrcSlot m ≤ n → n < spSrcSlot m + spCount m → (spOf t m.dst.die m.dst.site).tag n = if spSrcMode m = 0 then t0.tag n - 1 else t0.tag n)) ∧ OnlyIn [.sTiles, .mem, .flips, .net, .tel] s t))
    ∧ (SpTakes s m 4 → alone → t0.gatherMode = false → Tab.find? (a 0) s.flips = none → Completes (.writeNarrow m []) s (fun t => Answered s t m 0x80 0 false []
      ∧ wordAt t.mem (a 0) = mergeMask (wordAt s.mem (a 0)) (nth 0 1 m.data) (narrowMask m) ∧ outside (a 0) 32 s t
      ∧ (∀ n, (spOf t m.dst.die m.dst.site).tag n = t0.tag n) ∧ OnlyIn [.sTiles, .mem, .flips, .net, .tel] s t))
    ∧ (SpTakes s m 4 → t0.gatherMode = true → t0.cmds = [] → t0.gather = [] → Completes (.writeNarrow m []) s (fun t => Answered s t m 0x80 0 false []
      ∧ (∃ g, (spOf t m.dst.die m.dst.site).gather = [g] ∧ g.slot = spSlot m ∧ g.mask = narrowMask m ∧ g.bytes = mergeMask 0 (nth 0 1 m.data) (narrowMask m) ∧ g.tagMode = spMode m ∧ g.counted = (spMode m != 2))
      ∧ OnlyIn [.sTiles, .net] s t))
    ∧ (∀ g, SpTakes s m 4 → t0.gatherMode = true → t0.cmds = [] → t0.gather = [g] → g.slot = spSlot m → g.tagMode = spMode m → g.writeBack = false → g.mask ||| narrowMask m ≠ 2 ^ 32 - 1 →
      Completes (.writeNarrow m []) s (fun t => Answered s t m 0x80 0 false []
        ∧ (spOf t m.dst.die m.dst.site).gather = [{ g with bytes := mergeMask g.bytes (nth 0 1 m.data) (narrowMask m), mask := g.mask ||| narrowMask m }] ∧ OnlyIn [.sTiles, .net] s t))
    ∧ (SpTakes s m 4 → t0.gatherMode = true → t0.cmds = [] → t0.gather.length = 16 → (∀ g ∈ t0.gather, g.counted = true ∧ g.writeBack = false ∧ g.mask ≠ 2 ^ 32 - 1 ∧ g.slot ≠ spSlot m) →
      Completes (.writeNarrow m []) s (fun t => spOf t m.dst.die m.dst.site = { t0 with cmds := [begun false] } ∧ OnlyIn [.sTiles] s t))
  )

/-- LEAF_SWAP takes effect at once where it need not wait: the roles exchange and GEN rises, the issuer is answered and the swap kettle signalled; with WAIT and a read leaf not empty it is pending and HELD, and takes effect once that leaf is empty; with another GEN or a swap pending it is refused and changes nothing. QUIRE_QUERY answers the quire's registers. GATHER_FLUSH writes every RAW entry back, keeps the COUNTED ones, and signals its kettle where it asks for that; in narrow-gather mode a narrow write that has waited 100 µs for an entry is answered GATHER_STALL. The patrol scrub, in a cycle in which nothing else is eligible at the bank, reads its next row, writes a corrected word back and reports one that it cannot correct, and changes no tag. -/
def Obligations.QuiresGatherAndPatrol : Prop :=
  (
  ∀ (s : State) (m : Msg), bit (spFlags m) 0 = false → m.cfgm = false →
    let d := m.dst.die
    let k := m.dst.site
    let t0 := spOf s d k
    let swapped (q : Quire) (n : Nat) (t : State) : Prop := (spOf t d k).quire n = { q with wleaf := 1 - q.wleaf, gen := (q.gen + 1) % 2 ^ 32, genWrap := q.genWrap || decide (q.gen + 1 = 2 ^ 32), pending := none }
      ∧ (∀ j, j ≠ n → (spOf t d k).quire j = t0.quire j) ∧ (spOf t d k).tags = t0.tags ∧ OnlyIn [.sTiles, .net] s t
    let q := t0.quire (spSlot m)
    (SpTakes s m 7 → q.gen = spGen m → q.pending = none → (bit (spFlags m) 6 = false ∨ q.readFull = 0) →
      Completes (.leafSwap m) s (fun t => swapped q (spSlot m) t ∧ (q.sig = false → Answered s t m 0x80 0 false [])
        ∧ (∀ e, q.sig = true → rankEp s (siteJob s d k) q.swapKettle = some e → e.port = portKettle → IdFree s m.dst →
            Requested s t (tileEp d k 0) 0 (siteJob s d k) 4 e (kettleArg 1 q.rel 1) [])))
    ∧ (SpTakes s m 7 → q.gen = spGen m → q.pending = none → bit (spFlags m) 6 = true → q.readFull ≠ 0 → Completes (.leafSwap m) s (fun t =>
      Answered s t m 0x84 0 false [] ∧ (spOf t d k).quire (spSlot m) = { q with pending := some m } ∧ (∀ j, j ≠ spSlot m → (spOf t d k).quire j = t0.quire j) ∧ OnlyIn [.sTiles, .net] s t))
    ∧ (SpTakes s m 7 → (q.gen ≠ spGen m ∨ q.pending ≠ none) → Completes (.leafSwap m) s (fun t => Answered s t m 0x83 0x0301 true [] ∧ OnlyIn [.net] s t))
    ∧ (∀ n, SiteIs d k [.sTile, .dpTile] → (t0.quire n).pending = some m →
      ((t0.quire n).readFull = 0 → siteParted s d k = false → (t0.quire n).sig = false → Completes (.leafSwapEffect d k n) s (fun t => Answered s t m 0x80 0 false [] ∧ swapped (t0.quire n) n t))
      ∧ ((t0.quire n).readFull ≠ 0 → Completes (.leafSwapEffect d k n) s (OnlyIn [] s)))
    ∧ (SpTakes s m 8 → Completes (.quireQuery m) s (fun t =>
      Answered s t m 0x81 0 false [BitVec.ofNat 256 (q.gen * 2 ^ 32 + (if q.genWrap then 4 else 0) + (if q.pending.isSome then 2 else 0) + q.wleaf % 2 + (q.full1 * 2 ^ 16 + q.full0) * 2 ^ 64)] ∧ OnlyIn [.net] s t))
  ) ∧ (
  (∀ (s : State) (m : Msg), SpTakes s m 9 → s.memoryOk →
    let t0 := spOf s m.dst.die m.dst.site
    t0.chans = [] → t0.cmds = [] → engineAccs s m.dst.die m.dst.site = [] → (∀ g ∈ t0.gather, g.mask ≠ 2 ^ 32 - 1 ∧ (g.counted = true → g.writeBack = false)) → t0.gather.length ≤ 16 →
    (bit (spFlags m) 0 = false → (t0.gather.map GatherEntry.slot).Nodup → (∀ g ∈ t0.gather, g.counted = false → Tab.find? (slotAddr m.dst.die m.dst.site g.slot) s.flips = none) → Completes (.gatherFlush m) s (fun t => Answered s t m 0x80 0 false []
      ∧ (∀ g ∈ t0.gather, g.counted = false → wordAt t.mem (slotAddr m.dst.die m.dst.site g.slot) = mergeMask (wordAt s.mem (slotAddr m.dst.die m.dst.site g.slot)) g.bytes g.mask)
      ∧ (∀ b, (∀ g ∈ t0.gather, g.counted = false → b < slotAddr m.dst.die m.dst.site g.slot ∨ slotAddr m.dst.die m.dst.site g.slot + 32 ≤ b) → memByte t.mem b = memByte s.mem b)
      ∧ (spOf t m.dst.die m.dst.site).gather = t0.gather.filter (fun g => g.counted) ∧ (spOf t m.dst.die m.dst.site).tags = t0.tags ∧ OnlyIn [.sTiles, .mem, .flips, .net, .tel] s t))
    ∧ (∀ e, bit (spFlags m) 0 = true → rankEp s m.job (spKettle m) = some e → e.port = portKettle → IdFree s m.dst → t0.gather = [] → Completes (.gatherFlush m) s (fun t =>
      Requested s t { m.dst with index := 0 } 0 m.job 4 e (kettleArg 1 (bit (spFlags m) 1) 1) [])))
  ∧ (∀ (s : State) (c : SpCmd), SiteIs c.msg.dst.die c.msg.dst.site [.sTile, .dpTile] → c.msg.cfgm = false → (spOf s c.msg.dst.die c.msg.dst.site).cmds = [c] → spOp c.msg = 4 → (spOf s c.msg.dst.die c.msg.dst.site).gatherMode = true →
    (c.since + 100000 ≤ s.now → Completes (.gatherStall c.msg.dst.die c.msg.dst.site) s (fun t => Answered s t c.msg 0x83 0x0122 false [] ∧ (spOf t c.msg.dst.die c.msg.dst.site).cmds = []
      ∧ (siteJob s c.msg.dst.die c.msg.dst.site ≠ 0 → HearsEvents s c.msg.dst.die → Raises s t c.msg.dst.die 0x0122 1 (siteJob s c.msg.dst.die c.msg.dst.site)) ∧ OnlyIn [.sTiles, .net, .ev, .lastFault] s t))
    ∧ (s.now < c.since + 100000 → Completes (.gatherStall c.msg.dst.die c.msg.dst.site) s (OnlyIn [] s)))
  ∧ (∀ (s : State) (die site bank : Nat), SiteIs die site [.sTile, .dpTile] → siteParted s die site = false → s.memoryOk →
    (eligible s die site bank ≠ [] → Completes (.patrolScrubSp die site bank []) s (OnlyIn [] s)) ∧
    (eligible s die site bank = [] →
    let t0 := spOf s die site
    let row := Tab.get 0 bank t0.patrol % 4096
    let a := slotAddr die site (row * 16 + bank % 16)
    let moved (t : State) : Prop := Tab.get 0 bank (spOf t die site).patrol = (row + 1) % 4096 ∧ (spOf t die site).tags = t0.tags
    (Tab.find? a s.flips = none → Completes (.patrolScrubSp die site bank []) s (fun t => moved t ∧ OnlyIn [.sTiles] s t))
    ∧ (∀ f r, Tab.find? a s.flips = some f → decodePattern f = .corrected r → Completes (.patrolScrubSp die site bank []) s (fun t => moved t
      ∧ wordAt t.mem a = wordAt s.mem a ^^^ BitVec.ofNat 256 r ∧ Tab.find? a t.flips = none ∧ outside a 32 s t ∧ telGet t die site 0x1A8 = telRaise (telGet s die site 0x1A8) 1 ∧ OnlyIn [.sTiles, .mem, .flips, .tel] s t))
    ∧ (∀ f, Tab.find? a s.flips = some f → decodePattern f = .uncorrectable → Completes (.patrolScrubSp die site bank []) s (fun t => moved t
      ∧ ((t0.rangeAt (row * 16 + bank % 16)).isSome = true → siteJob s die site ≠ 0 → HearsEvents s die → Raises s t die 0x0120 1 (siteJob s die site)) ∧ OnlyIn [.sTiles, .ev, .lastFault] s t))))
  )

/-- A bank grants a wide access before a narrow one unless a narrow one has been refused 16 times, and of those the one that waits longest, and an eligible read of a slot before a write of it. A granted read of a command gives it its word, and a granted read of a channel moves its words on; a write channel's granted word is stored and its tag set; a run that ends begins again from its base and signals its kettle. -/
def Obligations.BanksGrantByClassAndAge : Prop :=
  (∀ (t : STile) (c : List SpAcc) (a : SpAcc), (∀ x ∈ c, x.write = none) → grantChoice t c = some a →
    a ∈ c
    ∧ (∀ x ∈ c, x.wide = false → 16 ≤ ((Tab.find? (accKey x) t.waits).map SpWait.refused).getD 0 → a.wide = false ∧ 16 ≤ ((Tab.find? (accKey a) t.waits).map SpWait.refused).getD 0)
    ∧ ((∀ x ∈ c, x.wide = false → ((Tab.find? (accKey x) t.waits).map SpWait.refused).getD 0 < 16) → (∃ x ∈ c, x.wide = true) → a.wide = true ∧ ∀ x ∈ c, x.wide = true → waitedSince t a ≤ waitedSince t x))
  ∧ (∀ (t : STile) (c : List SpAcc) (a : SpAcc), grantChoice t c = some a → a ∈ c ∧ (a.write.isSome = true → ∀ x ∈ c, x.write = none → x.slot ≠ a.slot))
  ∧ (∀ (s : State) (c : SpCmd), let d := c.msg.dst.die; let k := c.msg.dst.site; let t0 := spOf s d k; let n := spSlot c.msg + c.next
    SiteIs d k [.sTile, .dpTile] → siteParted s d k = false → c.msg.cfgm = false → t0.chans = [] → t0.gather = [] → engineAccs s d k = [] → t0.cmds = [c] → spOp c.msg = 1 → c.next + 1 = spCount c.msg → bit (spFlags c.msg) 0 = false →
    (t0.readReady n (spMode c.msg) = true → Tab.find? (slotAddr d k n) s.flips = none → Completes (.bankGrant d k (n % 16) []) s (fun t =>
      Answered s t c.msg 0x81 0 false (c.got ++ [wordAt s.mem (slotAddr d k n)]) ∧ (spOf t d k).cmds = []
        ∧ (∀ j, (spOf t d k).tag j = if j = n ∧ spMode c.msg = 0 then t0.tag j - 1 else t0.tag j) ∧ OnlyIn [.sTiles, .net, .tel] s t))
    ∧ (t0.readReady n (spMode c.msg) = false → Completes (.bankGrant d k (n % 16) []) s (fun t => t.sTiles = s.sTiles ∧ OnlyIn [.tel] s t)))
  ∧ (∀ (s : State) (d k n : Nat) (c : Chan), let t0 := spOf s d k; let slot := stridedSlot t0 c c.pos
    SiteIs d k [.sTile, .dpTile] → siteParted s d k = false → t0.chans = [(n, c)] → n < 8 → t0.gather = [] → t0.cmds = [] → engineAccs s d k = [] → c.live = true → c.blockRows = 0 → c.f 16 4 ≠ 0 → c.pos + 1 = c.runWords → c.rob = [] →
    (c.writes = false → c.fifo = [] → t0.readReady slot (bits (c.f 5 1) 1 0) = true → Tab.find? (slotAddr d k slot) s.flips = none → Completes (.bankGrant d k (slot % 16) []) s (fun t =>
      (spOf t d k).chans = [(n, { c with pos := c.pos + 1, fifo := [wordAt s.mem (slotAddr d k slot)], leafBase := some (chanBase t0 c) })] ∧ OnlyIn [.sTiles, .tel] s t))
    ∧ (∀ w, c.writes = true → c.fifo = [w] → s.memoryOk → t0.writeReady slot (bits (c.f 5 1) 1 0) = true → Completes (.bankGrant d k (slot % 16) []) s (fun t =>
      (spOf t d k).chans = [(n, { c with pos := c.pos + 1, fifo := [], leafBase := some (chanBase t0 c) })] ∧ wordAt t.mem (slotAddr d k slot) = w ∧ outside (slotAddr d k slot) 32 s t
        ∧ (t0.tagged slot = true → some ((spOf t d k).tag slot) = writeTag (bits (c.f 5 1) 1 0) (((t0.rangeAt slot).map SpRange.readers).getD 0) (t0.tag slot))
        ∧ OnlyIn [.sTiles, .mem, .flips, .grain, .tel] s t)))
  ∧ (∀ (s : State) (d k n : Nat), let c := Tab.get chanInitial n (spOf s d k).chans
    SiteIs d k [.sTile, .dpTile] → siteParted s d k = false → c.live = true → 0 < c.runWords → c.pos = c.runWords → c.rob = [] → (c.writes = true ∨ (c.fifo = [] ∧ chanCredited s d k n = true)) → Completes (.channelRunEnd d k n) s (fun t =>
      Tab.get chanInitial n (spOf t d k).chans = { c with pos := 0, leafBase := none, runsLeft := c.runsLeft - 1, done := !(c.f 32 4 == 0) && decide (c.runsLeft ≤ 1) }
        ∧ (bit (c.f 8 1) 0 = false → OnlyIn [.sTiles] s t)
        ∧ (∀ e, bit (c.f 8 1) 0 = true → rankEp s (siteJob s d k) (c.f 6 2) = some e → e.port = portKettle → IdFree s (tileEp d k 0) →
            Requested s t (tileEp d k 0) 0 (siteJob s d k) 4 e (kettleArg 1 (bit (c.f 8 1) 1) 1) []) ∧ OnlyIn [.sTiles, .net] s t))

/-- A tile step rounds the exact sum of its products into its accumulator block once, changes no other block, no weight, no tag and no other context, and moves the sweep on; its panel word is read on the first step of a beat for the block and held for the rest. An uncorrectable word of its block faults the context. A cycle in which the running context cannot issue is counted, the second in a row chooses the context to switch to, and in a switch cycle nothing issues. A tile with no running context runs the ready context that has waited longest, the lower number of two (that it does so at once, in a counted switch cycle, is the model's choice, log entry 94). A running context is switched from only in the cycle after the second cycle in a row without issue, to the context chosen then, and its own wait begins; before that it keeps running. -/
def Obligations.MTileStepsAccumulateByAge : Prop :=
  (
  ∀ (s : State) (die site slot n : Nat) (d : BitVec 512) (w : Sweep), SiteIs die site [.mTile] → siteRuns s die site = true → issueOpen s die slot = true →
    let t0 := mtOf s die site
    let c := t0.ctx n
    let fa := mmaFmtA d
    let blk := stepBlock c d w
    let panel := if w.step = 0 then Tab.get 0 (stepPanel d w) (if dfld d 12 1 = 1 then t0.col else t0.row) else c.panel
    let expWord := if w.step = 0 then Tab.get 0 (stepPanel d w) (if dfld d 12 1 = 1 then t0.colExp else t0.rowExp) else c.exps
    let fresh := isBlockFmt fa && c.side.isEmpty
    let side := if fresh then c.aQueue.take 8 else c.side
    let q := if fresh then c.aQueue.drop 8 else c.aQueue
    t0.running = some n → n < t0.ctxs.length → c.next = some d → c.sweep = some w →
    (t0.switchTo = none → t0.canIssue n = true → t0.flips = [] → Completes (.mStepIssue die site slot []) s (fun t => let t1 := mtOf t die site
      Tab.get 0 blk t1.acc = blockStep (Tab.get 0 blk t0.acc) ((upTo 8).map (fun r => aValues fa (nth 0 r q) (nth 0 r side) w.kb w.step))
          ((upTo 16).map (fun r => bValues fa (mmaFmtB d) (panelRow panel r) expWord.toNat r w.kb w.step))
        ∧ (∀ b, b ≠ blk → Tab.get 0 b t1.acc = Tab.get 0 b t0.acc) ∧ t1.accSt = t0.accSt ∧ t1.row = t0.row ∧ t1.col = t0.col ∧ t1.rowExp = t0.rowExp ∧ t1.colExp = t0.colExp
        ∧ (t1.ctx n).sweep = Sweep.next d w ∧ (t1.ctx n).panel = panel ∧ (t1.ctx n).exps = expWord ∧ (∀ k, k ≠ n → t1.ctx k = t0.ctx k)
        ∧ OnlyIn [.mTiles, .tel, .grain] s t))
    ∧ (t0.switchTo = none → t0.canIssue n = true → (storeDecode t0.flips (8192 + blk * 16) 16).2.1 = false → Completes (.mStepIssue die site slot []) s (fun t =>
      ((mtOf t die site).ctx n).st = .faulted ∧ (mtOf t die site).acc = t0.acc ∧ (mtOf t die site).running = none ∧ SiteRaises s t die site 0x0101 ∧ OnlyIn [.mTiles, .tel, .ev, .lastFault] s t))
    ∧ (t0.switchTo ≠ none → Completes (.mStepIssue die site slot []) s (fun t => mtOf t die site = t0 ∧ OnlyIn [.mTiles] s t))
    ∧ (t0.switchTo = none → t0.canIssue n = false → Completes (.mStepIssue die site slot []) s (fun t =>
      mtOf t die site = { t0 with notReady := t0.notReady + 1, switchTo := if 1 ≤ t0.notReady then t0.choose else none }
      ∧ telGet t die site 0x060 = telRaise (telGet s die site 0x060) 1 ∧ OnlyIn [.mTiles, .tel] s t))
  ) ∧ (
  (∀ (s : State) (die site n : Nat), SiteIs die site [.mTile] → siteRuns s die site = true →
    let t0 := mtOf s die site
    let runs (t : State) : Prop := (mtOf t die site).running = some n ∧ (mtOf t die site).notReady = 0 ∧ (mtOf t die site).switchTo = none
      ∧ telGet t die site 0x068 = telRaise (telGet s die site 0x068) 1 ∧ OnlyIn [.mTiles, .tel] s t
    (t0.choose = some n → n < 4 ∧ t0.canIssue n = true ∧ t0.running ≠ some n ∧ (∀ k, k < 4 → t0.canIssue k = true → t0.running ≠ some k →
        (t0.ctx n).waitedFrom < (t0.ctx k).waitedFrom ∨ ((t0.ctx n).waitedFrom = (t0.ctx k).waitedFrom ∧ n ≤ k)))
    ∧ (t0.running = none → t0.choose = some n → Completes (.contextSwitch die site) s (fun t => runs t ∧ (mtOf t die site).ctxs = t0.ctxs))
    ∧ (∀ r, t0.running = some r → r < t0.ctxs.length → t0.switchTo = some n → Completes (.contextSwitch die site) s (fun t => runs t
        ∧ (mtOf t die site).ctx r = { t0.ctx r with waitedFrom := s.now } ∧ (∀ k, k ≠ r → (mtOf t die site).ctx k = t0.ctx k)))
    ∧ (t0.running ≠ none → t0.switchTo = none → Completes (.contextSwitch die site) s (OnlyIn [] s)))
  ∧ (∀ (s : State) (die site n : Nat), SiteIs die site [.vTile] → siteRuns s die site = true →
    let t0 := vtOf s die site
    let runs (t : State) : Prop := (vtOf t die site).running = some n ∧ (vtOf t die site).notReady = 0 ∧ (vtOf t die site).switchTo = none
      ∧ telGet t die site 0x090 = telRaise (telGet s die site 0x090) 1 ∧ OnlyIn [.vTiles, .tel] s t
    (t0.choose = some n → n < 4 ∧ t0.canIssue n = true ∧ t0.running ≠ some n ∧ (∀ k, k < 4 → t0.canIssue k = true → t0.running ≠ some k →
        (t0.ctx n).waitedFrom < (t0.ctx k).waitedFrom ∨ ((t0.ctx n).waitedFrom = (t0.ctx k).waitedFrom ∧ n ≤ k)))
    ∧ (t0.running = none → t0.choose = some n → Completes (.contextSwitch die site) s (fun t => runs t ∧ (vtOf t die site).ctxs = t0.ctxs))
    ∧ (∀ r, t0.running = some r → r < t0.ctxs.length → t0.switchTo = some n → Completes (.contextSwitch die site) s (fun t => runs t
        ∧ (vtOf t die site).ctx r = { t0.ctx r with waitedFrom := s.now } ∧ (∀ k, k ≠ r → (vtOf t die site).ctx k = t0.ctx k)))
    ∧ (t0.running ≠ none → t0.switchTo = none → Completes (.contextSwitch die site) s (OnlyIn [] s)))
  )

/-- MMA begins its sweep where its TAG agrees with its blocks and else faults its context. WLOAD needs EMPTY segments, makes them LOADING and joins the load engine, else WEIGHT_SEG_BUSY; WRELEASE makes segments EMPTY and drops their pairs. ZERO clears blocks in ACCUM, and ACCOPEN tags its blocks; no other block or segment changes. WRELEASE, ZERO and ACCOPEN signal their kettle as they issue where they ask for it. (ACCOPEN of a block that a DRAIN has claimed taking effect at once is the model's choice, log entry 97.) KWAIT, and DRAIN with WAITK, send their wait and block the context, and go on once it is released; a DRAIN of one block, with the drain engine free, converts it to its output format, clears it unless KEEP, and returns it to ACCUM; one behind another makes its blocks DRAINING and waits for the engine. -/
def Obligations.MTileDescriptorsWaitAndDrain : Prop :=
  (
  ∀ (s : State) (die site n : Nat) (d : BitVec 512),
    let t0 := mtOf s die site
    let c := t0.ctx n
    let quiet : Prop := bit (dfld d 1 1) 0 = false
    let moved (t : State) : Prop := ((mtOf t die site).ctx n).pos = (c.advance d).pos ∧ ((mtOf t die site).ctx n).queue = (c.advance d).queue ∧ ((mtOf t die site).ctx n).st = (c.advance d).st
    (MIssues s die site n 1 d → (tagAgrees t0 c d = true → Completes (.mma die site n) s (fun t =>
        (mtOf t die site).ctx n = { c with sweep := some { mb := 0, kb := 0, nb := 0, step := 0 } } ∧ (mtOf t die site).acc = t0.acc ∧ OnlyIn [.mTiles] s t))
      ∧ (tagAgrees t0 c d = false → Completes (.mma die site n) s (fun t => ((mtOf t die site).ctx n).st = .faulted ∧ (mtOf t die site).running = none ∧ (mtOf t die site).acc = t0.acc
        ∧ SiteRaises s t die site 0x0102 ∧ OnlyIn [.mTiles, .ev, .lastFault] s t)))
    ∧ (MIssues s die site n 2 d → ((∀ g ∈ loadSegs d, t0.segState g.1 g.2 = .empty) → (∀ j, t0.loadQ.head? = some j → (t0.ctx j.ctx).wQueue = []) → (t0.loadQ = [] → c.wQueue = []) → Completes (.wload die site n) s (fun t =>
        (∀ b g, (mtOf t die site).segState b g = if (loadSegs d).contains (b, g) then .loading else t0.segState b g) ∧ (mtOf t die site).loadQ = t0.loadQ ++ [{ ctx := n, desc := d, words := 0 }] ∧ (mtOf t die site).row = t0.row ∧ (mtOf t die site).col = t0.col
        ∧ moved t ∧ OnlyIn [.mTiles] s t))
      ∧ ((∃ g ∈ loadSegs d, t0.segState g.1 g.2 ≠ .empty) → Completes (.wload die site n) s (fun t => ((mtOf t die site).ctx n).st = .faulted ∧ (∀ b g, (mtOf t die site).segState b g = t0.segState b g) ∧ (mtOf t die site).loadQ = t0.loadQ
        ∧ SiteRaises s t die site 0x0103 ∧ OnlyIn [.mTiles, .ev, .lastFault] s t)))
    ∧ (MIssues s die site n 3 d → quiet → Completes (.wrelease die site n) s (fun t =>
        (∀ g, (mtOf t die site).segState (releaseSegs d).1 g = if (releaseSegs d).2.contains g then .empty else t0.segState (releaseSegs d).1 g)
        ∧ (∀ g, (mtOf t die site).segState (!(releaseSegs d).1) g = t0.segState (!(releaseSegs d).1) g)
        ∧ (∀ p, p ∈ (mtOf t die site).pairs ↔ p ∈ t0.pairs ∧ (releaseSegs d).2.contains (if (releaseSegs d).1 then p.col else p.row) = false)
        ∧ moved t ∧ OnlyIn [.mTiles] s t))
    ∧ (MIssues s die site n 4 d → quiet → Completes (.zero die site n) s (fun t =>
        (∀ b, (descBlocks c d 8).contains b = false → Tab.get 0 b (mtOf t die site).acc = Tab.get 0 b t0.acc) ∧ (∀ b, (descBlocks c d 8).contains b = true → t0.accState b = .accum → Tab.get 0 b (mtOf t die site).acc = 0)
        ∧ (mtOf t die site).accSt = t0.accSt ∧ moved t ∧ OnlyIn [.mTiles, .freeCtr] s t))
    ∧ (MIssues s die site n 6 d → quiet → Completes (.accopen die site n) s (fun t =>
        (∀ b, (mtOf t die site).accState b = if (descBlocks c d 8).contains b then .tagged (dfld d 10 2) (dfld d 12 2) else t0.accState b)
        ∧ (∀ b, Tab.get 0 b (mtOf t die site).acc = if (descBlocks c d 8).contains b ∧ bit (dfld d 14 1) 0 = true then 0 else Tab.get 0 b t0.acc) ∧ moved t ∧ OnlyIn [.mTiles] s t))
    ∧ (bit (dfld d 1 1) 0 = true →
      let signals (t : State) : Prop := moved t ∧ SiteSignals s t die site n (dfld d 2 2) (bit (dfld d 1 1) 1)
      (MIssues s die site n 3 d → Completes (.wrelease die site n) s signals) ∧ (MIssues s die site n 4 d → Completes (.zero die site n) s signals) ∧ (MIssues s die site n 6 d → Completes (.accopen die site n) s signals))
  ) ∧ (
  ∀ (s : State) (die site n : Nat) (d : BitVec 512),
    let t0 := mtOf s die site
    let c := t0.ctx n
    let waits (t : State) (rank kop demand : Nat) : Prop := ((mtOf t die site).ctx n).st = .blocked ∧ ((mtOf t die site).ctx n).wait = .sent ∧ (mtOf t die site).running = none
      ∧ (∀ e, rankEp s (siteJob s die site) rank = some e → e.port = portKettle → IdFree s (tileEp die site n) →
          Requested s t (tileEp die site n) n (siteJob s die site) 4 e (kettleArg kop false demand) []) ∧ OnlyIn [.mTiles, .net] s t
    (MIssues s die site n 7 d →
      (c.wait = .none → Completes (.kwait die site n) s (fun t => waits t (dfld d 8 2) (if dfld d 10 1 = 0 then 2 else 3) (dfld d 12 4)))
      ∧ (c.wait = .released → bit (dfld d 1 1) 0 = false → Completes (.kwait die site n) s (fun t => ((mtOf t die site).ctx n).wait = .none
        ∧ ((mtOf t die site).ctx n).pos = (c.advance d).pos ∧ ((mtOf t die site).ctx n).queue = (c.advance d).queue ∧ OnlyIn [.mTiles] s t)))
    ∧ (MIssues s die site n 5 d → bit (dfld d 14 1) 1 = true → c.wait = .none → Completes (.drain die site n) s (fun t => waits t (dfld d 16 2) 2 (dfld d 20 4)))
    ∧ (MIssues s die site n 5 d → (bit (dfld d 14 1) 1 = false ∨ c.wait = .released) → dfld d 13 1 = 1 → t0.drainQ = [] → t0.dOut = [] → t0.flips = [] →
      let blk := dfld c.desc 2 1 + dfld d 12 1
      let r := drainBlock d (Tab.get 0 blk t0.acc) (Summary.empty (numCtlOf (dfld d 8 4)).ofmt 0)
      Completes (.drain die site n) s (fun t => (mtOf t die site).dOut = r.1 ∧ (mtOf t die site).accState blk = .accum
        ∧ Tab.get 0 blk (mtOf t die site).acc = (if bit (dfld d 14 1) 0 then Tab.get 0 blk t0.acc else 0)
        ∧ (∀ b, b ≠ blk → Tab.get 0 b (mtOf t die site).acc = Tab.get 0 b t0.acc ∧ (mtOf t die site).accState b = t0.accState b)
        ∧ (mtOf t die site).drainQ = [{ ctx := n, desc := d, blocks := 1, credited := 0, sum := r.2 }] ∧ OnlyIn [.mTiles] s t))
    ∧ (∀ j js, MIssues s die site n 5 d → (bit (dfld d 14 1) 1 = false ∨ c.wait = .released) → t0.drainQ = j :: js → dfld j.desc 13 1 ≤ j.blocks →
      Completes (.drain die site n) s (fun t => (∀ b, (mtOf t die site).accState b = if (descBlocks c d 12).contains b then .draining else t0.accState b) ∧ (mtOf t die site).acc = t0.acc
        ∧ (mtOf t die site).drainQ = t0.drainQ ++ [{ ctx := n, desc := d, blocks := 0, credited := 0, sum := Summary.empty (numCtlOf (dfld d 8 4)).ofmt 0 }] ∧ (mtOf t die site).dOut = t0.dOut ∧ OnlyIn [.mTiles] s t))
  )

/-- A finished MMA signals the kettle of its tag, if it has one, and a finished MMA, WLOAD or DRAIN its own; a WLOAD's segments become READY and its pair is recorded, and a DRAIN sends its summary to its collector. A contribution is added into the block of its tag, and one that matches none is discarded and reported. The copy audit compares each recorded pair of READY segments at its interval: a difference sets the column segment REGEN and raises DIVERGENT_COPY, a word that cannot be read faults the job, and the rebuild makes the column segment the transpose of the row segment and READY. -/
def Obligations.MTileWorkAndAuditComplete : Prop :=
  (
  (∀ (s : State) (die site n : Nat) (d : BitVec 512) (rest : List (BitVec 512 × Option Nat)), SiteIs die site [.mTile] →
    let c := (mtOf s die site).ctx n
    c.finished = (d, none) :: rest → n < (mtOf s die site).ctxs.length → Completes (.mmaComplete die site n) s (fun t => (mtOf t die site).ctx n = { c with finished := rest }
      ∧ (bit (dfld d 1 1) 0 = true → SiteSignals s t die site n (dfld d 2 2) (bit (dfld d 1 1) 1)) ∧ (bit (dfld d 1 1) 0 = false → t.net = s.net) ∧ OnlyIn [.mTiles, .net] s t))
  ∧ (∀ (s : State) (die site n k : Nat) (d : BitVec 512) (rest : List (BitVec 512 × Option Nat)), SiteIs die site [.mTile] →
    let c := (mtOf s die site).ctx n
    c.finished = (d, some k) :: rest → n < (mtOf s die site).ctxs.length → Completes (.mmaComplete die site n) s (fun t => (mtOf t die site).ctx n = { c with finished := rest }
      ∧ SiteSignals s t die site n k false ∧ (rankEp s (siteJob s die site) k = none → bit (dfld d 1 1) 0 = true → SiteSignals s t die site n (dfld d 2 2) (bit (dfld d 1 1) 1)) ∧ OnlyIn [.mTiles, .net] s t))
  ∧ (∀ (s : State) (die site : Nat) (j : WJob), SiteIs die site [.mTile] → (mtOf s die site).loadQ = [j] → loadPanels j.desc * panelWords j.desc ≤ j.words →
    (∀ g ∈ loadSegs j.desc, (mtOf s die site).segState g.1 g.2 = .loading) → Completes (.wloadComplete die site) s (fun t =>
      (∀ g ∈ loadSegs j.desc, (mtOf t die site).segState g.1 g.2 = .ready) ∧ (mtOf t die site).loadQ = []
      ∧ (bit (dfld j.desc 10 1) 0 = true → ∃ p, (mtOf t die site).pairs = (mtOf s die site).pairs ++ [p] ∧ p.row = dfld j.desc 11 1 / 8 ∧ p.col = dfld j.desc 14 1 / 8)
      ∧ (bit (dfld j.desc 1 1) 0 = true → SiteSignals s t die site j.ctx (dfld j.desc 2 2) (bit (dfld j.desc 1 1) 1)) ∧ OnlyIn [.mTiles, .net] s t))
  ∧ (∀ (s : State) (die site : Nat) (j : DJob), SiteIs die site [.mTile] → (mtOf s die site).drainQ = [j] → dfld j.desc 13 1 * drainWords j.desc ≤ j.credited →
    Completes (.drainComplete die site) s (fun t => (mtOf t die site).drainQ = [] ∧ (mtOf t die site).acc = (mtOf s die site).acc
      ∧ (∀ e, rankEp s (siteJob s die site) (dfld j.desc 24 2) = some e → IdFree s (tileEp die site j.ctx) →
          Requested s t (tileEp die site j.ctx) j.ctx (siteJob s die site) 6 { e with port := portCollector } (BitVec.ofNat 64 (dfld j.desc 26 2)) (summaryWords j.sum))
      ∧ (rankEp s (siteJob s die site) (dfld j.desc 24 2) = none → bit (dfld j.desc 1 1) 0 = true → SiteSignals s t die site j.ctx (dfld j.desc 2 2) (bit (dfld j.desc 1 1) 1)) ∧ OnlyIn [.mTiles, .net] s t))
  ∧ (∀ (s : State) (die site n : Nat), SiteIs die site [.mTile] → siteRuns s die site = true →
    let t0 := mtOf s die site
    let c := t0.ctx n
    let h := (nth 0 0 (c.accQueue.take 17)).toNat
    let blk := dfld c.desc 2 1 + fld h 2 1
    (upTo 4).find? (fun n => decide (17 ≤ (t0.ctx n).accQueue.length)) = some n → n < t0.ctxs.length → t0.flips = [] →
    (∀ k, fld h 2 1 < dfld c.desc 3 1 → t0.accState blk = .tagged (fld h 0 2) k → Completes (.accContribution die site) s (fun t =>
      Tab.get 0 blk (mtOf t die site).acc = BitVec.ofNat 4096 (packElems 32 (addFp32Lists (elems 32 128 (Tab.get 0 blk t0.acc).toNat) (((c.accQueue.take 17).drop 1).flatMap (fun w => elems 32 8 w.toNat))))
        ∧ (∀ b, b ≠ blk → Tab.get 0 b (mtOf t die site).acc = Tab.get 0 b t0.acc) ∧ ((mtOf t die site).ctx n).accQueue = c.accQueue.drop 17 ∧ (mtOf t die site).accSt = t0.accSt
        ∧ (bit (fld h 3 1) 0 = true → SiteSignals s t die site n k false) ∧ OnlyIn [.mTiles, .grain, .net] s t))
    ∧ ((dfld c.desc 3 1 ≤ fld h 2 1 ∨ ∀ k, t0.accState blk ≠ .tagged (fld h 0 2) k) → Completes (.accContribution die site) s (fun t => (mtOf t die site).acc = t0.acc
      ∧ ((mtOf t die site).ctx n).accQueue = c.accQueue.drop 17 ∧ SiteRaises s t die site 0x0102 ∧ OnlyIn [.mTiles, .grain, .ev, .lastFault] s t)))
  ) ∧ (
  ∀ (s : State) (die site : Nat) (p : AuditPair), SiteIs die site [.mTile] →
    let t0 := mtOf s die site
    (siteRuns s die site = true → t0.pairs = [p] → p.audited = true → pairReadable t0 p = false → t0.auditAt ≤ s.now → t0.segState false p.row = .ready → t0.segState true p.col = .ready →
      Completes (.auditPass die site) s (fun t => (∀ b g, (mtOf t die site).segState b g = t0.segState b g) ∧ SiteRaises s t die site 0x0101 ∧ OnlyIn [.mTiles, .tel, .ev, .lastFault] s t))
    ∧ (siteRuns s die site = true → t0.pairs = [p] → t0.flips = [] → p.audited = true → t0.segState false p.row = .ready → t0.segState true p.col = .ready →
      (t0.auditAt ≤ s.now → pairDiff t0 p = none → Completes (.auditPass die site) s (fun t => mtOf t die site = { t0 with auditAt := s.now + ceilDiv (t0.site.toNat % 256 * 2 ^ 20) 3 } ∧ OnlyIn [.mTiles] s t))
      ∧ (∀ k, t0.auditAt ≤ s.now → pairDiff t0 p = some k → Completes (.auditPass die site) s (fun t => (mtOf t die site).segState true p.col = .regen ∧ (mtOf t die site).regen = t0.regen ++ [(p.col, p.row)]
        ∧ (mtOf t die site).row = t0.row ∧ (mtOf t die site).col = t0.col ∧ (HearsEvents s die → Raises s t die 0x0104 0 (if siteJob s die site = 0 then 0xFF else siteJob s die site))
        ∧ OnlyIn [.mTiles, .freeCtr, .ev] s t))
      ∧ (s.now < t0.auditAt → Completes (.auditPass die site) s (OnlyIn [] s)))
    ∧ (∀ c r, t0.regen = [(c, r)] → t0.flips = [] → Completes (.regenComplete die site c) s (fun t =>
      (∀ k, k < 8 → Tab.get 0 (8 * c + k) (mtOf t die site).col = panelTranspose (Tab.get 0 (8 * r + k) t0.row))
        ∧ (∀ j, (j < 8 * c ∨ 8 * c + 8 ≤ j) → Tab.get 0 j (mtOf t die site).col = Tab.get 0 j t0.col) ∧ (mtOf t die site).row = t0.row
        ∧ (mtOf t die site).segState true c = .ready ∧ (mtOf t die site).regen = [] ∧ OnlyIn [.mTiles] s t))
  )

/-- A VOP begins its chain run and counts each governed output in its pair; TFILL writes its constant into its rectangle of T, TLOAD its rows from its port, completing with the last of them, and TOUT puts rows on its output port; TFILL, TLOAD and KWAIT signal their kettle where they ask for it; the KWAIT of a V-tile sends its wait and blocks, and goes on once released. No other element of T changes. -/
def Obligations.VTileDescriptorsTakeEffect : Prop :=
  ∀ (s : State) (die site n : Nat) (d : BitVec 512),
    let t0 := vtOf s die site
    let c := t0.ctx n
    let quiet : Prop := bit (dfld d 1 1) 0 = false
    let c1 (t : State) := (vtOf t die site).ctx n
    let moved (t : State) : Prop := (c1 t).pos = (c.advance d).pos ∧ (c1 t).queue = (c.advance d).queue ∧ (c1 t).st = (c.advance d).st
    (VIssues s die site n 1 d →
      (governed d 0 = false → governed d 1 = false → Completes (.vop die site n) s (fun t => c1 t = { c with tasks := c.tasks ++ [newTask d c.serial [0, 0]], serial := c.serial + 1 }
        ∧ (vtOf t die site).pairs = t0.pairs ∧ OnlyIn [.vTiles] s t))
      ∧ (∀ k p, k < 2 → governed d k = true → governed d (1 - k) = false → t0.pairs = [p] → t0.pair? d k = some p → Completes (.vop die site n) s (fun t =>
        c1 t = { c with tasks := c.tasks ++ [newTask d c.serial (if k = 0 then [p.vops, 0] else [0, p.vops])], serial := c.serial + 1 } ∧ (vtOf t die site).pairs = [{ p with vops := p.vops + 1 }] ∧ OnlyIn [.vTiles] s t))
      ∧ (∀ k, k < 2 → governed d k = true → governed d (1 - k) = false → t0.pair? d k = none → Completes (.vop die site n) s (fun t =>
        c1 t = { c with tasks := c.tasks ++ [newTask d c.serial [0, 0]], serial := c.serial + 1 }
          ∧ (vtOf t die site).pairs = t0.pairs ++ [{ rank := dfld d (32 + 4 * k) 2, tag := dfld d (34 + 4 * k) 2, vops := 1, got := 0, b := 0 }] ∧ OnlyIn [.vTiles] s t))
      ∧ (∀ p q, governed d 0 = true → governed d 1 = true → t0.pairs = [p, q] → p ≠ q → t0.pair? d 0 = some p → t0.pair? d 1 = some q → Completes (.vop die site n) s (fun t =>
        c1 t = { c with tasks := c.tasks ++ [newTask d c.serial [p.vops, q.vops]], serial := c.serial + 1 } ∧ (vtOf t die site).pairs = [{ p with vops := p.vops + 1 }, { q with vops := q.vops + 1 }] ∧ OnlyIn [.vTiles] s t)))
    ∧ (VIssues s die site n 3 d → quiet → (∀ k ∈ touched d, k < 256) → Completes (.tfill die site n) s (fun t =>
        (∀ k, k < 256 → tElem (c1 t).treg k = if (touched d).contains k then dfld d 12 4 else tElem c.treg k) ∧ moved t ∧ OnlyIn [.vTiles] s t))
    ∧ (VIssues s die site n 4 d → quiet → dfld d 9 1 + dfld d 10 1 ≤ 8 → c.tasks = [] → dfld d 8 1 < c.ports.length →
      let q := (nth vPortInitial (dfld d 8 1) c.ports).queue
      let rows := min (dfld d 10 1) (q.length / 4)
      Completes (.tload die site n) s (fun t =>
        (∀ k, k < 256 → tElem (c1 t).treg k = if 32 * dfld d 9 1 ≤ k ∧ k < 32 * (dfld d 9 1 + rows) then packElems 256 (q.map BitVec.toNat) / 2 ^ (32 * (k - 32 * dfld d 9 1)) % 2 ^ 32 else tElem c.treg k)
          ∧ (nth vPortInitial (dfld d 8 1) (c1 t).ports).queue = q.drop (4 * rows) ∧ (rows = dfld d 10 1 → moved t ∧ (c1 t).tasks = [])
          ∧ (rows < dfld d 10 1 → (c1 t).pos = c.pos ∧ (c1 t).queue = c.queue ∧ (c1 t).st = c.st ∧ (c1 t).tasks = [{ newTask d c.serial [0, 0] with row := rows }]) ∧ OnlyIn [.vTiles, .grain] s t))
    ∧ (bit (dfld d 1 1) 0 = true →
      let signals (t : State) : Prop := moved t ∧ SiteSignals s t die site n (dfld d 2 2) (bit (dfld d 1 1) 1)
      (VIssues s die site n 3 d → Completes (.tfill die site n) s signals)
      ∧ (VIssues s die site n 4 d → c.tasks = [] → dfld d 9 1 + dfld d 10 1 ≤ 8 → 4 * dfld d 10 1 ≤ (nth vPortInitial (dfld d 8 1) c.ports).queue.length → dfld d 8 1 < c.ports.length → Completes (.tload die site n) s signals)
      ∧ (VIssues s die site n 2 d → c.wait = .released → Completes (.vtKwait die site n) s signals))
    ∧ (VIssues s die site n 5 d → Completes (.tout die site n) s (fun t =>
        (∃ ws, (vtOf t die site).outBuf = t0.outBuf ++ ws ∧ ws.length = 4 * dfld d 10 1
          ∧ ∀ i w, ws[i]? = some w → w.port = dfld d 8 1 ∧ w.ctx = n ∧ w.serial = c.serial ∧ w.word = BitVec.ofNat 256 (c.treg.toNat / 2 ^ (1024 * dfld d 9 1 + 256 * i) % 2 ^ 256))
        ∧ (c1 t).treg = c.treg ∧ (c1 t).serial = c.serial + 1 ∧ moved t ∧ OnlyIn [.vTiles] s t))
    ∧ (VIssues s die site n 2 d →
      (c.wait = .none → Completes (.vtKwait die site n) s (fun t => (c1 t).st = .blocked ∧ (c1 t).wait = .sent ∧ (vtOf t die site).running = none
        ∧ (∀ e, rankEp s (siteJob s die site) (dfld d 8 2) = some e → e.port = portKettle → IdFree s (tileEp die site n) →
            Requested s t (tileEp die site n) n (siteJob s die site) 4 e (kettleArg (if dfld d 10 1 = 0 then 2 else 3) false (dfld d 12 4)) []) ∧ OnlyIn [.vTiles, .net] s t))
      ∧ (c.wait = .released → quiet → Completes (.vtKwait die site n) s (fun t => (c1 t).wait = .none ∧ moved t ∧ OnlyIn [.vTiles] s t)))

/-- A vector issues with its operands and moves its run on; through a chain of one stage its lanes become words of the output that the stage drives, and the stage's flags and flushed results are added to its run. A cycle in which the running context cannot issue is counted, the second in a row chooses the context to switch to, and in a switch cycle nothing issues. A row reduction is written to its element of T and is no longer pending, and what its lane tree and POST raise is added to its VOP; a VOP of one output, or of none, whose words are credited and reductions written ends, sending its summary and its signal. A head vector without its FCALL results holds the chain. -/
def Obligations.VTileVectorsAndWorkComplete : Prop :=
  (
  ∀ (s : State) (die site slot n : Nat), SiteIs die site [.vTile] → siteRuns s die site = true → issueOpen s die slot = true →
    let t0 := vtOf s die site
    let c := t0.ctx n
    t0.running = some n → n < t0.ctxs.length →
    (∀ (p : Nat) (k k' : VTask) (ins : List (List Nat)) (ports : List VPort) (took : List Nat) (e : Word), t0.switchTo = none → c.active = some k → SoleTask c k → t0.canIssue n = true → p < 2 →
      let d := k.desc
      (∀ i, i < 3 → vopInMode d i ≠ 4) → takeInputs d k ((Config.freeValue s.freeCtr).toNat % 255) c.ports = some (ins, ports, k', took) →
      vopStages t0 d = [e] → isFcall e = false → bits (sfld e 8 1) 1 0 = 0 → bit (sfld e 1 1) p = true → vopOut d p = true → bit (sfld e 1 1) (1 - p) = false → governed d 0 = false → governed d 1 = false → k.out.length = 2 → t0.chain = [] →
      let v : VVec := { ctx := n, serial := k.serial, row := k.row, vec := k.vec, lanes := vecLanes d k.vec, ins := ins, t := c.treg, results := [], sent := false }
      let r := stageLanes d (sfld e 0 1) (operandOf d e 0 (sfld e 2 2) v) (operandOf d e 0 (sfld e 4 2) v) (operandOf d e 0 (sfld e 6 2) v)
      let o := nth { part := [], pos := 0, sum := Summary.empty 0 0, words := 0, credited := 0, b := none } p k.out
      Completes (.vectorIssue die site slot []) s (fun t =>
        (vtOf t die site).outBuf = t0.outBuf ++ ((presentLanes d p o r.1 (decide (k.vec + 1 = vopVecs d))).1.map (fun w => { port := p, ctx := n, serial := k.serial, word := w }))
          ∧ (vtOf t die site).chain = [] ∧ ((vtOf t die site).ctx n).treg = c.treg ∧ ((vtOf t die site).ctx n).ports = ports
          ∧ (∃ x ∈ ((vtOf t die site).ctx n).tasks, x.serial = k.serial ∧ x.row = (if k.vec + 1 = vopVecs d then k.row + 1 else k.row) ∧ x.vec = (if k.vec + 1 = vopVecs d then 0 else k.vec + 1)
              ∧ x.flags = k'.flags ||| r.2.1 ∧ x.flushed = k'.flushed + r.2.2 ∧ x.inChain = k'.inChain)
          ∧ telGet t die site 0x080 = telRaise (telGet s die site 0x080) 1 ∧ OnlyIn [.vTiles, .freeCtr, .tel, .grain] s t))
    ∧ (t0.switchTo ≠ none → c.active = none → Completes (.vectorIssue die site slot []) s (OnlyIn [] s))
    ∧ (t0.switchTo = none → (∀ k, c.active = some k → ∀ i, i < 3 → vopInMode k.desc i ≠ 4) → t0.canIssue n = false → Completes (.vectorIssue die site slot []) s (fun t =>
        vtOf t die site = { t0 with notReady := t0.notReady + 1, switchTo := if 1 ≤ t0.notReady then t0.choose else none } ∧ telGet t die site 0x088 = telRaise (telGet s die site 0x088) 1 ∧ OnlyIn [.vTiles, .tel] s t))
  ) ∧ (
  (∀ (s : State) (die site n : Nat) (r : RowRed) (rs : List RowRed), SiteIs die site [.vTile] →
    let c := (vtOf s die site).ctx n
    let rm := (rndOfCode r.rnd).getD .rne
    let v := laneTree (bits (sfld r.stage 8 1) 3 2) rm r.flush r.lanes
    let x := redPost r.stage rm r.flush v.1
    c.rows = r :: rs → n < (vtOf s die site).ctxs.length → r.elem < 256 → Completes (.rowReductionWrite die site n) s (fun t =>
      let c1 := (vtOf t die site).ctx n
      tElem c1.treg r.elem = x.1 % 2 ^ 32 ∧ c1.tasks = (c.noteRed r.serial (v.2.1 ||| x.2.1, v.2.2 + x.2.2)).tasks
        ∧ (∀ k, k < 256 → k ≠ r.elem → tElem c1.treg k = tElem c.treg k) ∧ c1.pend = c.pend.erase r.elem ∧ c1.rows = rs ∧ OnlyIn [.vTiles] s t))
  ∧ (∀ (s : State) (die site n : Nat) (k : VTask), SiteIs die site [.vTile] →
    let c := (vtOf s die site).ctx n
    let ended (t : State) : Prop := ((vtOf t die site).ctx n).tasks = c.tasks.filter (fun x => x.serial != k.serial) ∧ ((vtOf t die site).ctx n).treg = c.treg ∧ OnlyIn [.vTiles, .net] s t
    c.tasks.find? (taskDone c) = some k → n < (vtOf s die site).ctxs.length →
    (dfld k.desc 0 1 = 5 → Completes (.vopComplete die site n) s (fun t => ended t ∧ (bit (dfld k.desc 1 1) 0 = true → SiteSignals s t die site n (dfld k.desc 2 2) (bit (dfld k.desc 1 1) 1))
      ∧ (bit (dfld k.desc 1 1) 0 = false → t.net = s.net)))
    ∧ (∀ (e : Ep) (p : Nat), dfld k.desc 0 1 = 1 → p < 2 → dfld k.desc 29 1 = 2 ^ p → dfld k.desc (32 + 4 * p) 2 ≠ 0xFFFF →
      rankEp s (siteJob s die site) (dfld k.desc (32 + 4 * p) 2) = some e → IdFree s (tileEp die site n) → Completes (.vopComplete die site n) s (fun t => ended t
        ∧ Requested s t (tileEp die site n) n (siteJob s die site) 6 { e with port := portCollector } (BitVec.ofNat 64 (dfld k.desc (34 + 4 * p) 2)) (summaryWords (k.summary p))))
    ∧ (∀ (e : Ep), dfld k.desc 0 1 = 1 → dfld k.desc 29 1 = 0 → dfld k.desc 32 2 ≠ 0xFFFF →
      rankEp s (siteJob s die site) (dfld k.desc 32 2) = some e → IdFree s (tileEp die site n) → Completes (.vopComplete die site n) s (fun t => ended t
        ∧ Requested s t (tileEp die site n) n (siteJob s die site) 6 { e with port := portCollector } (BitVec.ofNat 64 (dfld k.desc 34 2))
            (summaryWords { Summary.empty (vopNc k.desc 0).ofmt 0 with nflags := k.flags ||| (if k.flushed = 0 then 0 else 64) })))
    ∧ (dfld k.desc 0 1 = 1 → dfld k.desc 32 2 = 0xFFFF → dfld k.desc 36 2 = 0xFFFF → bit (dfld k.desc 1 1) 0 = true → Completes (.vopComplete die site n) s (fun t => ended t
        ∧ SiteSignals s t die site n (dfld k.desc 2 2) (bit (dfld k.desc 1 1) 1))))
  ∧ (∀ (s : State) (die site : Nat) (v : VVec) (k : VTask) (e : Word), SiteIs die site [.vTile] →
    let t0 := vtOf s die site
    let need := fcallNeed (stageLinks e) v.lanes
    t0.chain = [v] → v.sent = true → (t0.ctx v.ctx).task? v.serial = some k → (vopStages t0 k.desc)[v.results.length]? = some e → v.ctx < t0.ctxs.length →
    ((t0.fRet0.length < need.1 ∨ t0.fRet1.length < need.2) → Completes (.fcallReturn die site) s (fun t => (vtOf t die site).chain = [v] ∧ (vtOf t die site).fRet0 = t0.fRet0 ∧ (vtOf t die site).fRet1 = t0.fRet1
      ∧ telGet t die site 0x098 = telRaise (telGet s die site 0x098) 1 ∧ OnlyIn [.vTiles, .tel, .grain] s t))
    ∧ (need.1 ≤ t0.fRet0.length → need.2 ≤ t0.fRet1.length → (vopStages t0 k.desc).length = v.results.length + 1 → bits (sfld e 8 1) 1 0 = 0 → bit (sfld e 1 1) 0 = false → bit (sfld e 1 1) 1 = false →
      Completes (.fcallReturn die site) s (fun t => (vtOf t die site).chain = [] ∧ (vtOf t die site).fRet0 = t0.fRet0.drop need.1 ∧ (vtOf t die site).fRet1 = t0.fRet1.drop need.2
        ∧ (vtOf t die site).outBuf = t0.outBuf ∧ ((vtOf t die site).ctx v.ctx).treg = (t0.ctx v.ctx).treg ∧ OnlyIn [.vTiles, .tel, .grain] s t)))
  )

/-- A link's beat answers sixteen operands with the function of each, in order; an uncorrectable word stops the link and is reported. A MAP run that is credited ends, signals its kettle and begins again. Special inputs give their stated results. -/
def Obligations.FTilesComputeTheirFunctions : Prop :=
  (∀ (s : State) (die site link slot : Nat) (flips : List Nat), SiteIs die site [.fTile] → siteRuns s die site = true → issueOpen s die slot = true → link < 2 →
    let t0 := ftOf s die site
    let l := nth fLinkInitial link t0.links
    let other := nth fLinkInitial (1 - link) t0.links
    l.ready = true → (other.ready = false ∨ t0.last ≠ link) → link < t0.links.length →
    (l.f 0 1 = 1 → flips = [] → Completes (.fcallBeat die site link slot flips) s (fun t =>
      let y (i : Nat) : Nat := (funcOf .fp32 l.nc.dir l.nc.subn (l.f 1 1) ((nth 0 (i / 8) l.inQ).toNat / 2 ^ (32 * (i % 8)) % 2 ^ 32)).1
      (nth fLinkInitial link (ftOf t die site).links).outQ = l.outQ ++ [BitVec.ofNat 256 (packElems 32 ((upTo 8).map y)), BitVec.ofNat 256 (packElems 32 ((upTo 8).map (fun i => y (8 + i))))]
        ∧ (nth fLinkInitial link (ftOf t die site).links).inQ = l.inQ.drop 2 ∧ (ftOf t die site).last = link
        ∧ nth fLinkInitial (1 - link) (ftOf t die site).links = other ∧ telGet t die site 0x018 = telRaise (telGet s die site 0x018) 16 ∧ OnlyIn [.fTiles, .tel, .grain] s t))
    ∧ (l.f 0 1 = 2 → flips = [] → Completes (.fcallBeat die site link slot flips) s (fun t =>
      nth fLinkInitial link (ftOf t die site).links = l.mapBeat.1 ∧ nth fLinkInitial (1 - link) (ftOf t die site).links = other ∧ OnlyIn [.fTiles, .tel, .grain] s t))
    ∧ ((dataDecodeList flips).1 = false → Completes (.fcallBeat die site link slot flips) s (fun t =>
      nth fLinkInitial link (ftOf t die site).links = { l with faulted := true } ∧ nth fLinkInitial (1 - link) (ftOf t die site).links = other ∧ SiteRaises s t die site 0x0118 ∧ OnlyIn [.fTiles, .tel, .ev, .lastFault] s t)))
  ∧ (∀ (s : State) (die site link : Nat), SiteIs die site [.fTile] → link < 2 →
    let t0 := ftOf s die site
    let l := nth fLinkInitial link t0.links
    link < t0.links.length → l.f 0 1 = 2 → l.pos = l.f 16 4 → l.outQ = [] → l.words = l.credited → l.done = false → l.faulted = false → Completes (.mapRunComplete die site link) s (fun t =>
      nth fLinkInitial link (ftOf t die site).links = { l with pos := 0, side := 0, words := 0, credited := 0, runsLeft := l.runsLeft - 1, done := l.f 20 4 != 0 && decide (l.runsLeft ≤ 1) }
        ∧ (bit (l.f 14 1) 0 = true → SiteSignals s t die site link (l.f 12 2) (bit (l.f 14 1) 1)) ∧ (bit (l.f 14 1) 0 = false → t.net = s.net) ∧ OnlyIn [.fTiles, .net] s t))
  ∧ (∀ (f : NumFmt) (rm : Rnd) (fl : Bool) (b : Nat),
    (∀ code q, unpack f b = .nan q → funcOf f rm fl code b = (canonNan f, if q then 16 else 0))
    ∧ (∀ code n, unpack f b = .inf n → (code = 1 ∨ code = 2) → funcOf f rm fl code b = (if n then 0 else infBits f false, 0))
    ∧ (∀ code n e, unpack f b = .fin n 0 e → (code = 3 ∨ code = 4) → funcOf f rm fl code b = (infBits f true, 8))
    ∧ (∀ code m e, unpack f b = .fin true m e → m ≠ 0 → (code = 3 ∨ code = 4 ∨ code = 7) → funcOf f rm fl code b = (canonNan f, 16))
    ∧ (∀ code n e, unpack f b = .fin n 0 e → (code = 5 ∨ code = 7) → funcOf f rm fl code b = (infBits f n, 8))
    ∧ (∀ code n, unpack f b = .inf n → (code = 8 ∨ code = 9) → funcOf f rm fl code b = (canonNan f, 16)))

/-- The word code corrects every error confined to one of its 36 symbols, and finds no error where there is none. The histogram bin of a value: 0 for a zero, 63 for an infinity or a NaN, and by e = floor(log2|v|) of the exact value 1 up to −40, e + 41 from −39 to 20, and 62 from 21 on. -/
def Obligations.WordCodeAndHistogramBins : Prop :=
  (
  decodePattern 0 = .clean ∧ ∀ p x, p < 36 → 0 < x → x < 256 → decodePattern (x * 2 ^ (8 * p)) = .corrected 0
  ) ∧ (
  (∀ n e, histBin (.fin n 0 e) = 0) ∧ (∀ n, histBin (.inf n) = 63) ∧ (∀ n, histBin (.nan n) = 63)
  ∧ ∀ (n : Bool) (m : Nat) (x e : Int), m ≠ 0 → (2 : Rat) ^ e ≤ (m : Rat) * 2 ^ x → (m : Rat) * 2 ^ x < 2 ^ (e + 1) →
    (e ≤ -40 → histBin (.fin n m x) = 1) ∧ (-39 ≤ e → e ≤ 20 → (histBin (.fin n m x) : Int) = e + 41) ∧ (21 ≤ e → histBin (.fin n m x) = 62)
  )

/-- In its slot a switch drives the word that arrived on the entry's lane in the slot before onto its destination: the next site's lane, or a tile's port, whose place it takes; a word of a tile's own source leaves against one of its credits; a codeword that cannot be corrected is not delivered and faults the circuit's job. A source that lacks only a credit is counted. A credit goes back one link at a time along its circuit's slot entries: one of a place freed at a tile's sink or an element's input enters the sideband of the link before, and one that has come back to the site of its source, a tile's or an element's, is counted there; with nothing due or sent nothing happens, and two credit bits that disagree give no credit and fault the job. A frame received in order moves its words into the edge-in buffer; a bad frame is counted, and when eight replays have failed the lane group is lost. -/
def Obligations.SlotWordsCreditsAndFramesPass : Prop :=
  (
  ∀ (s : State) (die site table slot : Nat), isCompute die = true → site < 480 → slot < 16 → s.net.holes.contains (siteKey die site) = false → siteParted s die site = false →
    let g := grOf s die site
    let e := g.entry table slot
    let key := (entSrc e * 8 + entLane e) * 16 + (slot + 15) % 16
    entValid e = true →
    (∀ (w : GrainWord) (n flip : Nat), entSrc e < 4 → isEdgeSide site (entSrc e) = false → Tab.find? key g.links = some w →
      table < 16 → isEdgeSide site (table / 4) = false → siteNeighbour site (table / 4) = some n →
      let key2 := (opposite (table / 4) * 8 + table % 4) * 16 + slot
      (grOf s die n).linkFree (opposite (table / 4) * 8 + table % 4) slot = true → s.net.holes.contains (siteKey die n) = false → borderOpen s die site die n = true →
      Completes (.grainSlotForward die site table slot flip) s (fun t => Tab.find? key (grOf t die site).links = none
        ∧ Tab.find? key2 (grOf t die n).links = some { w with flip := w.flip ^^^ flip % 2 ^ 288 } ∧ telGet t die site 0x40008 = telRaise (telGet s die site 0x40008) 1 ∧ OnlyIn [.grain, .tel] s t))
    ∧ (∀ (w : GrainWord) (n : Nat) (p : GrainEp), entSrc e < 4 → isEdgeSide site (entSrc e) = false → Tab.find? key g.links = some w → 16 ≤ table → table < 24 →
      g.sinkOf w.job w.circuit = some (n, p) → 0 < p.credits → siteKind site = some .mTile → p.tport = 0 → p.ctx < (mtOf s die site).ctxs.length →
      (w.flip = 0 → Completes (.grainSlotForward die site table slot 0) s (fun t => Tab.find? key (grOf t die site).links = none
        ∧ ((mtOf t die site).ctx p.ctx).aQueue = ((mtOf s die site).ctx p.ctx).aQueue ++ [w.word]
        ∧ (grOf t die site).sinkOf w.job w.circuit = some (n, { p with credits := p.credits - 1 }) ∧ OnlyIn [.grain, .mTiles, .tel] s t))
      ∧ (decodePattern w.flip = .uncorrectable → w.flip < 2 ^ 288 → Completes (.grainSlotForward die site table slot 0) s (fun t => t.mTiles = s.mTiles
        ∧ (1 ≤ w.job → w.job ≤ 63 → HearsEvents s die → Raises s t die 0x0401 1 w.job) ∧ OnlyIn [.grain, .tel, .ev, .lastFault] s t)))
    ∧ (∀ (w : Word) (s' : State) (n k flip : Nat) (p : GrainEp), entSrc e = 4 → isSp (siteKind site) = true → g.sourceOf (entJob e) (entCircuit e) = some (n, p) → tileTake s die site p = some (w, s') →
      0 < p.credits → p.stopped = false → (dieOf s die).fencedSites.contains site = false →
      table < 16 → isEdgeSide site (table / 4) = false → siteNeighbour site (table / 4) = some k → (grOf s die k).linkFree (opposite (table / 4) * 8 + table % 4) slot = true →
      s.net.holes.contains (siteKey die k) = false → borderOpen s die site die k = true →
      Completes (.grainSlotForward die site table slot flip) s (fun t => spOf t die site = spOf s' die site
        ∧ Tab.find? ((opposite (table / 4) * 8 + table % 4) * 16 + slot) (grOf t die k).links = some { word := w, circuit := entCircuit e, job := entJob e, flip := flip % 2 ^ 288 }
        ∧ (grOf t die site).sourceOf (entJob e) (entCircuit e) = some (n, { p with credits := p.credits - 1 }) ∧ OnlyIn [.sTiles, .grain, .tel] s t))
    ∧ (∀ (n : Nat) (p : GrainEp), entSrc e = 4 → g.sourceOf (entJob e) (entCircuit e) = some (n, p) → p.credits = 0 → p.stopped = false → (tileTake s die site p).isSome = true →
      Completes (.grainSlotForward die site table slot 0) s (fun t => telGet t die site 0x40010 = telRaise (telGet s die site 0x40010) 1 ∧ OnlyIn [.tel] s t))
  ) ∧ (
  (∀ (s : State) (die site table slot : Nat), isCompute die = true → site < 480 → slot < 16 → s.net.holes.contains (siteKey die site) = false → siteParted s die site = false →
    let g := grOf s die site
    let e := g.entry table slot
    entValid e = true →
    (∀ (n k : Nat) (p : GrainEp), 16 ≤ table → table < 24 → g.sinkOf (entJob e) (entCircuit e) = some (n, p) → 0 < p.owed →
      let taken (t : State) : Prop := (grOf t die site).sinkOf (entJob e) (entCircuit e) = some (n, { p with owed := p.owed - 1 })
      let key := (4 * opposite (entSrc e) + entLane e) * 16 + (slot + 15) % 16
      (entSrc e < 4 → isEdgeSide site (entSrc e) = false → siteNeighbour site (entSrc e) = some k → s.net.holes.contains (siteKey die k) = false → borderOpen s die site die k = true →
        Completes (.creditReturn die site table slot true true) s (fun t => taken t ∧ Tab.get 0 key (grOf t die k).backs = Tab.get 0 key (grOf s die k).backs + 1 ∧ OnlyIn [.grain] s t))
      ∧ (∀ b, Completes (.creditReturn die site table slot b (!b)) s (fun t => taken t ∧ (∀ k, k ≠ site → grOf t die k = grOf s die k)
        ∧ (1 ≤ entJob e → entJob e ≤ 63 → HearsEvents s die → Raises s t die 0x0402 1 (entJob e)) ∧ OnlyIn [.grain, .ev, .lastFault] s t)))
    ∧ (∀ (n i m r : Nat), tableElement table = some (n, i) → i < (g.el n).owed.length → 0 < nth 0 i (g.el n).owed → srcElement (entSrc e) (entLane e) = some (m, r) → m ≠ n →
      Completes (.creditReturn die site table slot true true) s (fun t => (grOf t die site).el n = { g.el n with owed := (g.el n).owed.set i (nth 0 i (g.el n).owed - 1) }
        ∧ (grOf t die site).el m = (if r = 0 then { g.el m with cred0 := (g.el m).cred0 + 1 } else { g.el m with cred1 := (g.el m).cred1 + 1 }) ∧ OnlyIn [.grain] s t))
    ∧ (∀ (n : Nat) (q : GrainEp), table < 16 → entSrc e = 4 → 0 < Tab.get 0 (table * 16 + slot) g.backs → g.sourceOf (entJob e) (entCircuit e) = some (n, q) →
      let counted (t : State) : Prop := Tab.get 0 (table * 16 + slot) (grOf t die site).backs = Tab.get 0 (table * 16 + slot) g.backs - 1
        ∧ (grOf t die site).sourceOf (entJob e) (entCircuit e) = some (n, { q with credits := q.credits + 1 })
      (isSp (siteKind site) = true → Completes (.creditReturn die site table slot true true) s (fun t => counted t ∧ OnlyIn [.grain] s t))
      ∧ (∀ (j : DJob) (js : List DJob), siteKind site = some .mTile → (mtOf s die site).drainQ = j :: js → Completes (.creditReturn die site table slot true true) s (fun t =>
          counted t ∧ (mtOf t die site).drainQ = { j with credited := j.credited + 1 } :: js ∧ OnlyIn [.grain, .mTiles] s t)))
    ∧ Completes (.creditReturn die site table slot false false) s (OnlyIn [] s)
    ∧ (creditTake s die site table slot e = none → Completes (.creditReturn die site table slot true true) s (OnlyIn [] s)))
  ∧ (∀ (s : State) (die site : Nat), ((isHub die = true ∧ site < 24) ∨ (isHub die = false ∧ isCompute die = true ∧ siteKind site = some .xTile)) → (dieNeighbour die (groupAt die site).1).isSome = true →
    let g := grOf s die site
    let key := groupKey die (groupAt die site).1 (groupAt die site).2
    s.net.lostGroups.contains key = false →
    (g.fails < 8 → Completes (.edgeFrameReceive die site false []) s (fun t => grOf t die site = { g with fails := g.fails + 1 } ∧ telGet t die site 0x43008 = telRaise (telGet s die site 0x43008) 1 ∧ OnlyIn [.grain, .tel] s t))
    ∧ (8 ≤ g.fails → Completes (.edgeFrameReceive die site false []) s (fun t => t.net.lostGroups.contains key = true ∧ t.net.rewriteDue.isSome = true ∧ t.mem = s.mem ∧ t.jobs = s.jobs))
    ∧ (isHub die = true → Completes (.edgeFrameReceive die site true []) s (fun t => grOf t die site = { g with fails := 0 } ∧ OnlyIn [.grain] s t))
    ∧ (∀ (p : Nat × Nat) (w : GrainWord) (j eo ei : Nat), isHub die = false → edgePeer die site = some p → siteKey p.1 p.2 ≠ siteKey die site → (grOf s p.1 p.2).edgeOut = [w] → w.flip = 0 → j < 125 →
      (grOf s p.1 p.2).xout = [(j, eo)] → g.xin = [(j, ei)] → entValid eo = true → entValid ei = true → entCircuit eo = w.circuit → entJob eo = w.job → g.edgeIn.length < 128 →
      Completes (.edgeFrameReceive die site true []) s (fun t => (grOf t die site).edgeIn = g.edgeIn ++ [w] ∧ (grOf t p.1 p.2).edgeOut = [] ∧ (grOf t die site).fails = 0 ∧ OnlyIn [.grain, .tel] s t)))
  )

/-- A fork gives a word to both branches, a join takes one word of each port in port order, a steering element passes a data word as its token says, the token leaving with its first word, and a merge adder takes the words of one index in their order of arrival, adds them and emits the sum of all; each frees the places it took. A malformed token and a join skewed for 100 µs fault the job. -/
def Obligations.SwitchElementsPassWords : Prop :=
  ∀ (s : State) (die site unit : Nat), isCompute die = true → site < 480 → siteParted s die site = false → s.net.holes.contains (siteKey die site) = false →
    let el (n : Nat) := (grOf s die site).el n
    let on (n : Nat) : Prop := (el n).on = true ∧ (el n).faulted = false
    let becomes (n : Nat) (y : GrainEl) (t : State) : Prop := (grOf t die site).el n = y ∧ (∀ k, k ≠ n → (grOf t die site).el k = el k) ∧ (grOf t die site).eps = (grOf s die site).eps ∧ (grOf t die site).links = (grOf s die site).links
    let freed (x : GrainEl) (i : Nat) : List Nat := x.owed.set i (nth 0 i x.owed + 1)
    (∀ w ws, unit < 2 → on unit → (el unit).inQ 0 = w :: ws → let x := el unit
      (x.mode = 0 → x.out0 = [] → x.out1 = [] → 0 < x.cred0 → 0 < x.cred1 → Completes (.forkTake die site unit) s (fun t =>
        becomes unit { x with q := x.q.set 0 ws, out0 := [(w, 0)], out1 := [(w, 0)], cred0 := x.cred0 - 1, cred1 := x.cred1 - 1, owed := freed x 0 } t ∧ OnlyIn [.grain] s t))
      ∧ (x.mode = 0 → (x.cred0 = 0 ∨ x.cred1 = 0) → Completes (.forkTake die site unit) s (OnlyIn [] s))
      ∧ (x.mode ≠ 0 → x.out0.length < x.param0 → x.out1.length < x.param1 → Completes (.forkTake die site unit) s (fun t =>
        becomes unit { x with q := x.q.set 0 ws, out0 := x.out0 ++ [(w, 0)], out1 := x.out1 ++ [(w, 0)], owed := freed x 0 } t ∧ OnlyIn [.grain] s t)))
    ∧ (∀ a as b bs, unit < 2 → on (2 + unit) → (el (2 + unit)).inQ 0 = a :: as → (el (2 + unit)).inQ 1 = b :: bs → (el (2 + unit)).out0 = [] → Completes (.joinPair die site unit) s (fun t =>
        ∃ sk, becomes (2 + unit) { el (2 + unit) with q := ((el (2 + unit)).q.set 0 as).set 1 bs, out0 := [(a, 0), (b, 1)], skewSince := sk } t ∧ OnlyIn [.grain] s t))
    ∧ (∀ t1, unit < 2 → on (2 + unit) → (el (2 + unit)).watch = true → (el (2 + unit)).skewSince = some t1 →
      (t1 + 100000 ≤ s.now → Completes (.joinSkewStall die site unit) s (fun t => becomes (2 + unit) { el (2 + unit) with faulted := true } t
        ∧ (1 ≤ (el (2 + unit)).job → (el (2 + unit)).job ≤ 63 → HearsEvents s die → Raises s t die 0x0403 1 (el (2 + unit)).job) ∧ OnlyIn [.grain, .ev, .lastFault] s t))
      ∧ (s.now < t1 + 100000 → Completes (.joinSkewStall die site unit) s (OnlyIn [] s)))
    ∧ (unit < 2 → on (4 + unit) → let x := el (4 + unit)
      (∀ w ws v left, x.mode = 0 → x.token = some (v, left) → v < 2 → x.inQ v = w :: ws → x.out0 = [] → Completes (.steer die site unit) s (fun t =>
        becomes (4 + unit) { x with q := x.q.set v ws, out0 := [(w, v)], token := if left ≤ 1 then none else some (v, left - 1), owed := freed x v } t ∧ OnlyIn [.grain] s t))
      ∧ (∀ w ws left, x.mode ≠ 0 → x.token = some (1, left) → x.inQ 0 = w :: ws → x.out1 = [] → Completes (.steer die site unit) s (fun t =>
        becomes (4 + unit) { x with q := x.q.set 0 ws, out1 := [(w, 0)], token := if left ≤ 1 then none else some (1, left - 1), owed := freed x 0 } t ∧ OnlyIn [.grain] s t))
      ∧ (∀ w ws left, x.mode ≠ 0 → x.token = some (0, left) → x.inQ 0 = w :: ws → x.out0 = [] → Completes (.steer die site unit) s (fun t =>
        becomes (4 + unit) { x with q := x.q.set 0 ws, out0 := [(w, 0)], token := if left ≤ 1 then none else some (0, left - 1), owed := freed x 0 } t ∧ OnlyIn [.grain] s t))
      ∧ (∀ k ks w ws, x.token = none → x.inQ 2 = k :: ks → tokenOk k = true → let v := fld k.toNat 0 1
        x.mode = 0 → x.inQ v = w :: ws → x.out0 = [] → Completes (.steer die site unit) s (fun t =>
          becomes (4 + unit) ((GrainEl.free { x with q := (x.q.set v ws).set 2 ks, out0 := [(w, v)], token := if fld k.toNat 4 4 ≤ 1 then none else some (v, fld k.toNat 4 4 - 1) } v).free 2) t ∧ OnlyIn [.grain] s t))
      ∧ (∀ k ks, x.token = none → x.inQ 2 = k :: ks → tokenOk k = false → Completes (.steer die site unit) s (fun t => becomes (4 + unit) { x with faulted := true } t
        ∧ (1 ≤ x.job → x.job ≤ 63 → HearsEvents s die → Raises s t die 0x0404 1 x.job) ∧ OnlyIn [.grain, .ev, .lastFault] s t)))
    ∧ (∀ i w ws, unit < 4 → on (6 + unit) → let x := el (6 + unit)
      let left := x.arrivals.eraseP (fun a => a.2.2 == i)
      i < x.param0 → x.inQ i = w :: ws → x.out0.length < 16 →
      (x.mergeTurn i = false → Completes (.mergeAdd die site unit i) s (OnlyIn [] s)) ∧ (x.mergeTurn i = true →
      (x.sums = [] → 1 < x.param0 → Completes (.mergeAdd die site unit i) s (fun t =>
        becomes (6 + unit) { x with q := x.q.set i ws, taken := x.taken.set i (nth 0 i x.taken + 1), sums := [{ index := nth 0 i x.taken, inputs := [i], word := w }], arrivals := left, owed := freed x i } t ∧ OnlyIn [.grain] s t))
      ∧ (∀ m, x.sums = [m] → m.index = nth 0 i x.taken → m.inputs.length + 1 = x.param0 → Completes (.mergeAdd die site unit i) s (fun t =>
        becomes (6 + unit) { x with q := x.q.set i ws, taken := x.taken.set i (nth 0 i x.taken + 1), sums := [], out0 := x.out0 ++ [(addWords m.word w, 0)], arrivals := left, owed := freed x i } t
          ∧ telGet t die site 0x40018 = telRaise (telGet s die site 0x40018) 1 ∧ OnlyIn [.grain, .tel] s t))))

/-- The oldest descriptor takes the lowest free slot once its staging words fit, waiting on its kettle first where it is triggered. A stream issues a request only in its turn and with a word to issue. A LOAD reads its own channel's word into staging and asks the unit that serves another word, near, far, of a scratchpad or of the host, for it, both words of one host line in one request; a STORE reads its slot, or takes its circuit's word at an X-tile, and writes its own channel's word, or sends it to the unit that serves it; a word without backing raises its event and stops the stream, and a full prefetch window or a stack in HOLD lets none go. -/
def Obligations.StreamsAdmitAndRequest : Prop :=
  (∀ (s : State) (die site k : Nat) (x : Strm) (rest : List Strm), SiteIs die site [.dpTile, .xTile] →
    let e := enOf s die site
    e.queue = x :: rest → k < 8 → Tab.find? k e.slots = none → (∀ j, j < k → Tab.find? j e.slots ≠ none) → engineRuns s die site = true →
    (e.reserved + x.prefetch ≤ 1024 → x.phase = .running → Completes (.streamAdmit die site) s (fun t => (enOf t die site).queue = rest ∧ slotOf t die site k = some x
      ∧ (∀ j, j ≠ k → slotOf t die site j = slotOf s die site j) ∧ OnlyIn [.engines] s t))
    ∧ (∀ q, e.reserved + x.prefetch ≤ 1024 → x.phase = .trigger .none → rankEp s x.job (x.f 6 2) = some q → q.port = portKettle → IdFree s (streamEp die site) → Completes (.streamAdmit die site) s (fun t =>
      slotOf t die site k = some { x with phase := .trigger .sent } ∧ Requested s t (streamEp die site) k x.job 4 q (kettleArg 2 false 1) [] ∧ OnlyIn [.engines, .net] s t))
    ∧ (1024 < e.reserved + x.prefetch → Completes (.streamAdmit die site) s (OnlyIn [] s)))
  ∧ (∀ (s : State) (die site slot : Nat) (x : Strm), SiteIs die site [.dpTile, .xTile] → slotOf s die site slot = some x → x.phase = .running → engineRuns s die site = true → x.isLoad = true →
    let n := x.issued
    let a := addrNat (streamAddress x.desc n)
    let limit := min (passWords x.desc) (x.pos + x.prefetch)
    let asks (t : State) (k typ : Nat) (rev : Bool) (e : Ep) (arg : Nat) (data : List Word) : Prop :=
      slotOf t die site slot = some { x with issued := n + k, outst := x.outst ++ [{ id := nextMsgId s (streamEp die site), first := n, count := k, rev := rev }] }
        ∧ Requested s t (streamEp die site) slot x.job typ e (BitVec.ofNat 64 arg) data ∧ OnlyIn [.engines, .net] s t
    (limit ≤ n → Completes (.streamRequestIssue die site slot []) s (OnlyIn [] s))
    ∧ (remoteNext s die site ≠ some slot → Completes (.streamRequestIssue die site slot []) s (OnlyIn [] s))
    ∧ (∀ o, siteKind site = some .dpTile → (spaceOf a = 0 ∨ spaceOf a = 1) → placeOf s a = .near die o (dpChannel site) →
      ((dieOf s die).nearState = .hold → Completes (.streamRequestIssue die site slot []) s (OnlyIn [] s))
      ∧ (remoteNext s die site = some slot → pageAdmits (pageOf s (Place.near die o (dpChannel site)).page) x.job = true → Tab.find? (nearAddr die o) s.flips = none → Completes (.streamRequestIssue die site slot []) s (fun t =>
        slotOf t die site slot = some { x with issued := n + 1, staged := Tab.set n (wordAt s.mem (nearAddr die o)) x.staged } ∧ OnlyIn [.engines] s t)))
    ∧ (remoteNext s die site = some slot → IdFree s (streamEp die site) →
      (∀ e, (spaceOf a = 0 ∨ spaceOf a = 1 ∨ spaceOf a = 2) → placeOf s a ≠ .other → ownPlace die site (placeOf s a) = false → (placeOf s a).server = some e →
        Completes (.streamRequestIssue die site slot []) s (fun t => asks t 1 2 false e a [BitVec.ofNat 256 1]))
      ∧ (spaceOf a = 3 → let k := max 1 (runLength x.desc n limit 16)
        Completes (.streamRequestIssue die site slot []) s (fun t => asks t k 1 false { die := bits a 35 29, site := spaceSite a, port := portTile, index := 0 } 0 [spCommand 1 (bits (x.f 11 1) 3 2) (bits a 20 5) k]))
      ∧ (spaceOf a = 8 → linePair x.desc n limit = none → Completes (.streamRequestIssue die site slot []) s (fun t => asks t 1 2 false (hostEp 0) a [BitVec.ofNat 256 1]))
      ∧ (∀ rev, spaceOf a = 8 → linePair x.desc n limit = some rev → Completes (.streamRequestIssue die site slot []) s (fun t => asks t 2 2 rev (hostEp 0) (a / 64 * 64) [BitVec.ofNat 256 2])))
    ∧ (remoteNext s die site = some slot → (spaceOf a = 0 ∨ spaceOf a = 1 ∨ spaceOf a = 2) → placeOf s a = .unbacked → Completes (.streamRequestIssue die site slot []) s (fun t =>
      slotOf t die site slot = some { x with issued := n + 1, phase := .ending 1 0x0220 0 n a s.now }
        ∧ (1 ≤ x.job → x.job ≤ 63 → HearsEvents s die → Raises s t die 0x0220 1 x.job) ∧ OnlyIn [.engines, .ev, .lastFault] s t)))
  ∧ (∀ (s : State) (die site slot : Nat) (x : Strm), SiteIs die site [.dpTile] → (enOf s die site).slots = [(slot, x)] → slot < 8 → x.phase = .running → engineRuns s die site = true → x.isLoad = false →
    let n := x.issued
    let a := addrNat (streamAddress x.desc n)
    let t0 := spOf s die site
    let sl := x.f 12 4 + n % max 1 (x.f 16 4)
    t0.chans = [] → t0.cmds = [] → t0.gather = [] → x.f 10 1 = 0xFF → x.staged = [] → n < min (passWords x.desc) (x.pos + x.prefetch) →
    (spaceOf a = 0 ∨ spaceOf a = 1 ∨ spaceOf a = 2) → t0.readReady sl (bits (x.f 11 1) 1 0) = true → Tab.find? (slotAddr die site sl) s.flips = none →
    (∀ o, placeOf s a = .near die o (dpChannel site) → (dieOf s die).nearState ≠ .hold → pageAdmits (pageOf s (Place.near die o (dpChannel site)).page) x.job = true → s.memoryOk → x.done = [] → n = x.pos →
      Completes (.streamRequestIssue die site slot []) s (fun t => wordAt t.mem (nearAddr die o) = wordAt s.mem (slotAddr die site sl) ∧ outside (nearAddr die o) 32 s t
        ∧ slotOf t die site slot = some { x with issued := n + 1, pos := n + 1 } ∧ OnlyIn [.engines, .mem, .flips, .pages, .sTiles, .tel, .biOld, .out] s t))
    ∧ (∀ e, placeOf s a ≠ .other → ownPlace die site (placeOf s a) = false → (placeOf s a).server = some e → IdFree s (streamEp die site) →
      Completes (.streamRequestIssue die site slot []) s (fun t =>
        slotOf t die site slot = some { x with issued := n + 1, outst := x.outst ++ [{ id := nextMsgId s (streamEp die site), first := n, count := 1, rev := false }] }
          ∧ Requested s t (streamEp die site) slot x.job 3 e (BitVec.ofNat 64 a) [wordAt s.mem (slotAddr die site sl)] ∧ OnlyIn [.engines, .net, .sTiles, .tel] s t)))
  ∧ (∀ (s : State) (die site slot : Nat) (x : Strm) (w : Word) (e : Ep), SiteIs die site [.xTile] → (enOf s die site).slots = [(slot, x)] → slot < 8 → x.phase = .running → engineRuns s die site = true → x.isLoad = false →
    let n := x.issued
    let a := addrNat (streamAddress x.desc n)
    (enOf s die site).xIn = [(x.f 12 2, w)] → x.staged = [] → n < min (passWords x.desc) (x.pos + x.prefetch) →
    (spaceOf a = 0 ∨ spaceOf a = 1 ∨ spaceOf a = 2) → (placeOf s a).server = some e → IdFree s (streamEp die site) → Completes (.streamRequestIssue die site slot []) s (fun t =>
      slotOf t die site slot = some { x with issued := n + 1, outst := x.outst ++ [{ id := nextMsgId s (streamEp die site), first := n, count := 1, rev := false }] } ∧ (enOf t die site).xIn = []
        ∧ Requested s t (streamEp die site) slot x.job 3 e (BitVec.ofNat 64 a) [w] ∧ OnlyIn [.engines, .net, .grain] s t))

/-- Replies settle their requests: with nothing else at its bank a LOAD's data is written to its slot in stream order, and is staged while the slot's tag does not let it be written; an acknowledged STORE moves on, and an error stops the stream with its cause, a refusal with STREAM_REFUSED. A request without a reply at its limit stops the stream with its timeout; one that is held, or to the host while the link is down, has none. A finished pass begins the next, after a wait on its kettle where it is triggered; the last ends the stream, frees its slot and signals DONE_KETTLE, a record to the host going out first as a request whose acknowledgement ends the stream. A stream that faulted ends once its requests are settled and its record is written, and its task's event is raised. -/
def Obligations.StreamsSettleAndEnd : Prop :=
  (
  ∀ (s : State) (die site slot : Nat) (x : Strm) (o : StOut), SiteIs die site [.dpTile, .xTile] → (enOf s die site).slots = [(slot, x)] → slot < 8 → x.phase = .running → x.outst = [o] →
    let a := addrNat (streamAddress x.desc o.first)
    (∀ r, (enOf s die site).inbox = [r] → r.id = o.id →
      let at1 := addrNat (streamAddress x.desc (o.first + r.word))
      (∀ w, siteKind site = some .xTile → r.typ = 0x81 → r.data = [w] → x.isLoad = true → x.staged = [] → Completes (.streamReply die site slot) s (fun t =>
          slotOf t die site slot = some { x with outst := [], staged := [(o.first, w)] } ∧ (enOf t die site).inbox = [] ∧ OnlyIn [.engines] s t))
      ∧ (∀ w, siteKind site = some .dpTile → r.typ = 0x81 → r.data = [w] → x.isLoad = true → x.staged = [] → o.first = x.pos → x.f 10 1 = 0xFF → engineRuns s die site = true →
        (spOf s die site).chans = [] → (spOf s die site).cmds = [] → (spOf s die site).gather = [] →
        let sl := x.f 12 4 + x.pos % max 1 (x.f 16 4)
        ((spOf s die site).writeReady sl (bits (x.f 11 1) 1 0) = true → s.memoryOk → Completes (.streamReply die site slot) s (fun t =>
          wordAt t.mem (slotAddr die site sl) = w ∧ outside (slotAddr die site sl) 32 s t ∧ slotOf t die site slot = some { x with outst := [], pos := x.pos + 1 } ∧ (enOf t die site).inbox = []
            ∧ telGet t die site 0x348 = telRaise (telGet s die site 0x348) 1 ∧ OnlyIn [.engines, .sTiles, .mem, .flips, .tel] s t))
        ∧ ((spOf s die site).writeReady sl (bits (x.f 11 1) 1 0) = false → Completes (.streamReply die site slot) s (fun t =>
          slotOf t die site slot = some { x with outst := [], staged := [(x.pos, w)] } ∧ (enOf t die site).inbox = []
            ∧ telGet t die site 0x358 = telRaise (telGet s die site 0x358) 1 ∧ OnlyIn [.engines, .tel] s t)))
      ∧ (r.typ = 0x80 → x.isLoad = false → x.done = [] → o.first = x.pos → o.count = 1 → Completes (.streamReply die site slot) s (fun t =>
          slotOf t die site slot = some { x with outst := [], pos := x.pos + 1 } ∧ telGet t die site 0x348 = telRaise (telGet s die site 0x348) 1 ∧ OnlyIn [.engines, .tel] s t))
      ∧ (r.typ = 0x83 → r.scode = true → Completes (.streamReply die site slot) s (fun t =>
          slotOf t die site slot = some { x with outst := [], phase := .ending 1 0x0305 r.status (o.first + r.word) at1 s.now } ∧ OnlyIn [.engines] s t))
      ∧ (r.typ = 0x83 → r.scode = false → r.status ≠ 0x0303 → Completes (.streamReply die site slot) s (fun t =>
          slotOf t die site slot = some { x with outst := [], phase := .ending 1 r.status 0 (o.first + r.word) at1 s.now } ∧ OnlyIn [.engines, .lastFault] s t))
      ∧ (r.typ = 0x83 → r.scode = false → r.status = 0x0303 → Completes (.streamReply die site slot) s (fun t =>
          slotOf t die site slot = some { x with outst := [], phase := .ending 1 0x0303 0 (o.first + r.word) at1 s.now }
            ∧ (1 ≤ x.job → x.job ≤ 63 → HearsEvents s die → Raises s t die 0x0303 1 x.job) ∧ OnlyIn [.engines, .ev, .lastFault] s t)))
    ∧ (∀ p, outOf s die site o.id = some p →
      (p.st = .sent → (p.msg.dst.port = portHost → s.link.up = true) → p.first + p.limit ≤ s.now → Completes (.streamTimeout die site slot) s (fun t =>
        slotOf t die site slot = some { x with outst := [], phase := .ending 1 0x0302 0 o.first a s.now }
        ∧ outOf t die site o.id = none ∧ (1 ≤ x.job → x.job ≤ 63 → HearsEvents s die → Raises s t die 0x0302 1 x.job) ∧ OnlyIn [.engines, .net, .ev, .lastFault] s t))
      ∧ ((s.now < p.first + p.limit ∨ p.st = .held ∨ (p.msg.dst.port = portHost ∧ s.link.up = false)) → Completes (.streamTimeout die site slot) s (OnlyIn [] s)))
  ) ∧ (
  ∀ (s : State) (die site slot : Nat) (x : Strm), SiteIs die site [.dpTile, .xTile] → slotOf s die site slot = some x →
    let again := { x with passesDone := x.passesDone + 1, issued := 0, pos := 0, credited := 0, done := [] }
    let words (bs : List Byte) : List Word := (upTo 2).map (fun k => BitVec.ofNat 256 (leNat ((bs.drop (32 * k)).take 32)))
    let recording (t : State) (sig : Bool) (fault : Option (Nat × Nat × Nat)) (bs : List Byte) : Prop :=
      (slotOf t die site slot).map Strm.phase = some (.recording sig fault)
        ∧ (slotOf t die site slot).map Strm.outst = some [{ id := nextMsgId s (streamEp die site), first := 0, count := 0, rev := false }]
        ∧ Requested s t (streamEp die site) (8 + slot) x.job 3 (hostEp 0) (BitVec.ofNat 64 (x.f 40 8)) (words bs) ∧ OnlyIn [.engines, .net] s t
    let signals (t : State) : Prop := ∀ e, rankEp s x.job (x.f 2 2) = some e → e.port = portKettle → IdFree s (streamEp die site) → Requested s t (streamEp die site) slot x.job 4 e (kettleArg 1 false 1) []
    let freed (t : State) : Prop := slotOf t die site slot = none ∧ (∀ j, j ≠ slot → slotOf t die site j = slotOf s die site j)
    (x.phase = .running → passFinished die site x = true → engineRuns s die site = true →
      ((x.f 24 4 = 0 ∨ x.passesDone + 1 < x.f 24 4) →
        (bit (x.f 1 1) 3 = false → Completes (.streamComplete die site slot) s (fun t => slotOf t die site slot = some again ∧ OnlyIn [.engines] s t))
        ∧ (∀ e, bit (x.f 1 1) 3 = true → rankEp s x.job (x.f 6 2) = some e → e.port = portKettle → IdFree s (streamEp die site) → Completes (.streamComplete die site slot) s (fun t =>
          slotOf t die site slot = some { again with phase := .trigger .sent } ∧ Requested s t (streamEp die site) slot x.job 4 e (kettleArg 2 false 1) [] ∧ OnlyIn [.engines, .net] s t)))
      ∧ (x.f 24 4 ≠ 0 → x.f 24 4 ≤ x.passesDone + 1 → bit (x.f 1 1) 2 = false → Completes (.streamComplete die site slot) s (fun t => freed t
        ∧ (bit (x.f 1 1) 0 = true → signals t) ∧ (bit (x.f 1 1) 0 = false → t.net = s.net) ∧ OnlyIn [.engines, .net] s t))
      ∧ (x.f 24 4 ≠ 0 → x.f 24 4 ≤ x.passesDone + 1 → bit (x.f 1 1) 2 = true → spaceOf (x.f 40 8) = 8 → IdFree s (streamEp die site) → Completes (.streamComplete die site slot) s (fun t =>
        recording t (bit (x.f 1 1) 0) none (recordBytes s site again 0 0 0 0 0))))
    ∧ (∀ (sig : Bool) (o : StOut) (r : StReply), x.phase = .recording sig none → x.outst = [o] → (enOf s die site).inbox = [r] → r.id = o.id → r.typ = 0x80 → Completes (.streamReply die site slot) s (fun t =>
        freed t ∧ (enOf t die site).inbox = [] ∧ (sig = true → signals t) ∧ (sig = false → t.net = s.net) ∧ OnlyIn [.engines, .net] s t))
    ∧ (∀ en cause ref index addr time, x.phase = .ending 1 cause ref index addr time → s.engines = [(siteKey die site, en)] → en.slots = [(slot, x)] → en.queue = [] →
      (x.outst = [] → bit (x.f 1 1) 2 = false → taskRecording s x.job x.task = false → Completes (.streamFault die site slot) s (fun t => slotOf t die site slot = none
        ∧ (x.job ≠ 0 → HearsEvents s die → Raises s t die 0x0301 1 x.job) ∧ OnlyIn [.engines, .ev, .lastFault] s t))
      ∧ (x.outst = [] → bit (x.f 1 1) 2 = true → spaceOf (x.f 40 8) = 8 → IdFree s (streamEp die site) → Completes (.streamFault die site slot) s (fun t =>
        recording t false (some (cause, addr, time)) (recordBytes s site x 1 cause ref index addr)))
      ∧ (x.outst ≠ [] → Completes (.streamFault die site slot) s (OnlyIn [] s)))
  )

/-- A core executes the word at its pc: the register operations of OP's first function code set, ADDI, BEQ taken or not, and LD and SD of cluster memory retire with their results and the next pc, and no other byte or unit changes; an Xenh word asks for its own row's operation. -/
def Obligations.CoresExecuteTheirInstructions : Prop :=
  ∀ (s : State) (die core rd rs1 rs2 imm : Nat), rd < 32 → rs1 < 32 → rs2 < 32 → imm < 4096 →
    let c := coreOf s die core
    let i := BitVec.ofInt 64 (toSigned 12 imm)
    (∀ f3, f3 < 8 → CoreFetches s die core (encR 0 rs2 rs1 f3 rd 0x33) → Completes (.coreInstruction die core []) s (fun t =>
      Retires s t die core rd (aluOp f3 false (c.get rs1) (c.get rs2)) ∧ (∀ k, k < 64 → k ≠ core → coreOf t die k = coreOf s die k) ∧ OnlyIn [.cores, .tel] s t))
    ∧ (CoreFetches s die core (encI imm rs1 0 rd 0x13) → Completes (.coreInstruction die core []) s (fun t => Retires s t die core rd (c.get rs1 + i) ∧ OnlyIn [.cores, .tel] s t))
    ∧ (∀ off, off < 8192 → off % 2 = 0 → CoreFetches s die core (encB off rs2 rs1 0) → Completes (.coreInstruction die core []) s (fun t =>
      coreOf t die core = { c with pc := if c.get rs1 = c.get rs2 then c.pc + BitVec.ofInt 64 (toSigned 13 off) else c.pc + x64 4, lastPc := c.pc, instret := c.instret + 1 } ∧ OnlyIn [.cores, .tel] s t))
    ∧ (let a := (c.get rs1 + i).toNat
      CoreFetches s die core (encI imm rs1 3 rd 0x03) → a + 8 ≤ clusterSize die → a % 8 = 0 → paOk c die c.dataMode a 8 1 = true → Tab.find? (clusterAddr die (a / 32 * 32)) s.flips = none →
      Completes (.coreInstruction die core []) s (fun t => Retires s t die core rd (x64 (leNat (memGetList s.mem (clusterAddr die a) 8))) ∧ OnlyIn [.cores, .tel] s t))
    ∧ (let a := (c.get rs1 + i).toNat
      CoreFetches s die core (encS imm rs2 rs1 3 0x23) → a + 8 ≤ clusterSize die → a % 8 = 0 → paOk c die c.dataMode a 8 2 = true → Tab.find? (clusterAddr die (a / 32 * 32)) s.flips = none → s.memoryOk →
      Completes (.coreInstruction die core []) s (fun t => memGetList t.mem (clusterAddr die a) 8 = leBytes 8 (c.get rs2).toNat ∧ outside (clusterAddr die a) 8 s t
        ∧ (coreOf t die core).x = c.x ∧ (coreOf t die core).pc = c.pc + x64 4 ∧ OnlyIn [.cores, .tel, .mem, .flips] s t))
    ∧ (∀ w code, CoreFetches s die core w → w < 2 ^ 32 → (bits w 6 0 = 0x0B ∨ bits w 6 0 = 0x2B) → xenhCode w = some code →
      coreNext s die core = (s, .xenh code (bits w 11 7) (c.get (bits w 19 15)) (c.get (bits w 24 20))))

/-- ECALL ends or faults a program, another ECALL code and an illegal instruction in U mode trap to the monitor, fault the core and raise its event; an illegal instruction in M mode traps within M mode. Timer and software interrupts are taken when pending and enabled, and a core that is halted with nothing outstanding stands at its pc with its registers kept. -/
def Obligations.CoresTrapHaltAndEnd : Prop :=
  ∀ (s : State) (die core : Nat),
    let c := coreOf s die core
    let job := ((regionOfCore s die core).map (fun r => r.2.job)).getD 0
    let base := c.csr 0x305 - c.csr 0x305 % 4
    (CoreFetches s die core 0x73 → c.mmode = false → c.get 17 = 0 → Completes (.ecallExit die core) s (fun t => Traps s t die core 8 0 ∧ (coreOf t die core).st = .done ∧ (coreOf t die core).pc = x64 base ∧ OnlyIn [.cores] s t))
    ∧ (CoreFetches s die core 0x73 → c.mmode = false → c.get 17 = 1 → Completes (.ecallFault die core) s (fun t => Traps s t die core 8 0 ∧ (coreOf t die core).st = .faulted
      ∧ (1 ≤ job → job ≤ 63 → HearsEvents s die → Raises s t die 0x0132 1 job) ∧ OnlyIn [.cores, .ev, .lastFault] s t))
    ∧ (CoreFetches s die core 0x73 → c.mmode = false → 1 < (c.get 17).toNat → Completes (.coreException die core []) s (fun t => Traps s t die core 8 0 ∧ (coreOf t die core).st = .faulted
      ∧ (job ≠ 0 → HearsEvents s die → Raises s t die 0x0131 1 job) ∧ OnlyIn [.cores, .ev, .lastFault] s t))
    ∧ (∀ w, CoreFetches s die core w → w < 2 ^ 32 → bits w 6 0 = 0x0B → xenhCode w = none →
      (c.mmode = true → Completes (.coreInstruction die core []) s (fun t => Traps s t die core 2 w ∧ (coreOf t die core).pc = x64 base ∧ (coreOf t die core).st = c.st ∧ OnlyIn [.cores] s t))
      ∧ (c.mmode = false → Completes (.coreException die core []) s (fun t => Traps s t die core 2 w ∧ (coreOf t die core).st = .faulted ∧ (coreOf t die core).cause = 2
        ∧ (job ≠ 0 → HearsEvents s die → Raises s t die 0x0131 1 job) ∧ OnlyIn [.cores, .ev, .lastFault] s t)))
    ∧ (isDie die = true → core < coreCount die → (c.st = .running ∨ c.st = .monitor) →
      (c.wait = .none → (dieOf s die).fenced = false → (c.mmode = false ∨ bit (c.csr 0x300) 3 = true) →
        (c.mtimecmp ≤ s.now → bit (c.csr 0x304) 7 = true → Completes (.timerInterrupt die core) s (fun t => Traps s t die core (7 + 2 ^ 63) 0 ∧ (coreOf t die core).st = .monitor
          ∧ (coreOf t die core).pc = x64 (base + if c.csr 0x305 % 4 = 1 then 28 else 0) ∧ OnlyIn [.cores] s t))
        ∧ (c.msip = true → bit (c.csr 0x304) 3 = true → Completes (.softwareInterrupt die core) s (fun t => Traps s t die core (3 + 2 ^ 63) 0 ∧ (coreOf t die core).st = .monitor
          ∧ (coreOf t die core).pc = x64 (base + if c.csr 0x305 % 4 = 1 then 12 else 0) ∧ OnlyIn [.cores] s t)))
      ∧ (s.now < c.mtimecmp → Completes (.timerInterrupt die core) s (OnlyIn [] s))
      ∧ (c.msip = false → Completes (.softwareInterrupt die core) s (OnlyIn [] s))
      ∧ (coreOut s die core = [] → (∀ k ∈ s.kettles, ∀ w ∈ k.2.waiters, w.src ≠ coreEp die core) → Completes (.coreHalt die core) s (fun t => coreOf t die core = { c with meip := true, st := .halted, wait := .none }
        ∧ (c.wait = .none → OnlyIn [.cores] s t) ∧ OnlyIn [.cores, .tel] s t)))

/-- An aperture load sends its request and stalls, one without backing taking an access fault; a store is posted while fewer than sixteen are. Xenh instructions that issue a descriptor or a command read it, and a command's data words, from cluster memory and send them to the rank's unit, posted where rd is x0 and fewer than sixteen are, else awaited; a rank that names none is refused with its status, in rd or as XENH_REFUSED; XSCANCEL ends the task's streams. -/
def Obligations.CoresSendTheirRequests : Prop :=
  ∀ (s : State) (die core : Nat), core < 64 → IdFree s (coreEp die core) →
    let c := coreOf s die core
    let job := coreJob s die core
    let id := nextMsgId s (coreEp die core)
    let asked (t : State) (typ : Nat) (e : Ep) (arg : BitVec 64) (data : List Word) : Prop := Requested s t (coreEp die core) core job typ e arg data
    (∀ a size rd signed fp typ e arg data, isDie die = true → core < coreCount die → coreNext s die core = (s, .apLoad a size rd signed fp) → apRequest s a size none = some (typ, e, arg, data) →
      Completes (.apertureLoad die core) s (fun t => Stalls s t die core (coreLen s die core) (.load id rd a size signed fp) ∧ asked t typ e arg data ∧ OnlyIn [.cores, .net] s t))
    ∧ (∀ a size v typ e arg data, isDie die = true → core < coreCount die → coreNext s die core = (s, .apStore a size v) → apRequest s a size (some v) = some (typ, e, arg, data) → corePosted s die core < 16 →
      Completes (.apertureStore die core) s (fun t => coreOf t die core = { c with pc := c.pc + x64 (coreLen s die core), lastPc := c.pc, instret := c.instret + 1 } ∧ asked t typ e arg data ∧ OnlyIn [.cores, .net, .tel] s t))
    ∧ (∀ a d size rd signed fp hc o, isDie die = true → core < coreCount die → coreNext s die core = (s, .apLoad a size rd signed fp) → paTarget 0 a = .device d → spaceOf d = 2 →
      (placeOf s d = .far hc o → Completes (.apertureLoad die core) s (fun t => Stalls s t die core (coreLen s die core) (.load id rd a size signed fp)
        ∧ asked t 2 { die := 0x60 + hc / 32, site := blockSite, port := portFar, index := hc % 32 } (BitVec.ofNat 64 (d - d % 32)) [1] ∧ OnlyIn [.cores, .net] s t))
      ∧ (placeOf s d = .unbacked → c.mmode = true → Completes (.apertureLoad die core) s (fun t => Traps s t die core 5 a ∧ OnlyIn [.cores, .ev, .lastFault] s t)))
    ∧ (∀ a d size v hc o, isDie die = true → core < coreCount die → coreNext s die core = (s, .apStore a size v) → paTarget 0 a = .device d → spaceOf d = 2 → placeOf s d = .far hc o →
      (corePosted s die core < 16 → Completes (.apertureStore die core) s (fun t => coreOf t die core = { c with pc := c.pc + x64 (coreLen s die core), lastPc := c.pc, instret := c.instret + 1 }
        ∧ asked t 3 { die := 0x60 + hc / 32, site := blockSite, port := portFar, index := hc % 32 } (BitVec.ofNat 64 (d + size * 2 ^ 52)) [wordAtPos (d % 32) v] ∧ OnlyIn [.cores, .net, .tel] s t))
      ∧ (16 ≤ corePosted s die core → Completes (.apertureStore die core) s (OnlyIn [] s)))
    ∧ (∀ rd v1 v2 e, AtXenh s die core 0 rd v1 v2 → rankEp s job v2.toNat = some e → e.port = portTile → e.site ≠ blockSite → xenhOperand s die core v1.toNat 64 64 1 = none →
        (∀ k, k < 2 → Tab.find? (clusterAddr die (v1.toNat + 32 * k)) s.flips = none) →
      let ws := (upTo 2).map (fun k => wordAt s.mem (clusterAddr die (v1.toNat + 32 * k)))
      (rd ≠ 0 → Completes (.xtissue die core) s (fun t => Stalls s t die core 4 (.issue id rd) ∧ asked t 5 e 0 ws ∧ OnlyIn [.cores, .net] s t))
      ∧ (rd = 0 → corePosted s die core < 16 → Completes (.xtissue die core) s (fun t => Retires s t die core 0 0 ∧ asked t 5 e 0 ws ∧ OnlyIn [.cores, .net, .tel] s t)))
    ∧ (∀ rd v1 v2, ∀ r ∈ [(0, Instr.xtissue die core), (1, .xspcmd die core), (128, .xsenq die core)], AtXenh s die core r.1 rd v1 v2 → rankEp s job v2.toNat = none →
      (rd ≠ 0 → Completes r.2 s (fun t => Retires s t die core rd 0x0502 ∧ OnlyIn [.cores, .tel] s t))
      ∧ (rd = 0 → c.mmode = true → Completes r.2 s (fun t => Traps s t die core 24 0x0502 ∧ OnlyIn [.cores] s t)))
    ∧ (∀ rd v1 v2 e, AtXenh s die core 1 rd v1 v2 → rankEp s job v2.toNat = some e → e.port = portTile → e.site ≠ blockSite → xenhOperand s die core v1.toNat 32 32 1 = none →
        Tab.find? (clusterAddr die v1.toNat) s.flips = none →
      let w := wordAt s.mem (clusterAddr die v1.toNat)
      let n := fld w.toNat 8 4
      fld w.toNat 0 1 = 2 → 1 ≤ n → n ≤ 15 → xenhOperand s die core (v1.toNat + 32) (32 * n) 32 1 = none → (∀ k, k < n → Tab.find? (clusterAddr die (v1.toNat + 32 + 32 * k)) s.flips = none) →
      let ws := w :: (upTo n).map (fun k => wordAt s.mem (clusterAddr die (v1.toNat + 32 + 32 * k)))
      (rd ≠ 0 → Completes (.xspcmd die core) s (fun t => Stalls s t die core 4 (.issue id rd) ∧ asked t 1 e 0 ws ∧ OnlyIn [.cores, .net] s t))
      ∧ (rd = 0 → corePosted s die core < 16 → Completes (.xspcmd die core) s (fun t => Retires s t die core 0 0 ∧ asked t 1 e 0 ws ∧ OnlyIn [.cores, .net, .tel] s t)))
    ∧ (∀ rd v1 v2 e, AtXenh s die core 1 rd v1 v2 → rd ≠ 0 → rankEp s job v2.toNat = some e → e.port = portTile → e.site ≠ blockSite → xenhOperand s die core v1.toNat 32 32 1 = none →
        Tab.find? (clusterAddr die v1.toNat) s.flips = none →
      let w := wordAt s.mem (clusterAddr die v1.toNat)
      (fld w.toNat 0 1 = 9 → Completes (.xspcmd die core) s (fun t => Stalls s t die core 4 (.issue id rd) ∧ asked t 1 e 0 [w] ∧ OnlyIn [.cores, .net] s t))
      ∧ (fld w.toNat 0 1 = 8 → xenhOperand s die core (v1.toNat + 32) 32 32 2 = none → Completes (.xspcmd die core) s (fun t => Stalls s t die core 4 (.data id rd (v1.toNat + 32)) ∧ asked t 1 e 0 [w] ∧ OnlyIn [.cores, .net] s t))
      ∧ (fld w.toNat 0 1 = 0 → Completes (.xspcmd die core) s (fun t => Retires s t die core rd 0x0102 ∧ OnlyIn [.cores, .tel] s t)))
    ∧ (∀ rd v1 v2 e, AtXenh s die core 128 rd v1 v2 → rankEp s job v2.toNat = some e → e.port = portStream → xenhOperand s die core v1.toNat 160 32 1 = none →
        (∀ k, k < 5 → Tab.find? (clusterAddr die (v1.toNat + 32 * k)) s.flips = none) →
      let ws := (upTo 5).map (fun k => wordAt s.mem (clusterAddr die (v1.toNat + 32 * k)))
      (rd ≠ 0 → Completes (.xsenq die core) s (fun t => Stalls s t die core 4 (.issue id rd) ∧ asked t 5 e 0 ws ∧ OnlyIn [.cores, .net] s t))
      ∧ (rd = 0 → corePosted s die core < 16 → Completes (.xsenq die core) s (fun t => Retires s t die core 0 0 ∧ asked t 5 e 0 ws ∧ OnlyIn [.cores, .net, .tel] s t)))
    ∧ (∀ rd v1 v2, AtXenh s die core 129 rd v1 v2 → c.wait = .none →
      ((v1.toNat = 0 ∨ 65535 < v1.toNat) → Completes (.xscancel die core) s (fun t => Retires s t die core rd 0x0102 ∧ OnlyIn [.cores, .tel] s t))
      ∧ (∀ dk site slot x en, 1 ≤ v1.toNat → v1.toNat ≤ 65535 → site < 1024 → s.engines = [(siteKey dk site, en)] → en.slots = [(slot, x)] → en.queue = [] → s.seqs = [] → x.job = job → x.task = v1.toNat → x.phase = .running →
        (x.outst = [] → bit (x.f 1 1) 2 = false → taskRecording s job v1.toNat = false → Completes (.xscancel die core) s (fun t => Retires s t die core rd 0 ∧ slotOf t dk site slot = none ∧ OnlyIn [.cores, .engines, .tel] s t))
        ∧ (x.outst ≠ [] → Completes (.xscancel die core) s (fun t => Stalls s t die core 4 (.cancel rd v1.toNat) ∧ (slotOf t dk site slot).map Strm.phase = some (.ending 3 0 0 (2 ^ 32 - 1) 0 s.now)
          ∧ OnlyIn [.cores, .engines] s t))))

/-- The kettle instructions send their operation, a signal and a reset posted and, with sixteen posted operations without a reply, not yet, a wait stalling; a released signal waits for what came before it. A rank that names no kettle or an operand out of range takes XENH_REFUSED, with its status, and nothing is sent; in U mode that faults the core and its job. A fence completes at once, or later, once all that it covers is done, and XTS reads the package timestamp. The sequence-table instructions add, retire, update and read entries: a new sequence takes the lowest index that is FREE and not in the latest list, hardware bytes stay hardware's, and a malformed image or an index with no active sequence is refused with nothing changed. -/
def Obligations.CoresUseKettlesFencesAndSequences : Prop :=
  (
  ∀ (s : State) (die core rd : Nat) (v1 v2 : BitVec 64), core < 64 → IdFree s (coreEp die core) →
    let c := coreOf s die core
    let job := coreJob s die core
    let id := nextMsgId s (coreEp die core)
    let done (a b h : Bool) : Prop := fenceDone s (coreEp die core) core a b h = true
    let owner := ((regionOfCore s die core).map (fun r => r.2.job)).getD 0
    let refused (i : Instr) (status : Nat) : Prop := Completes i s (fun t => Traps s t die core 24 status ∧ (c.mmode = true → OnlyIn [.cores] s t)
      ∧ (c.mmode = false → (coreOf t die core).st = .faulted ∧ (owner ≠ 0 → HearsEvents s die → Raises s t die 0x0131 1 owner)) ∧ OnlyIn [.cores, .ev, .lastFault] s t)
    let rows : List (Nat × Instr) := [(1024, .xksig die core), (1025, .xksigRel die core), (1026, .xkrst die core), (1152, .xkwaitc die core), (1153, .xkwaito die core)]
    (∀ r ∈ rows, AtXenh s die core r.1 rd v1 v2 →
      (rankEp s job v1.toNat = none → refused r.2 0x0502) ∧ (∀ e, rankEp s job v1.toNat = some e → e.port ≠ portKettle → refused r.2 0x0106))
    ∧ (∀ e, rankEp s job v1.toNat = some e → e.port = portKettle →
      let sent (t : State) (kop : Nat) (rel : Bool) : Prop := Requested s t (coreEp die core) core job 4 e (kettleArg kop rel v2.toNat) []
      (AtXenh s die core 1024 rd v1 v2 → signalOk v2 = true → corePosted s die core < 16 → Completes (.xksig die core) s (fun t => Retires s t die core 0 0 ∧ sent t 1 false ∧ OnlyIn [.cores, .net, .tel] s t))
      ∧ (AtXenh s die core 1024 rd v1 v2 → signalOk v2 = true → 16 ≤ corePosted s die core → Completes (.xksig die core) s (OnlyIn [] s))
      ∧ (AtXenh s die core 1024 rd v1 v2 → signalOk v2 = false → refused (.xksig die core) 0x0102)
      ∧ (AtXenh s die core 1025 rd v1 v2 → signalOk v2 = true → done true true true → Completes (.xksigRel die core) s (fun t => Retires s t die core 0 0 ∧ sent t 1 true ∧ OnlyIn [.cores, .net, .tel] s t))
      ∧ (AtXenh s die core 1025 rd v1 v2 → signalOk v2 = true → ¬ done true true true → Completes (.xksigRel die core) s (fun t => Stalls s t die core 4 (.hold v1.toNat v2.toNat) ∧ OnlyIn [.cores] s t))
      ∧ (AtXenh s die core 1025 rd v1 v2 → signalOk v2 = false → refused (.xksigRel die core) 0x0102)
      ∧ (AtXenh s die core 1026 rd v1 v2 → v2.toNat < 2 ^ 31 → corePosted s die core < 16 → Completes (.xkrst die core) s (fun t => Retires s t die core 0 0 ∧ sent t 4 false ∧ OnlyIn [.cores, .net, .tel] s t))
      ∧ (AtXenh s die core 1026 rd v1 v2 → v2.toNat < 2 ^ 31 → 16 ≤ corePosted s die core → Completes (.xkrst die core) s (OnlyIn [] s))
      ∧ (AtXenh s die core 1026 rd v1 v2 → 2 ^ 31 ≤ v2.toNat → refused (.xkrst die core) 0x0102)
      ∧ (AtXenh s die core 1152 rd v1 v2 → 1 ≤ v2.toNat → v2.toNat < 2 ^ 31 → Completes (.xkwaitc die core) s (fun t => Stalls s t die core 4 (.kettle id rd false) ∧ sent t 2 false ∧ OnlyIn [.cores, .net] s t))
      ∧ (AtXenh s die core 1152 rd v1 v2 → (v2.toNat = 0 ∨ 2 ^ 31 ≤ v2.toNat) → refused (.xkwaitc die core) 0x0102)
      ∧ (AtXenh s die core 1153 rd v1 v2 → 1 ≤ v2.toNat → v2.toNat < 2 ^ 31 → Completes (.xkwaito die core) s (fun t => Stalls s t die core 4 (.kettle id rd false) ∧ sent t 3 false ∧ OnlyIn [.cores, .net] s t))
      ∧ (AtXenh s die core 1153 rd v1 v2 → (v2.toNat = 0 ∨ 2 ^ 31 ≤ v2.toNat) → refused (.xkwaito die core) 0x0102))
    ∧ (AtXenh s die core 1280 rd v1 v2 → (done true false false → Completes (.xfenceStream die core) s (fun t => Retires s t die core 0 0 ∧ OnlyIn [.cores, .tel] s t))
      ∧ (¬ done true false false → Completes (.xfenceStream die core) s (fun t => Stalls s t die core 4 (.fence true false false) ∧ OnlyIn [.cores] s t)))
    ∧ (AtXenh s die core 1281 rd v1 v2 → (done false true false → Completes (.xfenceMull die core) s (fun t => Retires s t die core 0 0 ∧ OnlyIn [.cores, .tel] s t))
      ∧ (¬ done false true false → Completes (.xfenceMull die core) s (fun t => Stalls s t die core 4 (.fence false true false) ∧ OnlyIn [.cores] s t)))
    ∧ (AtXenh s die core 1282 rd v1 v2 → (done false false true → Completes (.xfenceHost die core) s (fun t => Retires s t die core 0 0 ∧ OnlyIn [.cores, .tel] s t))
      ∧ (¬ done false false true → Completes (.xfenceHost die core) s (fun t => Stalls s t die core 4 (.fence false false true) ∧ OnlyIn [.cores] s t)))
    ∧ (AtXenh s die core 1283 rd v1 v2 → (done true true true → Completes (.xfenceFull die core) s (fun t => Retires s t die core 0 0 ∧ OnlyIn [.cores, .tel] s t))
      ∧ (¬ done true true true → Completes (.xfenceFull die core) s (fun t => Stalls s t die core 4 (.fence true true true) ∧ OnlyIn [.cores] s t)))
    ∧ (AtXenh s die core 1408 rd v1 v2 → Completes (.xts die core) s (fun t => Retires s t die core rd (x64 s.now) ∧ OnlyIn [.cores, .tel] s t))
    ∧ (∀ e, isDie die = true → c.wait = .hold v1.toNat v2.toNat → rankEp s job v1.toNat = some e →
      (done true true true → Completes (.fenceComplete (coreEp die core)) s (fun t => coreOf t die core = { c with pc := c.pc + x64 4, lastPc := c.pc, instret := c.instret + 1, wait := .none }
        ∧ Requested s t (coreEp die core) core job 4 e (kettleArg 1 true v2.toNat) [] ∧ OnlyIn [.cores, .net, .tel] s t))
      ∧ (¬ done true true true → Completes (.fenceComplete (coreEp die core)) s (OnlyIn [] s)))
    ∧ (∀ a b h, isDie die = true → c.wait = .fence a b h →
      (done a b h → Completes (.fenceComplete (coreEp die core)) s (fun t => coreOf t die core = { c with pc := c.pc + x64 4, lastPc := c.pc, instret := c.instret + 1, wait := .none } ∧ OnlyIn [.cores, .tel] s t))
      ∧ (¬ done a b h → Completes (.fenceComplete (coreEp die core)) s (OnlyIn [] s)))
    ∧ (∀ q x, fencing s q = some x → hostFenceDone s q x.fence = true → behind (qOf s q) x = false → (qOf s q).cmd? x.seq = some x → Completes (.fenceComplete (hostEp q)) s (fun t => (qOf t q).cmd? x.seq = some { x with stage := .fenced } ∧ OnlyIn [.queues, .net] s t))
  ) ∧ (
  ∀ (s : State) (die core rd : Nat) (v1 v2 : BitVec 64) (u : SeqUnit), core < 64 → coreSeq s die core = some u → s.memoryOk →
    let readable (a : BitVec 64) : Prop := xenhOperand s die core a.toNat 32 32 1 = none ∧ Tab.find? (clusterAddr die a.toNat) s.flips = none
    let image (a : BitVec 64) : Nat := (wordAt s.mem (clusterAddr die a.toNat)).toNat
    let frame (t : State) : Prop := OnlyIn [.cores, .seqs, .tel] s t
    (∀ k, AtXenh s die core 256 rd v1 v2 → readable v1 → imageOk u (image v1) = true → k < 16384 → Tab.find? k u.table = none → u.retired.contains k = false → (∀ j, j < k → Tab.find? j u.table ≠ none ∨ u.retired.contains j = true) →
      Completes (.xsqadd die core) s (fun t => Retires s t die core rd (x64 k) ∧ Tab.find? k (seqOf t die).table = some (entryWith (setFld 0 32 8 u.step) (image v1))
        ∧ (∀ j, j ≠ k → Tab.find? j (seqOf t die).table = Tab.find? j u.table) ∧ frame t))
    ∧ (AtXenh s die core 256 rd v1 v2 → readable v1 → imageOk u (image v1) = false → Completes (.xsqadd die core) s (fun t => Retires s t die core rd (x64 (2 ^ 63 + 0x0102)) ∧ OnlyIn [.cores, .tel] s t))
    ∧ (AtXenh s die core 256 rd v1 v2 → readable v1 → imageOk u (image v1) = true → (∀ k, k < 16384 → Tab.find? k u.table ≠ none ∨ u.retired.contains k = true) → Completes (.xsqadd die core) s (fun t =>
      Retires s t die core rd (x64 (2 ^ 63 + 0x0208)) ∧ OnlyIn [.cores, .tel] s t))
    ∧ (∀ e, AtXenh s die core 257 rd v1 v2 → Tab.find? v1.toNat u.table = some e → Completes (.xsqret die core) s (fun t => Retires s t die core rd 0
        ∧ Tab.find? v1.toNat (seqOf t die).table = none ∧ (seqOf t die).retired = u.retired ++ [v1.toNat] ∧ (∀ j, j ≠ v1.toNat → Tab.find? j (seqOf t die).table = Tab.find? j u.table) ∧ frame t))
    ∧ (AtXenh s die core 257 rd v1 v2 → Tab.find? v1.toNat u.table = none → Completes (.xsqret die core) s (fun t => Retires s t die core rd 0x0301 ∧ OnlyIn [.cores, .tel] s t))
    ∧ (∀ e, AtXenh s die core 258 rd v1 v2 → readable v2 → imageOk u (image v2) = true → Tab.find? v1.toNat u.table = some e → Completes (.xsqupd die core) s (fun t => Retires s t die core rd 0
        ∧ Tab.find? v1.toNat (seqOf t die).table = some (entryWith e.toNat (image v2)) ∧ (∀ j, j ≠ v1.toNat → Tab.find? j (seqOf t die).table = Tab.find? j u.table) ∧ frame t))
    ∧ (AtXenh s die core 258 rd v1 v2 → readable v2 → Tab.find? v1.toNat u.table = none → Completes (.xsqupd die core) s (fun t => Retires s t die core rd 0x0301 ∧ OnlyIn [.cores, .tel] s t))
    ∧ (∀ e, AtXenh s die core 258 rd v1 v2 → readable v2 → imageOk u (image v2) = false → Tab.find? v1.toNat u.table = some e → Completes (.xsqupd die core) s (fun t => Retires s t die core rd 0x0102 ∧ OnlyIn [.cores, .tel] s t))
    ∧ (AtXenh s die core 259 rd v1 v2 → xenhOperand s die core v2.toNat 64 32 2 = none → Tab.find? v1.toNat u.table = none → Completes (.xsqread die core) s (fun t => Retires s t die core rd 0x0301 ∧ OnlyIn [.cores, .tel] s t))
    ∧ (∀ e, AtXenh s die core 259 rd v1 v2 → xenhOperand s die core v2.toNat 64 32 2 = none → Tab.find? v1.toNat u.table = some e → Completes (.xsqread die core) s (fun t =>
        wordAt t.mem (clusterAddr die v2.toNat) = BitVec.ofNat 256 e.toNat ∧ wordAt t.mem (clusterAddr die v2.toNat + 32) = BitVec.ofNat 256 (e.toNat / 2 ^ 256) ∧ outside (clusterAddr die v2.toNat) 64 s t
          ∧ (coreOf t die core).pc = (coreOf s die core).pc + x64 4 ∧ (coreOf t die core).x = ((coreOf s die core).put rd 0).x ∧ OnlyIn [.cores, .mem, .flips, .tel] s t))
  )
end

