-- ==== Sys2Proof/Laws/State.lean ====
section
/-! SUPPORT. Sys2Proof/Laws/State.lean: the plain updates of the state, one lemma for each field that an update leaves as it was. -/

namespace Sys2Proof.Machine

@[simp] theorem setPage_pending (s : State) (key : Nat) (p : Page) : (setPage s key p).pending = s.pending := by simp only [setPage]
@[simp] theorem setPage_now (s : State) (key : Nat) (p : Page) : (setPage s key p).now = s.now := by simp only [setPage]
@[simp] theorem setPage_freeCtr (s : State) (key : Nat) (p : Page) : (setPage s key p).freeCtr = s.freeCtr := by simp only [setPage]
@[simp] theorem setPage_mem (s : State) (key : Nat) (p : Page) : (setPage s key p).mem = s.mem := by simp only [setPage]
@[simp] theorem setPage_flips (s : State) (key : Nat) (p : Page) : (setPage s key p).flips = s.flips := by simp only [setPage]
@[simp] theorem setPage_flash (s : State) (key : Nat) (p : Page) : (setPage s key p).flash = s.flash := by simp only [setPage]
@[simp] theorem setPage_goodDies (s : State) (key : Nat) (p : Page) : (setPage s key p).goodDies = s.goodDies := by simp only [setPage]
@[simp] theorem setPage_goodFar (s : State) (key : Nat) (p : Page) : (setPage s key p).goodFar = s.goodFar := by simp only [setPage]
@[simp] theorem setPage_dies (s : State) (key : Nat) (p : Page) : (setPage s key p).dies = s.dies := by simp only [setPage]
@[simp] theorem setPage_kettles (s : State) (key : Nat) (p : Page) : (setPage s key p).kettles = s.kettles := by simp only [setPage]
@[simp] theorem setPage_net (s : State) (key : Nat) (p : Page) : (setPage s key p).net = s.net := by simp only [setPage]
@[simp] theorem setPage_ev (s : State) (key : Nat) (p : Page) : (setPage s key p).ev = s.ev := by simp only [setPage]
@[simp] theorem setPage_tel (s : State) (key : Nat) (p : Page) : (setPage s key p).tel = s.tel := by simp only [setPage]
@[simp] theorem setPage_lastFault (s : State) (key : Nat) (p : Page) : (setPage s key p).lastFault = s.lastFault := by simp only [setPage]
@[simp] theorem setPage_sTiles (s : State) (key : Nat) (p : Page) : (setPage s key p).sTiles = s.sTiles := by simp only [setPage]
@[simp] theorem setPage_mTiles (s : State) (key : Nat) (p : Page) : (setPage s key p).mTiles = s.mTiles := by simp only [setPage]
@[simp] theorem setPage_host (s : State) (key : Nat) (p : Page) : (setPage s key p).host = s.host := by simp only [setPage]
@[simp] theorem setPage_vTiles (s : State) (key : Nat) (p : Page) : (setPage s key p).vTiles = s.vTiles := by simp only [setPage]
@[simp] theorem setPage_fTiles (s : State) (key : Nat) (p : Page) : (setPage s key p).fTiles = s.fTiles := by simp only [setPage]
@[simp] theorem setPage_grain (s : State) (key : Nat) (p : Page) : (setPage s key p).grain = s.grain := by simp only [setPage]
@[simp] theorem setPage_engines (s : State) (key : Nat) (p : Page) : (setPage s key p).engines = s.engines := by simp only [setPage]
@[simp] theorem setPage_queues (s : State) (key : Nat) (p : Page) : (setPage s key p).queues = s.queues := by simp only [setPage]
@[simp] theorem setPage_link (s : State) (key : Nat) (p : Page) : (setPage s key p).link = s.link := by simp only [setPage]
@[simp] theorem setPage_decoders (s : State) (key : Nat) (p : Page) : (setPage s key p).decoders = s.decoders := by simp only [setPage]
@[simp] theorem setPage_evtRing (s : State) (key : Nat) (p : Page) : (setPage s key p).evtRing = s.evtRing := by simp only [setPage]
@[simp] theorem setPage_msix (s : State) (key : Nat) (p : Page) : (setPage s key p).msix = s.msix := by simp only [setPage]
@[simp] theorem setPage_msixPending (s : State) (key : Nat) (p : Page) : (setPage s key p).msixPending = s.msixPending := by simp only [setPage]
@[simp] theorem setPage_out (s : State) (key : Nat) (p : Page) : (setPage s key p).out = s.out := by simp only [setPage]
@[simp] theorem setPage_biLines (s : State) (key : Nat) (p : Page) : (setPage s key p).biLines = s.biLines := by simp only [setPage]
@[simp] theorem setPage_biOld (s : State) (key : Nat) (p : Page) : (setPage s key p).biOld = s.biOld := by simp only [setPage]
@[simp] theorem setPage_mapVector (s : State) (key : Nat) (p : Page) : (setPage s key p).mapVector = s.mapVector := by simp only [setPage]
@[simp] theorem setPage_bar0 (s : State) (key : Nat) (p : Page) : (setPage s key p).bar0 = s.bar0 := by simp only [setPage]
@[simp] theorem setPage_cores (s : State) (key : Nat) (p : Page) : (setPage s key p).cores = s.cores := by simp only [setPage]
@[simp] theorem setPage_boot (s : State) (key : Nat) (p : Page) : (setPage s key p).boot = s.boot := by simp only [setPage]
@[simp] theorem setPage_pwr (s : State) (key : Nat) (p : Page) : (setPage s key p).pwr = s.pwr := by simp only [setPage]
@[simp] theorem setPage_pair (s : State) (key : Nat) (p : Page) : (setPage s key p).pair = s.pair := by simp only [setPage]
@[simp] theorem setPage_seqs (s : State) (key : Nat) (p : Page) : (setPage s key p).seqs = s.seqs := by simp only [setPage]
@[simp] theorem setPage_regions (s : State) (key : Nat) (p : Page) : (setPage s key p).regions = s.regions := by simp only [setPage]
@[simp] theorem setPage_jobs (s : State) (key : Nat) (p : Page) : (setPage s key p).jobs = s.jobs := by simp only [setPage]
@[simp] theorem setPage_cfg (s : State) (key : Nat) (p : Page) : (setPage s key p).cfg = s.cfg := by simp only [setPage]

@[simp] theorem modDie_pending (s : State) (die : Nat) (f : Die → Die) : (modDie s die f).pending = s.pending := by simp only [modDie]
@[simp] theorem modDie_now (s : State) (die : Nat) (f : Die → Die) : (modDie s die f).now = s.now := by simp only [modDie]
@[simp] theorem modDie_freeCtr (s : State) (die : Nat) (f : Die → Die) : (modDie s die f).freeCtr = s.freeCtr := by simp only [modDie]
@[simp] theorem modDie_mem (s : State) (die : Nat) (f : Die → Die) : (modDie s die f).mem = s.mem := by simp only [modDie]
@[simp] theorem modDie_flips (s : State) (die : Nat) (f : Die → Die) : (modDie s die f).flips = s.flips := by simp only [modDie]
@[simp] theorem modDie_flash (s : State) (die : Nat) (f : Die → Die) : (modDie s die f).flash = s.flash := by simp only [modDie]
@[simp] theorem modDie_pages (s : State) (die : Nat) (f : Die → Die) : (modDie s die f).pages = s.pages := by simp only [modDie]
@[simp] theorem modDie_goodDies (s : State) (die : Nat) (f : Die → Die) : (modDie s die f).goodDies = s.goodDies := by simp only [modDie]
@[simp] theorem modDie_goodFar (s : State) (die : Nat) (f : Die → Die) : (modDie s die f).goodFar = s.goodFar := by simp only [modDie]
@[simp] theorem modDie_kettles (s : State) (die : Nat) (f : Die → Die) : (modDie s die f).kettles = s.kettles := by simp only [modDie]
@[simp] theorem modDie_net (s : State) (die : Nat) (f : Die → Die) : (modDie s die f).net = s.net := by simp only [modDie]
@[simp] theorem modDie_ev (s : State) (die : Nat) (f : Die → Die) : (modDie s die f).ev = s.ev := by simp only [modDie]
@[simp] theorem modDie_tel (s : State) (die : Nat) (f : Die → Die) : (modDie s die f).tel = s.tel := by simp only [modDie]
@[simp] theorem modDie_lastFault (s : State) (die : Nat) (f : Die → Die) : (modDie s die f).lastFault = s.lastFault := by simp only [modDie]
@[simp] theorem modDie_sTiles (s : State) (die : Nat) (f : Die → Die) : (modDie s die f).sTiles = s.sTiles := by simp only [modDie]
@[simp] theorem modDie_mTiles (s : State) (die : Nat) (f : Die → Die) : (modDie s die f).mTiles = s.mTiles := by simp only [modDie]
@[simp] theorem modDie_host (s : State) (die : Nat) (f : Die → Die) : (modDie s die f).host = s.host := by simp only [modDie]
@[simp] theorem modDie_vTiles (s : State) (die : Nat) (f : Die → Die) : (modDie s die f).vTiles = s.vTiles := by simp only [modDie]
@[simp] theorem modDie_fTiles (s : State) (die : Nat) (f : Die → Die) : (modDie s die f).fTiles = s.fTiles := by simp only [modDie]
@[simp] theorem modDie_grain (s : State) (die : Nat) (f : Die → Die) : (modDie s die f).grain = s.grain := by simp only [modDie]
@[simp] theorem modDie_engines (s : State) (die : Nat) (f : Die → Die) : (modDie s die f).engines = s.engines := by simp only [modDie]
@[simp] theorem modDie_queues (s : State) (die : Nat) (f : Die → Die) : (modDie s die f).queues = s.queues := by simp only [modDie]
@[simp] theorem modDie_link (s : State) (die : Nat) (f : Die → Die) : (modDie s die f).link = s.link := by simp only [modDie]
@[simp] theorem modDie_decoders (s : State) (die : Nat) (f : Die → Die) : (modDie s die f).decoders = s.decoders := by simp only [modDie]
@[simp] theorem modDie_evtRing (s : State) (die : Nat) (f : Die → Die) : (modDie s die f).evtRing = s.evtRing := by simp only [modDie]
@[simp] theorem modDie_msix (s : State) (die : Nat) (f : Die → Die) : (modDie s die f).msix = s.msix := by simp only [modDie]
@[simp] theorem modDie_msixPending (s : State) (die : Nat) (f : Die → Die) : (modDie s die f).msixPending = s.msixPending := by simp only [modDie]
@[simp] theorem modDie_out (s : State) (die : Nat) (f : Die → Die) : (modDie s die f).out = s.out := by simp only [modDie]
@[simp] theorem modDie_biLines (s : State) (die : Nat) (f : Die → Die) : (modDie s die f).biLines = s.biLines := by simp only [modDie]
@[simp] theorem modDie_biOld (s : State) (die : Nat) (f : Die → Die) : (modDie s die f).biOld = s.biOld := by simp only [modDie]
@[simp] theorem modDie_mapVector (s : State) (die : Nat) (f : Die → Die) : (modDie s die f).mapVector = s.mapVector := by simp only [modDie]
@[simp] theorem modDie_bar0 (s : State) (die : Nat) (f : Die → Die) : (modDie s die f).bar0 = s.bar0 := by simp only [modDie]
@[simp] theorem modDie_cores (s : State) (die : Nat) (f : Die → Die) : (modDie s die f).cores = s.cores := by simp only [modDie]
@[simp] theorem modDie_boot (s : State) (die : Nat) (f : Die → Die) : (modDie s die f).boot = s.boot := by simp only [modDie]
@[simp] theorem modDie_pwr (s : State) (die : Nat) (f : Die → Die) : (modDie s die f).pwr = s.pwr := by simp only [modDie]
@[simp] theorem modDie_pair (s : State) (die : Nat) (f : Die → Die) : (modDie s die f).pair = s.pair := by simp only [modDie]
@[simp] theorem modDie_seqs (s : State) (die : Nat) (f : Die → Die) : (modDie s die f).seqs = s.seqs := by simp only [modDie]
@[simp] theorem modDie_regions (s : State) (die : Nat) (f : Die → Die) : (modDie s die f).regions = s.regions := by simp only [modDie]
@[simp] theorem modDie_jobs (s : State) (die : Nat) (f : Die → Die) : (modDie s die f).jobs = s.jobs := by simp only [modDie]
@[simp] theorem modDie_cfg (s : State) (die : Nat) (f : Die → Die) : (modDie s die f).cfg = s.cfg := by simp only [modDie]

@[simp] theorem setKt_pending (s : State) (die : Nat) (u : KettleUnit) : (setKt s die u).pending = s.pending := by simp only [setKt]
@[simp] theorem setKt_now (s : State) (die : Nat) (u : KettleUnit) : (setKt s die u).now = s.now := by simp only [setKt]
@[simp] theorem setKt_freeCtr (s : State) (die : Nat) (u : KettleUnit) : (setKt s die u).freeCtr = s.freeCtr := by simp only [setKt]
@[simp] theorem setKt_mem (s : State) (die : Nat) (u : KettleUnit) : (setKt s die u).mem = s.mem := by simp only [setKt]
@[simp] theorem setKt_flips (s : State) (die : Nat) (u : KettleUnit) : (setKt s die u).flips = s.flips := by simp only [setKt]
@[simp] theorem setKt_flash (s : State) (die : Nat) (u : KettleUnit) : (setKt s die u).flash = s.flash := by simp only [setKt]
@[simp] theorem setKt_pages (s : State) (die : Nat) (u : KettleUnit) : (setKt s die u).pages = s.pages := by simp only [setKt]
@[simp] theorem setKt_goodDies (s : State) (die : Nat) (u : KettleUnit) : (setKt s die u).goodDies = s.goodDies := by simp only [setKt]
@[simp] theorem setKt_goodFar (s : State) (die : Nat) (u : KettleUnit) : (setKt s die u).goodFar = s.goodFar := by simp only [setKt]
@[simp] theorem setKt_dies (s : State) (die : Nat) (u : KettleUnit) : (setKt s die u).dies = s.dies := by simp only [setKt]
@[simp] theorem setKt_net (s : State) (die : Nat) (u : KettleUnit) : (setKt s die u).net = s.net := by simp only [setKt]
@[simp] theorem setKt_ev (s : State) (die : Nat) (u : KettleUnit) : (setKt s die u).ev = s.ev := by simp only [setKt]
@[simp] theorem setKt_tel (s : State) (die : Nat) (u : KettleUnit) : (setKt s die u).tel = s.tel := by simp only [setKt]
@[simp] theorem setKt_lastFault (s : State) (die : Nat) (u : KettleUnit) : (setKt s die u).lastFault = s.lastFault := by simp only [setKt]
@[simp] theorem setKt_sTiles (s : State) (die : Nat) (u : KettleUnit) : (setKt s die u).sTiles = s.sTiles := by simp only [setKt]
@[simp] theorem setKt_mTiles (s : State) (die : Nat) (u : KettleUnit) : (setKt s die u).mTiles = s.mTiles := by simp only [setKt]
@[simp] theorem setKt_host (s : State) (die : Nat) (u : KettleUnit) : (setKt s die u).host = s.host := by simp only [setKt]
@[simp] theorem setKt_vTiles (s : State) (die : Nat) (u : KettleUnit) : (setKt s die u).vTiles = s.vTiles := by simp only [setKt]
@[simp] theorem setKt_fTiles (s : State) (die : Nat) (u : KettleUnit) : (setKt s die u).fTiles = s.fTiles := by simp only [setKt]
@[simp] theorem setKt_grain (s : State) (die : Nat) (u : KettleUnit) : (setKt s die u).grain = s.grain := by simp only [setKt]
@[simp] theorem setKt_engines (s : State) (die : Nat) (u : KettleUnit) : (setKt s die u).engines = s.engines := by simp only [setKt]
@[simp] theorem setKt_queues (s : State) (die : Nat) (u : KettleUnit) : (setKt s die u).queues = s.queues := by simp only [setKt]
@[simp] theorem setKt_link (s : State) (die : Nat) (u : KettleUnit) : (setKt s die u).link = s.link := by simp only [setKt]
@[simp] theorem setKt_decoders (s : State) (die : Nat) (u : KettleUnit) : (setKt s die u).decoders = s.decoders := by simp only [setKt]
@[simp] theorem setKt_evtRing (s : State) (die : Nat) (u : KettleUnit) : (setKt s die u).evtRing = s.evtRing := by simp only [setKt]
@[simp] theorem setKt_msix (s : State) (die : Nat) (u : KettleUnit) : (setKt s die u).msix = s.msix := by simp only [setKt]
@[simp] theorem setKt_msixPending (s : State) (die : Nat) (u : KettleUnit) : (setKt s die u).msixPending = s.msixPending := by simp only [setKt]
@[simp] theorem setKt_out (s : State) (die : Nat) (u : KettleUnit) : (setKt s die u).out = s.out := by simp only [setKt]
@[simp] theorem setKt_biLines (s : State) (die : Nat) (u : KettleUnit) : (setKt s die u).biLines = s.biLines := by simp only [setKt]
@[simp] theorem setKt_biOld (s : State) (die : Nat) (u : KettleUnit) : (setKt s die u).biOld = s.biOld := by simp only [setKt]
@[simp] theorem setKt_mapVector (s : State) (die : Nat) (u : KettleUnit) : (setKt s die u).mapVector = s.mapVector := by simp only [setKt]
@[simp] theorem setKt_bar0 (s : State) (die : Nat) (u : KettleUnit) : (setKt s die u).bar0 = s.bar0 := by simp only [setKt]
@[simp] theorem setKt_cores (s : State) (die : Nat) (u : KettleUnit) : (setKt s die u).cores = s.cores := by simp only [setKt]
@[simp] theorem setKt_boot (s : State) (die : Nat) (u : KettleUnit) : (setKt s die u).boot = s.boot := by simp only [setKt]
@[simp] theorem setKt_pwr (s : State) (die : Nat) (u : KettleUnit) : (setKt s die u).pwr = s.pwr := by simp only [setKt]
@[simp] theorem setKt_pair (s : State) (die : Nat) (u : KettleUnit) : (setKt s die u).pair = s.pair := by simp only [setKt]
@[simp] theorem setKt_seqs (s : State) (die : Nat) (u : KettleUnit) : (setKt s die u).seqs = s.seqs := by simp only [setKt]
@[simp] theorem setKt_regions (s : State) (die : Nat) (u : KettleUnit) : (setKt s die u).regions = s.regions := by simp only [setKt]
@[simp] theorem setKt_jobs (s : State) (die : Nat) (u : KettleUnit) : (setKt s die u).jobs = s.jobs := by simp only [setKt]
@[simp] theorem setKt_cfg (s : State) (die : Nat) (u : KettleUnit) : (setKt s die u).cfg = s.cfg := by simp only [setKt]

@[simp] theorem modNi_pending (s : State) (die site : Nat) (f : Ni → Ni) : (modNi s die site f).pending = s.pending := by simp only [modNi]
@[simp] theorem modNi_now (s : State) (die site : Nat) (f : Ni → Ni) : (modNi s die site f).now = s.now := by simp only [modNi]
@[simp] theorem modNi_freeCtr (s : State) (die site : Nat) (f : Ni → Ni) : (modNi s die site f).freeCtr = s.freeCtr := by simp only [modNi]
@[simp] theorem modNi_mem (s : State) (die site : Nat) (f : Ni → Ni) : (modNi s die site f).mem = s.mem := by simp only [modNi]
@[simp] theorem modNi_flips (s : State) (die site : Nat) (f : Ni → Ni) : (modNi s die site f).flips = s.flips := by simp only [modNi]
@[simp] theorem modNi_flash (s : State) (die site : Nat) (f : Ni → Ni) : (modNi s die site f).flash = s.flash := by simp only [modNi]
@[simp] theorem modNi_pages (s : State) (die site : Nat) (f : Ni → Ni) : (modNi s die site f).pages = s.pages := by simp only [modNi]
@[simp] theorem modNi_goodDies (s : State) (die site : Nat) (f : Ni → Ni) : (modNi s die site f).goodDies = s.goodDies := by simp only [modNi]
@[simp] theorem modNi_goodFar (s : State) (die site : Nat) (f : Ni → Ni) : (modNi s die site f).goodFar = s.goodFar := by simp only [modNi]
@[simp] theorem modNi_dies (s : State) (die site : Nat) (f : Ni → Ni) : (modNi s die site f).dies = s.dies := by simp only [modNi]
@[simp] theorem modNi_kettles (s : State) (die site : Nat) (f : Ni → Ni) : (modNi s die site f).kettles = s.kettles := by simp only [modNi]
@[simp] theorem modNi_ev (s : State) (die site : Nat) (f : Ni → Ni) : (modNi s die site f).ev = s.ev := by simp only [modNi]
@[simp] theorem modNi_tel (s : State) (die site : Nat) (f : Ni → Ni) : (modNi s die site f).tel = s.tel := by simp only [modNi]
@[simp] theorem modNi_lastFault (s : State) (die site : Nat) (f : Ni → Ni) : (modNi s die site f).lastFault = s.lastFault := by simp only [modNi]
@[simp] theorem modNi_sTiles (s : State) (die site : Nat) (f : Ni → Ni) : (modNi s die site f).sTiles = s.sTiles := by simp only [modNi]
@[simp] theorem modNi_mTiles (s : State) (die site : Nat) (f : Ni → Ni) : (modNi s die site f).mTiles = s.mTiles := by simp only [modNi]
@[simp] theorem modNi_host (s : State) (die site : Nat) (f : Ni → Ni) : (modNi s die site f).host = s.host := by simp only [modNi]
@[simp] theorem modNi_vTiles (s : State) (die site : Nat) (f : Ni → Ni) : (modNi s die site f).vTiles = s.vTiles := by simp only [modNi]
@[simp] theorem modNi_fTiles (s : State) (die site : Nat) (f : Ni → Ni) : (modNi s die site f).fTiles = s.fTiles := by simp only [modNi]
@[simp] theorem modNi_grain (s : State) (die site : Nat) (f : Ni → Ni) : (modNi s die site f).grain = s.grain := by simp only [modNi]
@[simp] theorem modNi_engines (s : State) (die site : Nat) (f : Ni → Ni) : (modNi s die site f).engines = s.engines := by simp only [modNi]
@[simp] theorem modNi_queues (s : State) (die site : Nat) (f : Ni → Ni) : (modNi s die site f).queues = s.queues := by simp only [modNi]
@[simp] theorem modNi_link (s : State) (die site : Nat) (f : Ni → Ni) : (modNi s die site f).link = s.link := by simp only [modNi]
@[simp] theorem modNi_decoders (s : State) (die site : Nat) (f : Ni → Ni) : (modNi s die site f).decoders = s.decoders := by simp only [modNi]
@[simp] theorem modNi_evtRing (s : State) (die site : Nat) (f : Ni → Ni) : (modNi s die site f).evtRing = s.evtRing := by simp only [modNi]
@[simp] theorem modNi_msix (s : State) (die site : Nat) (f : Ni → Ni) : (modNi s die site f).msix = s.msix := by simp only [modNi]
@[simp] theorem modNi_msixPending (s : State) (die site : Nat) (f : Ni → Ni) : (modNi s die site f).msixPending = s.msixPending := by simp only [modNi]
@[simp] theorem modNi_out (s : State) (die site : Nat) (f : Ni → Ni) : (modNi s die site f).out = s.out := by simp only [modNi]
@[simp] theorem modNi_biLines (s : State) (die site : Nat) (f : Ni → Ni) : (modNi s die site f).biLines = s.biLines := by simp only [modNi]
@[simp] theorem modNi_biOld (s : State) (die site : Nat) (f : Ni → Ni) : (modNi s die site f).biOld = s.biOld := by simp only [modNi]
@[simp] theorem modNi_mapVector (s : State) (die site : Nat) (f : Ni → Ni) : (modNi s die site f).mapVector = s.mapVector := by simp only [modNi]
@[simp] theorem modNi_bar0 (s : State) (die site : Nat) (f : Ni → Ni) : (modNi s die site f).bar0 = s.bar0 := by simp only [modNi]
@[simp] theorem modNi_cores (s : State) (die site : Nat) (f : Ni → Ni) : (modNi s die site f).cores = s.cores := by simp only [modNi]
@[simp] theorem modNi_boot (s : State) (die site : Nat) (f : Ni → Ni) : (modNi s die site f).boot = s.boot := by simp only [modNi]
@[simp] theorem modNi_pwr (s : State) (die site : Nat) (f : Ni → Ni) : (modNi s die site f).pwr = s.pwr := by simp only [modNi]
@[simp] theorem modNi_pair (s : State) (die site : Nat) (f : Ni → Ni) : (modNi s die site f).pair = s.pair := by simp only [modNi]
@[simp] theorem modNi_seqs (s : State) (die site : Nat) (f : Ni → Ni) : (modNi s die site f).seqs = s.seqs := by simp only [modNi]
@[simp] theorem modNi_regions (s : State) (die site : Nat) (f : Ni → Ni) : (modNi s die site f).regions = s.regions := by simp only [modNi]
@[simp] theorem modNi_jobs (s : State) (die site : Nat) (f : Ni → Ni) : (modNi s die site f).jobs = s.jobs := by simp only [modNi]
@[simp] theorem modNi_cfg (s : State) (die site : Nat) (f : Ni → Ni) : (modNi s die site f).cfg = s.cfg := by simp only [modNi]

@[simp] theorem modJob_pending (s : State) (j : Nat) (f : Job → Job) : (modJob s j f).pending = s.pending := by simp only [modJob]
@[simp] theorem modJob_now (s : State) (j : Nat) (f : Job → Job) : (modJob s j f).now = s.now := by simp only [modJob]
@[simp] theorem modJob_freeCtr (s : State) (j : Nat) (f : Job → Job) : (modJob s j f).freeCtr = s.freeCtr := by simp only [modJob]
@[simp] theorem modJob_mem (s : State) (j : Nat) (f : Job → Job) : (modJob s j f).mem = s.mem := by simp only [modJob]
@[simp] theorem modJob_flips (s : State) (j : Nat) (f : Job → Job) : (modJob s j f).flips = s.flips := by simp only [modJob]
@[simp] theorem modJob_flash (s : State) (j : Nat) (f : Job → Job) : (modJob s j f).flash = s.flash := by simp only [modJob]
@[simp] theorem modJob_pages (s : State) (j : Nat) (f : Job → Job) : (modJob s j f).pages = s.pages := by simp only [modJob]
@[simp] theorem modJob_goodDies (s : State) (j : Nat) (f : Job → Job) : (modJob s j f).goodDies = s.goodDies := by simp only [modJob]
@[simp] theorem modJob_goodFar (s : State) (j : Nat) (f : Job → Job) : (modJob s j f).goodFar = s.goodFar := by simp only [modJob]
@[simp] theorem modJob_dies (s : State) (j : Nat) (f : Job → Job) : (modJob s j f).dies = s.dies := by simp only [modJob]
@[simp] theorem modJob_kettles (s : State) (j : Nat) (f : Job → Job) : (modJob s j f).kettles = s.kettles := by simp only [modJob]
@[simp] theorem modJob_net (s : State) (j : Nat) (f : Job → Job) : (modJob s j f).net = s.net := by simp only [modJob]
@[simp] theorem modJob_ev (s : State) (j : Nat) (f : Job → Job) : (modJob s j f).ev = s.ev := by simp only [modJob]
@[simp] theorem modJob_tel (s : State) (j : Nat) (f : Job → Job) : (modJob s j f).tel = s.tel := by simp only [modJob]
@[simp] theorem modJob_lastFault (s : State) (j : Nat) (f : Job → Job) : (modJob s j f).lastFault = s.lastFault := by simp only [modJob]
@[simp] theorem modJob_sTiles (s : State) (j : Nat) (f : Job → Job) : (modJob s j f).sTiles = s.sTiles := by simp only [modJob]
@[simp] theorem modJob_mTiles (s : State) (j : Nat) (f : Job → Job) : (modJob s j f).mTiles = s.mTiles := by simp only [modJob]
@[simp] theorem modJob_host (s : State) (j : Nat) (f : Job → Job) : (modJob s j f).host = s.host := by simp only [modJob]
@[simp] theorem modJob_vTiles (s : State) (j : Nat) (f : Job → Job) : (modJob s j f).vTiles = s.vTiles := by simp only [modJob]
@[simp] theorem modJob_fTiles (s : State) (j : Nat) (f : Job → Job) : (modJob s j f).fTiles = s.fTiles := by simp only [modJob]
@[simp] theorem modJob_grain (s : State) (j : Nat) (f : Job → Job) : (modJob s j f).grain = s.grain := by simp only [modJob]
@[simp] theorem modJob_engines (s : State) (j : Nat) (f : Job → Job) : (modJob s j f).engines = s.engines := by simp only [modJob]
@[simp] theorem modJob_queues (s : State) (j : Nat) (f : Job → Job) : (modJob s j f).queues = s.queues := by simp only [modJob]
@[simp] theorem modJob_link (s : State) (j : Nat) (f : Job → Job) : (modJob s j f).link = s.link := by simp only [modJob]
@[simp] theorem modJob_decoders (s : State) (j : Nat) (f : Job → Job) : (modJob s j f).decoders = s.decoders := by simp only [modJob]
@[simp] theorem modJob_evtRing (s : State) (j : Nat) (f : Job → Job) : (modJob s j f).evtRing = s.evtRing := by simp only [modJob]
@[simp] theorem modJob_msix (s : State) (j : Nat) (f : Job → Job) : (modJob s j f).msix = s.msix := by simp only [modJob]
@[simp] theorem modJob_msixPending (s : State) (j : Nat) (f : Job → Job) : (modJob s j f).msixPending = s.msixPending := by simp only [modJob]
@[simp] theorem modJob_out (s : State) (j : Nat) (f : Job → Job) : (modJob s j f).out = s.out := by simp only [modJob]
@[simp] theorem modJob_biLines (s : State) (j : Nat) (f : Job → Job) : (modJob s j f).biLines = s.biLines := by simp only [modJob]
@[simp] theorem modJob_biOld (s : State) (j : Nat) (f : Job → Job) : (modJob s j f).biOld = s.biOld := by simp only [modJob]
@[simp] theorem modJob_mapVector (s : State) (j : Nat) (f : Job → Job) : (modJob s j f).mapVector = s.mapVector := by simp only [modJob]
@[simp] theorem modJob_bar0 (s : State) (j : Nat) (f : Job → Job) : (modJob s j f).bar0 = s.bar0 := by simp only [modJob]
@[simp] theorem modJob_cores (s : State) (j : Nat) (f : Job → Job) : (modJob s j f).cores = s.cores := by simp only [modJob]
@[simp] theorem modJob_boot (s : State) (j : Nat) (f : Job → Job) : (modJob s j f).boot = s.boot := by simp only [modJob]
@[simp] theorem modJob_pwr (s : State) (j : Nat) (f : Job → Job) : (modJob s j f).pwr = s.pwr := by simp only [modJob]
@[simp] theorem modJob_pair (s : State) (j : Nat) (f : Job → Job) : (modJob s j f).pair = s.pair := by simp only [modJob]
@[simp] theorem modJob_seqs (s : State) (j : Nat) (f : Job → Job) : (modJob s j f).seqs = s.seqs := by simp only [modJob]
@[simp] theorem modJob_regions (s : State) (j : Nat) (f : Job → Job) : (modJob s j f).regions = s.regions := by simp only [modJob]
@[simp] theorem modJob_cfg (s : State) (j : Nat) (f : Job → Job) : (modJob s j f).cfg = s.cfg := by simp only [modJob]

@[simp] theorem setRegion_pending (s : State) (n : Nat) (r : Region) : (setRegion s n r).pending = s.pending := by simp only [setRegion]
@[simp] theorem setRegion_now (s : State) (n : Nat) (r : Region) : (setRegion s n r).now = s.now := by simp only [setRegion]
@[simp] theorem setRegion_freeCtr (s : State) (n : Nat) (r : Region) : (setRegion s n r).freeCtr = s.freeCtr := by simp only [setRegion]
@[simp] theorem setRegion_mem (s : State) (n : Nat) (r : Region) : (setRegion s n r).mem = s.mem := by simp only [setRegion]
@[simp] theorem setRegion_flips (s : State) (n : Nat) (r : Region) : (setRegion s n r).flips = s.flips := by simp only [setRegion]
@[simp] theorem setRegion_flash (s : State) (n : Nat) (r : Region) : (setRegion s n r).flash = s.flash := by simp only [setRegion]
@[simp] theorem setRegion_pages (s : State) (n : Nat) (r : Region) : (setRegion s n r).pages = s.pages := by simp only [setRegion]
@[simp] theorem setRegion_goodDies (s : State) (n : Nat) (r : Region) : (setRegion s n r).goodDies = s.goodDies := by simp only [setRegion]
@[simp] theorem setRegion_goodFar (s : State) (n : Nat) (r : Region) : (setRegion s n r).goodFar = s.goodFar := by simp only [setRegion]
@[simp] theorem setRegion_dies (s : State) (n : Nat) (r : Region) : (setRegion s n r).dies = s.dies := by simp only [setRegion]
@[simp] theorem setRegion_kettles (s : State) (n : Nat) (r : Region) : (setRegion s n r).kettles = s.kettles := by simp only [setRegion]
@[simp] theorem setRegion_net (s : State) (n : Nat) (r : Region) : (setRegion s n r).net = s.net := by simp only [setRegion]
@[simp] theorem setRegion_ev (s : State) (n : Nat) (r : Region) : (setRegion s n r).ev = s.ev := by simp only [setRegion]
@[simp] theorem setRegion_tel (s : State) (n : Nat) (r : Region) : (setRegion s n r).tel = s.tel := by simp only [setRegion]
@[simp] theorem setRegion_lastFault (s : State) (n : Nat) (r : Region) : (setRegion s n r).lastFault = s.lastFault := by simp only [setRegion]
@[simp] theorem setRegion_sTiles (s : State) (n : Nat) (r : Region) : (setRegion s n r).sTiles = s.sTiles := by simp only [setRegion]
@[simp] theorem setRegion_mTiles (s : State) (n : Nat) (r : Region) : (setRegion s n r).mTiles = s.mTiles := by simp only [setRegion]
@[simp] theorem setRegion_host (s : State) (n : Nat) (r : Region) : (setRegion s n r).host = s.host := by simp only [setRegion]
@[simp] theorem setRegion_vTiles (s : State) (n : Nat) (r : Region) : (setRegion s n r).vTiles = s.vTiles := by simp only [setRegion]
@[simp] theorem setRegion_fTiles (s : State) (n : Nat) (r : Region) : (setRegion s n r).fTiles = s.fTiles := by simp only [setRegion]
@[simp] theorem setRegion_grain (s : State) (n : Nat) (r : Region) : (setRegion s n r).grain = s.grain := by simp only [setRegion]
@[simp] theorem setRegion_engines (s : State) (n : Nat) (r : Region) : (setRegion s n r).engines = s.engines := by simp only [setRegion]
@[simp] theorem setRegion_queues (s : State) (n : Nat) (r : Region) : (setRegion s n r).queues = s.queues := by simp only [setRegion]
@[simp] theorem setRegion_link (s : State) (n : Nat) (r : Region) : (setRegion s n r).link = s.link := by simp only [setRegion]
@[simp] theorem setRegion_decoders (s : State) (n : Nat) (r : Region) : (setRegion s n r).decoders = s.decoders := by simp only [setRegion]
@[simp] theorem setRegion_evtRing (s : State) (n : Nat) (r : Region) : (setRegion s n r).evtRing = s.evtRing := by simp only [setRegion]
@[simp] theorem setRegion_msix (s : State) (n : Nat) (r : Region) : (setRegion s n r).msix = s.msix := by simp only [setRegion]
@[simp] theorem setRegion_msixPending (s : State) (n : Nat) (r : Region) : (setRegion s n r).msixPending = s.msixPending := by simp only [setRegion]
@[simp] theorem setRegion_out (s : State) (n : Nat) (r : Region) : (setRegion s n r).out = s.out := by simp only [setRegion]
@[simp] theorem setRegion_biLines (s : State) (n : Nat) (r : Region) : (setRegion s n r).biLines = s.biLines := by simp only [setRegion]
@[simp] theorem setRegion_biOld (s : State) (n : Nat) (r : Region) : (setRegion s n r).biOld = s.biOld := by simp only [setRegion]
@[simp] theorem setRegion_mapVector (s : State) (n : Nat) (r : Region) : (setRegion s n r).mapVector = s.mapVector := by simp only [setRegion]
@[simp] theorem setRegion_bar0 (s : State) (n : Nat) (r : Region) : (setRegion s n r).bar0 = s.bar0 := by simp only [setRegion]
@[simp] theorem setRegion_cores (s : State) (n : Nat) (r : Region) : (setRegion s n r).cores = s.cores := by simp only [setRegion]
@[simp] theorem setRegion_boot (s : State) (n : Nat) (r : Region) : (setRegion s n r).boot = s.boot := by simp only [setRegion]
@[simp] theorem setRegion_pwr (s : State) (n : Nat) (r : Region) : (setRegion s n r).pwr = s.pwr := by simp only [setRegion]
@[simp] theorem setRegion_pair (s : State) (n : Nat) (r : Region) : (setRegion s n r).pair = s.pair := by simp only [setRegion]
@[simp] theorem setRegion_seqs (s : State) (n : Nat) (r : Region) : (setRegion s n r).seqs = s.seqs := by simp only [setRegion]
@[simp] theorem setRegion_jobs (s : State) (n : Nat) (r : Region) : (setRegion s n r).jobs = s.jobs := by simp only [setRegion]
@[simp] theorem setRegion_cfg (s : State) (n : Nat) (r : Region) : (setRegion s n r).cfg = s.cfg := by simp only [setRegion]

@[simp] theorem setSp_pending (s : State) (die site : Nat) (t : STile) : (setSp s die site t).pending = s.pending := by simp only [setSp]
@[simp] theorem setSp_now (s : State) (die site : Nat) (t : STile) : (setSp s die site t).now = s.now := by simp only [setSp]
@[simp] theorem setSp_freeCtr (s : State) (die site : Nat) (t : STile) : (setSp s die site t).freeCtr = s.freeCtr := by simp only [setSp]
@[simp] theorem setSp_mem (s : State) (die site : Nat) (t : STile) : (setSp s die site t).mem = s.mem := by simp only [setSp]
@[simp] theorem setSp_flips (s : State) (die site : Nat) (t : STile) : (setSp s die site t).flips = s.flips := by simp only [setSp]
@[simp] theorem setSp_flash (s : State) (die site : Nat) (t : STile) : (setSp s die site t).flash = s.flash := by simp only [setSp]
@[simp] theorem setSp_pages (s : State) (die site : Nat) (t : STile) : (setSp s die site t).pages = s.pages := by simp only [setSp]
@[simp] theorem setSp_goodDies (s : State) (die site : Nat) (t : STile) : (setSp s die site t).goodDies = s.goodDies := by simp only [setSp]
@[simp] theorem setSp_goodFar (s : State) (die site : Nat) (t : STile) : (setSp s die site t).goodFar = s.goodFar := by simp only [setSp]
@[simp] theorem setSp_dies (s : State) (die site : Nat) (t : STile) : (setSp s die site t).dies = s.dies := by simp only [setSp]
@[simp] theorem setSp_kettles (s : State) (die site : Nat) (t : STile) : (setSp s die site t).kettles = s.kettles := by simp only [setSp]
@[simp] theorem setSp_net (s : State) (die site : Nat) (t : STile) : (setSp s die site t).net = s.net := by simp only [setSp]
@[simp] theorem setSp_ev (s : State) (die site : Nat) (t : STile) : (setSp s die site t).ev = s.ev := by simp only [setSp]
@[simp] theorem setSp_tel (s : State) (die site : Nat) (t : STile) : (setSp s die site t).tel = s.tel := by simp only [setSp]
@[simp] theorem setSp_lastFault (s : State) (die site : Nat) (t : STile) : (setSp s die site t).lastFault = s.lastFault := by simp only [setSp]
@[simp] theorem setSp_mTiles (s : State) (die site : Nat) (t : STile) : (setSp s die site t).mTiles = s.mTiles := by simp only [setSp]
@[simp] theorem setSp_host (s : State) (die site : Nat) (t : STile) : (setSp s die site t).host = s.host := by simp only [setSp]
@[simp] theorem setSp_vTiles (s : State) (die site : Nat) (t : STile) : (setSp s die site t).vTiles = s.vTiles := by simp only [setSp]
@[simp] theorem setSp_fTiles (s : State) (die site : Nat) (t : STile) : (setSp s die site t).fTiles = s.fTiles := by simp only [setSp]
@[simp] theorem setSp_grain (s : State) (die site : Nat) (t : STile) : (setSp s die site t).grain = s.grain := by simp only [setSp]
@[simp] theorem setSp_engines (s : State) (die site : Nat) (t : STile) : (setSp s die site t).engines = s.engines := by simp only [setSp]
@[simp] theorem setSp_queues (s : State) (die site : Nat) (t : STile) : (setSp s die site t).queues = s.queues := by simp only [setSp]
@[simp] theorem setSp_link (s : State) (die site : Nat) (t : STile) : (setSp s die site t).link = s.link := by simp only [setSp]
@[simp] theorem setSp_decoders (s : State) (die site : Nat) (t : STile) : (setSp s die site t).decoders = s.decoders := by simp only [setSp]
@[simp] theorem setSp_evtRing (s : State) (die site : Nat) (t : STile) : (setSp s die site t).evtRing = s.evtRing := by simp only [setSp]
@[simp] theorem setSp_msix (s : State) (die site : Nat) (t : STile) : (setSp s die site t).msix = s.msix := by simp only [setSp]
@[simp] theorem setSp_msixPending (s : State) (die site : Nat) (t : STile) : (setSp s die site t).msixPending = s.msixPending := by simp only [setSp]
@[simp] theorem setSp_out (s : State) (die site : Nat) (t : STile) : (setSp s die site t).out = s.out := by simp only [setSp]
@[simp] theorem setSp_biLines (s : State) (die site : Nat) (t : STile) : (setSp s die site t).biLines = s.biLines := by simp only [setSp]
@[simp] theorem setSp_biOld (s : State) (die site : Nat) (t : STile) : (setSp s die site t).biOld = s.biOld := by simp only [setSp]
@[simp] theorem setSp_mapVector (s : State) (die site : Nat) (t : STile) : (setSp s die site t).mapVector = s.mapVector := by simp only [setSp]
@[simp] theorem setSp_bar0 (s : State) (die site : Nat) (t : STile) : (setSp s die site t).bar0 = s.bar0 := by simp only [setSp]
@[simp] theorem setSp_cores (s : State) (die site : Nat) (t : STile) : (setSp s die site t).cores = s.cores := by simp only [setSp]
@[simp] theorem setSp_boot (s : State) (die site : Nat) (t : STile) : (setSp s die site t).boot = s.boot := by simp only [setSp]
@[simp] theorem setSp_pwr (s : State) (die site : Nat) (t : STile) : (setSp s die site t).pwr = s.pwr := by simp only [setSp]
@[simp] theorem setSp_pair (s : State) (die site : Nat) (t : STile) : (setSp s die site t).pair = s.pair := by simp only [setSp]
@[simp] theorem setSp_seqs (s : State) (die site : Nat) (t : STile) : (setSp s die site t).seqs = s.seqs := by simp only [setSp]
@[simp] theorem setSp_regions (s : State) (die site : Nat) (t : STile) : (setSp s die site t).regions = s.regions := by simp only [setSp]
@[simp] theorem setSp_jobs (s : State) (die site : Nat) (t : STile) : (setSp s die site t).jobs = s.jobs := by simp only [setSp]
@[simp] theorem setSp_cfg (s : State) (die site : Nat) (t : STile) : (setSp s die site t).cfg = s.cfg := by simp only [setSp]

@[simp] theorem setMt_pending (s : State) (die site : Nat) (t : MTile) : (setMt s die site t).pending = s.pending := by simp only [setMt]
@[simp] theorem setMt_now (s : State) (die site : Nat) (t : MTile) : (setMt s die site t).now = s.now := by simp only [setMt]
@[simp] theorem setMt_freeCtr (s : State) (die site : Nat) (t : MTile) : (setMt s die site t).freeCtr = s.freeCtr := by simp only [setMt]
@[simp] theorem setMt_mem (s : State) (die site : Nat) (t : MTile) : (setMt s die site t).mem = s.mem := by simp only [setMt]
@[simp] theorem setMt_flips (s : State) (die site : Nat) (t : MTile) : (setMt s die site t).flips = s.flips := by simp only [setMt]
@[simp] theorem setMt_flash (s : State) (die site : Nat) (t : MTile) : (setMt s die site t).flash = s.flash := by simp only [setMt]
@[simp] theorem setMt_pages (s : State) (die site : Nat) (t : MTile) : (setMt s die site t).pages = s.pages := by simp only [setMt]
@[simp] theorem setMt_goodDies (s : State) (die site : Nat) (t : MTile) : (setMt s die site t).goodDies = s.goodDies := by simp only [setMt]
@[simp] theorem setMt_goodFar (s : State) (die site : Nat) (t : MTile) : (setMt s die site t).goodFar = s.goodFar := by simp only [setMt]
@[simp] theorem setMt_dies (s : State) (die site : Nat) (t : MTile) : (setMt s die site t).dies = s.dies := by simp only [setMt]
@[simp] theorem setMt_kettles (s : State) (die site : Nat) (t : MTile) : (setMt s die site t).kettles = s.kettles := by simp only [setMt]
@[simp] theorem setMt_net (s : State) (die site : Nat) (t : MTile) : (setMt s die site t).net = s.net := by simp only [setMt]
@[simp] theorem setMt_ev (s : State) (die site : Nat) (t : MTile) : (setMt s die site t).ev = s.ev := by simp only [setMt]
@[simp] theorem setMt_tel (s : State) (die site : Nat) (t : MTile) : (setMt s die site t).tel = s.tel := by simp only [setMt]
@[simp] theorem setMt_lastFault (s : State) (die site : Nat) (t : MTile) : (setMt s die site t).lastFault = s.lastFault := by simp only [setMt]
@[simp] theorem setMt_sTiles (s : State) (die site : Nat) (t : MTile) : (setMt s die site t).sTiles = s.sTiles := by simp only [setMt]
@[simp] theorem setMt_host (s : State) (die site : Nat) (t : MTile) : (setMt s die site t).host = s.host := by simp only [setMt]
@[simp] theorem setMt_vTiles (s : State) (die site : Nat) (t : MTile) : (setMt s die site t).vTiles = s.vTiles := by simp only [setMt]
@[simp] theorem setMt_fTiles (s : State) (die site : Nat) (t : MTile) : (setMt s die site t).fTiles = s.fTiles := by simp only [setMt]
@[simp] theorem setMt_grain (s : State) (die site : Nat) (t : MTile) : (setMt s die site t).grain = s.grain := by simp only [setMt]
@[simp] theorem setMt_engines (s : State) (die site : Nat) (t : MTile) : (setMt s die site t).engines = s.engines := by simp only [setMt]
@[simp] theorem setMt_queues (s : State) (die site : Nat) (t : MTile) : (setMt s die site t).queues = s.queues := by simp only [setMt]
@[simp] theorem setMt_link (s : State) (die site : Nat) (t : MTile) : (setMt s die site t).link = s.link := by simp only [setMt]
@[simp] theorem setMt_decoders (s : State) (die site : Nat) (t : MTile) : (setMt s die site t).decoders = s.decoders := by simp only [setMt]
@[simp] theorem setMt_evtRing (s : State) (die site : Nat) (t : MTile) : (setMt s die site t).evtRing = s.evtRing := by simp only [setMt]
@[simp] theorem setMt_msix (s : State) (die site : Nat) (t : MTile) : (setMt s die site t).msix = s.msix := by simp only [setMt]
@[simp] theorem setMt_msixPending (s : State) (die site : Nat) (t : MTile) : (setMt s die site t).msixPending = s.msixPending := by simp only [setMt]
@[simp] theorem setMt_out (s : State) (die site : Nat) (t : MTile) : (setMt s die site t).out = s.out := by simp only [setMt]
@[simp] theorem setMt_biLines (s : State) (die site : Nat) (t : MTile) : (setMt s die site t).biLines = s.biLines := by simp only [setMt]
@[simp] theorem setMt_biOld (s : State) (die site : Nat) (t : MTile) : (setMt s die site t).biOld = s.biOld := by simp only [setMt]
@[simp] theorem setMt_mapVector (s : State) (die site : Nat) (t : MTile) : (setMt s die site t).mapVector = s.mapVector := by simp only [setMt]
@[simp] theorem setMt_bar0 (s : State) (die site : Nat) (t : MTile) : (setMt s die site t).bar0 = s.bar0 := by simp only [setMt]
@[simp] theorem setMt_cores (s : State) (die site : Nat) (t : MTile) : (setMt s die site t).cores = s.cores := by simp only [setMt]
@[simp] theorem setMt_boot (s : State) (die site : Nat) (t : MTile) : (setMt s die site t).boot = s.boot := by simp only [setMt]
@[simp] theorem setMt_pwr (s : State) (die site : Nat) (t : MTile) : (setMt s die site t).pwr = s.pwr := by simp only [setMt]
@[simp] theorem setMt_pair (s : State) (die site : Nat) (t : MTile) : (setMt s die site t).pair = s.pair := by simp only [setMt]
@[simp] theorem setMt_seqs (s : State) (die site : Nat) (t : MTile) : (setMt s die site t).seqs = s.seqs := by simp only [setMt]
@[simp] theorem setMt_regions (s : State) (die site : Nat) (t : MTile) : (setMt s die site t).regions = s.regions := by simp only [setMt]
@[simp] theorem setMt_jobs (s : State) (die site : Nat) (t : MTile) : (setMt s die site t).jobs = s.jobs := by simp only [setMt]
@[simp] theorem setMt_cfg (s : State) (die site : Nat) (t : MTile) : (setMt s die site t).cfg = s.cfg := by simp only [setMt]

@[simp] theorem setVt_pending (s : State) (die site : Nat) (t : VTile) : (setVt s die site t).pending = s.pending := by simp only [setVt]
@[simp] theorem setVt_now (s : State) (die site : Nat) (t : VTile) : (setVt s die site t).now = s.now := by simp only [setVt]
@[simp] theorem setVt_freeCtr (s : State) (die site : Nat) (t : VTile) : (setVt s die site t).freeCtr = s.freeCtr := by simp only [setVt]
@[simp] theorem setVt_mem (s : State) (die site : Nat) (t : VTile) : (setVt s die site t).mem = s.mem := by simp only [setVt]
@[simp] theorem setVt_flips (s : State) (die site : Nat) (t : VTile) : (setVt s die site t).flips = s.flips := by simp only [setVt]
@[simp] theorem setVt_flash (s : State) (die site : Nat) (t : VTile) : (setVt s die site t).flash = s.flash := by simp only [setVt]
@[simp] theorem setVt_pages (s : State) (die site : Nat) (t : VTile) : (setVt s die site t).pages = s.pages := by simp only [setVt]
@[simp] theorem setVt_goodDies (s : State) (die site : Nat) (t : VTile) : (setVt s die site t).goodDies = s.goodDies := by simp only [setVt]
@[simp] theorem setVt_goodFar (s : State) (die site : Nat) (t : VTile) : (setVt s die site t).goodFar = s.goodFar := by simp only [setVt]
@[simp] theorem setVt_dies (s : State) (die site : Nat) (t : VTile) : (setVt s die site t).dies = s.dies := by simp only [setVt]
@[simp] theorem setVt_kettles (s : State) (die site : Nat) (t : VTile) : (setVt s die site t).kettles = s.kettles := by simp only [setVt]
@[simp] theorem setVt_net (s : State) (die site : Nat) (t : VTile) : (setVt s die site t).net = s.net := by simp only [setVt]
@[simp] theorem setVt_ev (s : State) (die site : Nat) (t : VTile) : (setVt s die site t).ev = s.ev := by simp only [setVt]
@[simp] theorem setVt_tel (s : State) (die site : Nat) (t : VTile) : (setVt s die site t).tel = s.tel := by simp only [setVt]
@[simp] theorem setVt_lastFault (s : State) (die site : Nat) (t : VTile) : (setVt s die site t).lastFault = s.lastFault := by simp only [setVt]
@[simp] theorem setVt_sTiles (s : State) (die site : Nat) (t : VTile) : (setVt s die site t).sTiles = s.sTiles := by simp only [setVt]
@[simp] theorem setVt_mTiles (s : State) (die site : Nat) (t : VTile) : (setVt s die site t).mTiles = s.mTiles := by simp only [setVt]
@[simp] theorem setVt_host (s : State) (die site : Nat) (t : VTile) : (setVt s die site t).host = s.host := by simp only [setVt]
@[simp] theorem setVt_fTiles (s : State) (die site : Nat) (t : VTile) : (setVt s die site t).fTiles = s.fTiles := by simp only [setVt]
@[simp] theorem setVt_grain (s : State) (die site : Nat) (t : VTile) : (setVt s die site t).grain = s.grain := by simp only [setVt]
@[simp] theorem setVt_engines (s : State) (die site : Nat) (t : VTile) : (setVt s die site t).engines = s.engines := by simp only [setVt]
@[simp] theorem setVt_queues (s : State) (die site : Nat) (t : VTile) : (setVt s die site t).queues = s.queues := by simp only [setVt]
@[simp] theorem setVt_link (s : State) (die site : Nat) (t : VTile) : (setVt s die site t).link = s.link := by simp only [setVt]
@[simp] theorem setVt_decoders (s : State) (die site : Nat) (t : VTile) : (setVt s die site t).decoders = s.decoders := by simp only [setVt]
@[simp] theorem setVt_evtRing (s : State) (die site : Nat) (t : VTile) : (setVt s die site t).evtRing = s.evtRing := by simp only [setVt]
@[simp] theorem setVt_msix (s : State) (die site : Nat) (t : VTile) : (setVt s die site t).msix = s.msix := by simp only [setVt]
@[simp] theorem setVt_msixPending (s : State) (die site : Nat) (t : VTile) : (setVt s die site t).msixPending = s.msixPending := by simp only [setVt]
@[simp] theorem setVt_out (s : State) (die site : Nat) (t : VTile) : (setVt s die site t).out = s.out := by simp only [setVt]
@[simp] theorem setVt_biLines (s : State) (die site : Nat) (t : VTile) : (setVt s die site t).biLines = s.biLines := by simp only [setVt]
@[simp] theorem setVt_biOld (s : State) (die site : Nat) (t : VTile) : (setVt s die site t).biOld = s.biOld := by simp only [setVt]
@[simp] theorem setVt_mapVector (s : State) (die site : Nat) (t : VTile) : (setVt s die site t).mapVector = s.mapVector := by simp only [setVt]
@[simp] theorem setVt_bar0 (s : State) (die site : Nat) (t : VTile) : (setVt s die site t).bar0 = s.bar0 := by simp only [setVt]
@[simp] theorem setVt_cores (s : State) (die site : Nat) (t : VTile) : (setVt s die site t).cores = s.cores := by simp only [setVt]
@[simp] theorem setVt_boot (s : State) (die site : Nat) (t : VTile) : (setVt s die site t).boot = s.boot := by simp only [setVt]
@[simp] theorem setVt_pwr (s : State) (die site : Nat) (t : VTile) : (setVt s die site t).pwr = s.pwr := by simp only [setVt]
@[simp] theorem setVt_pair (s : State) (die site : Nat) (t : VTile) : (setVt s die site t).pair = s.pair := by simp only [setVt]
@[simp] theorem setVt_seqs (s : State) (die site : Nat) (t : VTile) : (setVt s die site t).seqs = s.seqs := by simp only [setVt]
@[simp] theorem setVt_regions (s : State) (die site : Nat) (t : VTile) : (setVt s die site t).regions = s.regions := by simp only [setVt]
@[simp] theorem setVt_jobs (s : State) (die site : Nat) (t : VTile) : (setVt s die site t).jobs = s.jobs := by simp only [setVt]
@[simp] theorem setVt_cfg (s : State) (die site : Nat) (t : VTile) : (setVt s die site t).cfg = s.cfg := by simp only [setVt]

@[simp] theorem setFt_pending (s : State) (die site : Nat) (t : FTile) : (setFt s die site t).pending = s.pending := by simp only [setFt]
@[simp] theorem setFt_now (s : State) (die site : Nat) (t : FTile) : (setFt s die site t).now = s.now := by simp only [setFt]
@[simp] theorem setFt_freeCtr (s : State) (die site : Nat) (t : FTile) : (setFt s die site t).freeCtr = s.freeCtr := by simp only [setFt]
@[simp] theorem setFt_mem (s : State) (die site : Nat) (t : FTile) : (setFt s die site t).mem = s.mem := by simp only [setFt]
@[simp] theorem setFt_flips (s : State) (die site : Nat) (t : FTile) : (setFt s die site t).flips = s.flips := by simp only [setFt]
@[simp] theorem setFt_flash (s : State) (die site : Nat) (t : FTile) : (setFt s die site t).flash = s.flash := by simp only [setFt]
@[simp] theorem setFt_pages (s : State) (die site : Nat) (t : FTile) : (setFt s die site t).pages = s.pages := by simp only [setFt]
@[simp] theorem setFt_goodDies (s : State) (die site : Nat) (t : FTile) : (setFt s die site t).goodDies = s.goodDies := by simp only [setFt]
@[simp] theorem setFt_goodFar (s : State) (die site : Nat) (t : FTile) : (setFt s die site t).goodFar = s.goodFar := by simp only [setFt]
@[simp] theorem setFt_dies (s : State) (die site : Nat) (t : FTile) : (setFt s die site t).dies = s.dies := by simp only [setFt]
@[simp] theorem setFt_kettles (s : State) (die site : Nat) (t : FTile) : (setFt s die site t).kettles = s.kettles := by simp only [setFt]
@[simp] theorem setFt_net (s : State) (die site : Nat) (t : FTile) : (setFt s die site t).net = s.net := by simp only [setFt]
@[simp] theorem setFt_ev (s : State) (die site : Nat) (t : FTile) : (setFt s die site t).ev = s.ev := by simp only [setFt]
@[simp] theorem setFt_tel (s : State) (die site : Nat) (t : FTile) : (setFt s die site t).tel = s.tel := by simp only [setFt]
@[simp] theorem setFt_lastFault (s : State) (die site : Nat) (t : FTile) : (setFt s die site t).lastFault = s.lastFault := by simp only [setFt]
@[simp] theorem setFt_sTiles (s : State) (die site : Nat) (t : FTile) : (setFt s die site t).sTiles = s.sTiles := by simp only [setFt]
@[simp] theorem setFt_mTiles (s : State) (die site : Nat) (t : FTile) : (setFt s die site t).mTiles = s.mTiles := by simp only [setFt]
@[simp] theorem setFt_host (s : State) (die site : Nat) (t : FTile) : (setFt s die site t).host = s.host := by simp only [setFt]
@[simp] theorem setFt_vTiles (s : State) (die site : Nat) (t : FTile) : (setFt s die site t).vTiles = s.vTiles := by simp only [setFt]
@[simp] theorem setFt_grain (s : State) (die site : Nat) (t : FTile) : (setFt s die site t).grain = s.grain := by simp only [setFt]
@[simp] theorem setFt_engines (s : State) (die site : Nat) (t : FTile) : (setFt s die site t).engines = s.engines := by simp only [setFt]
@[simp] theorem setFt_queues (s : State) (die site : Nat) (t : FTile) : (setFt s die site t).queues = s.queues := by simp only [setFt]
@[simp] theorem setFt_link (s : State) (die site : Nat) (t : FTile) : (setFt s die site t).link = s.link := by simp only [setFt]
@[simp] theorem setFt_decoders (s : State) (die site : Nat) (t : FTile) : (setFt s die site t).decoders = s.decoders := by simp only [setFt]
@[simp] theorem setFt_evtRing (s : State) (die site : Nat) (t : FTile) : (setFt s die site t).evtRing = s.evtRing := by simp only [setFt]
@[simp] theorem setFt_msix (s : State) (die site : Nat) (t : FTile) : (setFt s die site t).msix = s.msix := by simp only [setFt]
@[simp] theorem setFt_msixPending (s : State) (die site : Nat) (t : FTile) : (setFt s die site t).msixPending = s.msixPending := by simp only [setFt]
@[simp] theorem setFt_out (s : State) (die site : Nat) (t : FTile) : (setFt s die site t).out = s.out := by simp only [setFt]
@[simp] theorem setFt_biLines (s : State) (die site : Nat) (t : FTile) : (setFt s die site t).biLines = s.biLines := by simp only [setFt]
@[simp] theorem setFt_biOld (s : State) (die site : Nat) (t : FTile) : (setFt s die site t).biOld = s.biOld := by simp only [setFt]
@[simp] theorem setFt_mapVector (s : State) (die site : Nat) (t : FTile) : (setFt s die site t).mapVector = s.mapVector := by simp only [setFt]
@[simp] theorem setFt_bar0 (s : State) (die site : Nat) (t : FTile) : (setFt s die site t).bar0 = s.bar0 := by simp only [setFt]
@[simp] theorem setFt_cores (s : State) (die site : Nat) (t : FTile) : (setFt s die site t).cores = s.cores := by simp only [setFt]
@[simp] theorem setFt_boot (s : State) (die site : Nat) (t : FTile) : (setFt s die site t).boot = s.boot := by simp only [setFt]
@[simp] theorem setFt_pwr (s : State) (die site : Nat) (t : FTile) : (setFt s die site t).pwr = s.pwr := by simp only [setFt]
@[simp] theorem setFt_pair (s : State) (die site : Nat) (t : FTile) : (setFt s die site t).pair = s.pair := by simp only [setFt]
@[simp] theorem setFt_seqs (s : State) (die site : Nat) (t : FTile) : (setFt s die site t).seqs = s.seqs := by simp only [setFt]
@[simp] theorem setFt_regions (s : State) (die site : Nat) (t : FTile) : (setFt s die site t).regions = s.regions := by simp only [setFt]
@[simp] theorem setFt_jobs (s : State) (die site : Nat) (t : FTile) : (setFt s die site t).jobs = s.jobs := by simp only [setFt]
@[simp] theorem setFt_cfg (s : State) (die site : Nat) (t : FTile) : (setFt s die site t).cfg = s.cfg := by simp only [setFt]

@[simp] theorem setGr_pending (s : State) (die site : Nat) (g : GrainSite) : (setGr s die site g).pending = s.pending := by simp only [setGr]
@[simp] theorem setGr_now (s : State) (die site : Nat) (g : GrainSite) : (setGr s die site g).now = s.now := by simp only [setGr]
@[simp] theorem setGr_freeCtr (s : State) (die site : Nat) (g : GrainSite) : (setGr s die site g).freeCtr = s.freeCtr := by simp only [setGr]
@[simp] theorem setGr_mem (s : State) (die site : Nat) (g : GrainSite) : (setGr s die site g).mem = s.mem := by simp only [setGr]
@[simp] theorem setGr_flips (s : State) (die site : Nat) (g : GrainSite) : (setGr s die site g).flips = s.flips := by simp only [setGr]
@[simp] theorem setGr_flash (s : State) (die site : Nat) (g : GrainSite) : (setGr s die site g).flash = s.flash := by simp only [setGr]
@[simp] theorem setGr_pages (s : State) (die site : Nat) (g : GrainSite) : (setGr s die site g).pages = s.pages := by simp only [setGr]
@[simp] theorem setGr_goodDies (s : State) (die site : Nat) (g : GrainSite) : (setGr s die site g).goodDies = s.goodDies := by simp only [setGr]
@[simp] theorem setGr_goodFar (s : State) (die site : Nat) (g : GrainSite) : (setGr s die site g).goodFar = s.goodFar := by simp only [setGr]
@[simp] theorem setGr_dies (s : State) (die site : Nat) (g : GrainSite) : (setGr s die site g).dies = s.dies := by simp only [setGr]
@[simp] theorem setGr_kettles (s : State) (die site : Nat) (g : GrainSite) : (setGr s die site g).kettles = s.kettles := by simp only [setGr]
@[simp] theorem setGr_net (s : State) (die site : Nat) (g : GrainSite) : (setGr s die site g).net = s.net := by simp only [setGr]
@[simp] theorem setGr_ev (s : State) (die site : Nat) (g : GrainSite) : (setGr s die site g).ev = s.ev := by simp only [setGr]
@[simp] theorem setGr_tel (s : State) (die site : Nat) (g : GrainSite) : (setGr s die site g).tel = s.tel := by simp only [setGr]
@[simp] theorem setGr_lastFault (s : State) (die site : Nat) (g : GrainSite) : (setGr s die site g).lastFault = s.lastFault := by simp only [setGr]
@[simp] theorem setGr_sTiles (s : State) (die site : Nat) (g : GrainSite) : (setGr s die site g).sTiles = s.sTiles := by simp only [setGr]
@[simp] theorem setGr_mTiles (s : State) (die site : Nat) (g : GrainSite) : (setGr s die site g).mTiles = s.mTiles := by simp only [setGr]
@[simp] theorem setGr_host (s : State) (die site : Nat) (g : GrainSite) : (setGr s die site g).host = s.host := by simp only [setGr]
@[simp] theorem setGr_vTiles (s : State) (die site : Nat) (g : GrainSite) : (setGr s die site g).vTiles = s.vTiles := by simp only [setGr]
@[simp] theorem setGr_fTiles (s : State) (die site : Nat) (g : GrainSite) : (setGr s die site g).fTiles = s.fTiles := by simp only [setGr]
@[simp] theorem setGr_engines (s : State) (die site : Nat) (g : GrainSite) : (setGr s die site g).engines = s.engines := by simp only [setGr]
@[simp] theorem setGr_queues (s : State) (die site : Nat) (g : GrainSite) : (setGr s die site g).queues = s.queues := by simp only [setGr]
@[simp] theorem setGr_link (s : State) (die site : Nat) (g : GrainSite) : (setGr s die site g).link = s.link := by simp only [setGr]
@[simp] theorem setGr_decoders (s : State) (die site : Nat) (g : GrainSite) : (setGr s die site g).decoders = s.decoders := by simp only [setGr]
@[simp] theorem setGr_evtRing (s : State) (die site : Nat) (g : GrainSite) : (setGr s die site g).evtRing = s.evtRing := by simp only [setGr]
@[simp] theorem setGr_msix (s : State) (die site : Nat) (g : GrainSite) : (setGr s die site g).msix = s.msix := by simp only [setGr]
@[simp] theorem setGr_msixPending (s : State) (die site : Nat) (g : GrainSite) : (setGr s die site g).msixPending = s.msixPending := by simp only [setGr]
@[simp] theorem setGr_out (s : State) (die site : Nat) (g : GrainSite) : (setGr s die site g).out = s.out := by simp only [setGr]
@[simp] theorem setGr_biLines (s : State) (die site : Nat) (g : GrainSite) : (setGr s die site g).biLines = s.biLines := by simp only [setGr]
@[simp] theorem setGr_biOld (s : State) (die site : Nat) (g : GrainSite) : (setGr s die site g).biOld = s.biOld := by simp only [setGr]
@[simp] theorem setGr_mapVector (s : State) (die site : Nat) (g : GrainSite) : (setGr s die site g).mapVector = s.mapVector := by simp only [setGr]
@[simp] theorem setGr_bar0 (s : State) (die site : Nat) (g : GrainSite) : (setGr s die site g).bar0 = s.bar0 := by simp only [setGr]
@[simp] theorem setGr_cores (s : State) (die site : Nat) (g : GrainSite) : (setGr s die site g).cores = s.cores := by simp only [setGr]
@[simp] theorem setGr_boot (s : State) (die site : Nat) (g : GrainSite) : (setGr s die site g).boot = s.boot := by simp only [setGr]
@[simp] theorem setGr_pwr (s : State) (die site : Nat) (g : GrainSite) : (setGr s die site g).pwr = s.pwr := by simp only [setGr]
@[simp] theorem setGr_pair (s : State) (die site : Nat) (g : GrainSite) : (setGr s die site g).pair = s.pair := by simp only [setGr]
@[simp] theorem setGr_seqs (s : State) (die site : Nat) (g : GrainSite) : (setGr s die site g).seqs = s.seqs := by simp only [setGr]
@[simp] theorem setGr_regions (s : State) (die site : Nat) (g : GrainSite) : (setGr s die site g).regions = s.regions := by simp only [setGr]
@[simp] theorem setGr_jobs (s : State) (die site : Nat) (g : GrainSite) : (setGr s die site g).jobs = s.jobs := by simp only [setGr]
@[simp] theorem setGr_cfg (s : State) (die site : Nat) (g : GrainSite) : (setGr s die site g).cfg = s.cfg := by simp only [setGr]

@[simp] theorem setEn_pending (s : State) (die site : Nat) (e : Engine) : (setEn s die site e).pending = s.pending := by simp only [setEn]
@[simp] theorem setEn_now (s : State) (die site : Nat) (e : Engine) : (setEn s die site e).now = s.now := by simp only [setEn]
@[simp] theorem setEn_freeCtr (s : State) (die site : Nat) (e : Engine) : (setEn s die site e).freeCtr = s.freeCtr := by simp only [setEn]
@[simp] theorem setEn_mem (s : State) (die site : Nat) (e : Engine) : (setEn s die site e).mem = s.mem := by simp only [setEn]
@[simp] theorem setEn_flips (s : State) (die site : Nat) (e : Engine) : (setEn s die site e).flips = s.flips := by simp only [setEn]
@[simp] theorem setEn_flash (s : State) (die site : Nat) (e : Engine) : (setEn s die site e).flash = s.flash := by simp only [setEn]
@[simp] theorem setEn_pages (s : State) (die site : Nat) (e : Engine) : (setEn s die site e).pages = s.pages := by simp only [setEn]
@[simp] theorem setEn_goodDies (s : State) (die site : Nat) (e : Engine) : (setEn s die site e).goodDies = s.goodDies := by simp only [setEn]
@[simp] theorem setEn_goodFar (s : State) (die site : Nat) (e : Engine) : (setEn s die site e).goodFar = s.goodFar := by simp only [setEn]
@[simp] theorem setEn_dies (s : State) (die site : Nat) (e : Engine) : (setEn s die site e).dies = s.dies := by simp only [setEn]
@[simp] theorem setEn_kettles (s : State) (die site : Nat) (e : Engine) : (setEn s die site e).kettles = s.kettles := by simp only [setEn]
@[simp] theorem setEn_net (s : State) (die site : Nat) (e : Engine) : (setEn s die site e).net = s.net := by simp only [setEn]
@[simp] theorem setEn_ev (s : State) (die site : Nat) (e : Engine) : (setEn s die site e).ev = s.ev := by simp only [setEn]
@[simp] theorem setEn_tel (s : State) (die site : Nat) (e : Engine) : (setEn s die site e).tel = s.tel := by simp only [setEn]
@[simp] theorem setEn_lastFault (s : State) (die site : Nat) (e : Engine) : (setEn s die site e).lastFault = s.lastFault := by simp only [setEn]
@[simp] theorem setEn_sTiles (s : State) (die site : Nat) (e : Engine) : (setEn s die site e).sTiles = s.sTiles := by simp only [setEn]
@[simp] theorem setEn_mTiles (s : State) (die site : Nat) (e : Engine) : (setEn s die site e).mTiles = s.mTiles := by simp only [setEn]
@[simp] theorem setEn_host (s : State) (die site : Nat) (e : Engine) : (setEn s die site e).host = s.host := by simp only [setEn]
@[simp] theorem setEn_vTiles (s : State) (die site : Nat) (e : Engine) : (setEn s die site e).vTiles = s.vTiles := by simp only [setEn]
@[simp] theorem setEn_fTiles (s : State) (die site : Nat) (e : Engine) : (setEn s die site e).fTiles = s.fTiles := by simp only [setEn]
@[simp] theorem setEn_grain (s : State) (die site : Nat) (e : Engine) : (setEn s die site e).grain = s.grain := by simp only [setEn]
@[simp] theorem setEn_queues (s : State) (die site : Nat) (e : Engine) : (setEn s die site e).queues = s.queues := by simp only [setEn]
@[simp] theorem setEn_link (s : State) (die site : Nat) (e : Engine) : (setEn s die site e).link = s.link := by simp only [setEn]
@[simp] theorem setEn_decoders (s : State) (die site : Nat) (e : Engine) : (setEn s die site e).decoders = s.decoders := by simp only [setEn]
@[simp] theorem setEn_evtRing (s : State) (die site : Nat) (e : Engine) : (setEn s die site e).evtRing = s.evtRing := by simp only [setEn]
@[simp] theorem setEn_msix (s : State) (die site : Nat) (e : Engine) : (setEn s die site e).msix = s.msix := by simp only [setEn]
@[simp] theorem setEn_msixPending (s : State) (die site : Nat) (e : Engine) : (setEn s die site e).msixPending = s.msixPending := by simp only [setEn]
@[simp] theorem setEn_out (s : State) (die site : Nat) (e : Engine) : (setEn s die site e).out = s.out := by simp only [setEn]
@[simp] theorem setEn_biLines (s : State) (die site : Nat) (e : Engine) : (setEn s die site e).biLines = s.biLines := by simp only [setEn]
@[simp] theorem setEn_biOld (s : State) (die site : Nat) (e : Engine) : (setEn s die site e).biOld = s.biOld := by simp only [setEn]
@[simp] theorem setEn_mapVector (s : State) (die site : Nat) (e : Engine) : (setEn s die site e).mapVector = s.mapVector := by simp only [setEn]
@[simp] theorem setEn_bar0 (s : State) (die site : Nat) (e : Engine) : (setEn s die site e).bar0 = s.bar0 := by simp only [setEn]
@[simp] theorem setEn_cores (s : State) (die site : Nat) (e : Engine) : (setEn s die site e).cores = s.cores := by simp only [setEn]
@[simp] theorem setEn_boot (s : State) (die site : Nat) (e : Engine) : (setEn s die site e).boot = s.boot := by simp only [setEn]
@[simp] theorem setEn_pwr (s : State) (die site : Nat) (e : Engine) : (setEn s die site e).pwr = s.pwr := by simp only [setEn]
@[simp] theorem setEn_pair (s : State) (die site : Nat) (e : Engine) : (setEn s die site e).pair = s.pair := by simp only [setEn]
@[simp] theorem setEn_seqs (s : State) (die site : Nat) (e : Engine) : (setEn s die site e).seqs = s.seqs := by simp only [setEn]
@[simp] theorem setEn_regions (s : State) (die site : Nat) (e : Engine) : (setEn s die site e).regions = s.regions := by simp only [setEn]
@[simp] theorem setEn_jobs (s : State) (die site : Nat) (e : Engine) : (setEn s die site e).jobs = s.jobs := by simp only [setEn]
@[simp] theorem setEn_cfg (s : State) (die site : Nat) (e : Engine) : (setEn s die site e).cfg = s.cfg := by simp only [setEn]

@[simp] theorem setCore_pending (s : State) (die core : Nat) (c : Core) : (setCore s die core c).pending = s.pending := by simp only [setCore]
@[simp] theorem setCore_now (s : State) (die core : Nat) (c : Core) : (setCore s die core c).now = s.now := by simp only [setCore]
@[simp] theorem setCore_freeCtr (s : State) (die core : Nat) (c : Core) : (setCore s die core c).freeCtr = s.freeCtr := by simp only [setCore]
@[simp] theorem setCore_mem (s : State) (die core : Nat) (c : Core) : (setCore s die core c).mem = s.mem := by simp only [setCore]
@[simp] theorem setCore_flips (s : State) (die core : Nat) (c : Core) : (setCore s die core c).flips = s.flips := by simp only [setCore]
@[simp] theorem setCore_flash (s : State) (die core : Nat) (c : Core) : (setCore s die core c).flash = s.flash := by simp only [setCore]
@[simp] theorem setCore_pages (s : State) (die core : Nat) (c : Core) : (setCore s die core c).pages = s.pages := by simp only [setCore]
@[simp] theorem setCore_goodDies (s : State) (die core : Nat) (c : Core) : (setCore s die core c).goodDies = s.goodDies := by simp only [setCore]
@[simp] theorem setCore_goodFar (s : State) (die core : Nat) (c : Core) : (setCore s die core c).goodFar = s.goodFar := by simp only [setCore]
@[simp] theorem setCore_dies (s : State) (die core : Nat) (c : Core) : (setCore s die core c).dies = s.dies := by simp only [setCore]
@[simp] theorem setCore_kettles (s : State) (die core : Nat) (c : Core) : (setCore s die core c).kettles = s.kettles := by simp only [setCore]
@[simp] theorem setCore_net (s : State) (die core : Nat) (c : Core) : (setCore s die core c).net = s.net := by simp only [setCore]
@[simp] theorem setCore_ev (s : State) (die core : Nat) (c : Core) : (setCore s die core c).ev = s.ev := by simp only [setCore]
@[simp] theorem setCore_tel (s : State) (die core : Nat) (c : Core) : (setCore s die core c).tel = s.tel := by simp only [setCore]
@[simp] theorem setCore_lastFault (s : State) (die core : Nat) (c : Core) : (setCore s die core c).lastFault = s.lastFault := by simp only [setCore]
@[simp] theorem setCore_sTiles (s : State) (die core : Nat) (c : Core) : (setCore s die core c).sTiles = s.sTiles := by simp only [setCore]
@[simp] theorem setCore_mTiles (s : State) (die core : Nat) (c : Core) : (setCore s die core c).mTiles = s.mTiles := by simp only [setCore]
@[simp] theorem setCore_host (s : State) (die core : Nat) (c : Core) : (setCore s die core c).host = s.host := by simp only [setCore]
@[simp] theorem setCore_vTiles (s : State) (die core : Nat) (c : Core) : (setCore s die core c).vTiles = s.vTiles := by simp only [setCore]
@[simp] theorem setCore_fTiles (s : State) (die core : Nat) (c : Core) : (setCore s die core c).fTiles = s.fTiles := by simp only [setCore]
@[simp] theorem setCore_grain (s : State) (die core : Nat) (c : Core) : (setCore s die core c).grain = s.grain := by simp only [setCore]
@[simp] theorem setCore_engines (s : State) (die core : Nat) (c : Core) : (setCore s die core c).engines = s.engines := by simp only [setCore]
@[simp] theorem setCore_queues (s : State) (die core : Nat) (c : Core) : (setCore s die core c).queues = s.queues := by simp only [setCore]
@[simp] theorem setCore_link (s : State) (die core : Nat) (c : Core) : (setCore s die core c).link = s.link := by simp only [setCore]
@[simp] theorem setCore_decoders (s : State) (die core : Nat) (c : Core) : (setCore s die core c).decoders = s.decoders := by simp only [setCore]
@[simp] theorem setCore_evtRing (s : State) (die core : Nat) (c : Core) : (setCore s die core c).evtRing = s.evtRing := by simp only [setCore]
@[simp] theorem setCore_msix (s : State) (die core : Nat) (c : Core) : (setCore s die core c).msix = s.msix := by simp only [setCore]
@[simp] theorem setCore_msixPending (s : State) (die core : Nat) (c : Core) : (setCore s die core c).msixPending = s.msixPending := by simp only [setCore]
@[simp] theorem setCore_out (s : State) (die core : Nat) (c : Core) : (setCore s die core c).out = s.out := by simp only [setCore]
@[simp] theorem setCore_biLines (s : State) (die core : Nat) (c : Core) : (setCore s die core c).biLines = s.biLines := by simp only [setCore]
@[simp] theorem setCore_biOld (s : State) (die core : Nat) (c : Core) : (setCore s die core c).biOld = s.biOld := by simp only [setCore]
@[simp] theorem setCore_mapVector (s : State) (die core : Nat) (c : Core) : (setCore s die core c).mapVector = s.mapVector := by simp only [setCore]
@[simp] theorem setCore_bar0 (s : State) (die core : Nat) (c : Core) : (setCore s die core c).bar0 = s.bar0 := by simp only [setCore]
@[simp] theorem setCore_boot (s : State) (die core : Nat) (c : Core) : (setCore s die core c).boot = s.boot := by simp only [setCore]
@[simp] theorem setCore_pwr (s : State) (die core : Nat) (c : Core) : (setCore s die core c).pwr = s.pwr := by simp only [setCore]
@[simp] theorem setCore_pair (s : State) (die core : Nat) (c : Core) : (setCore s die core c).pair = s.pair := by simp only [setCore]
@[simp] theorem setCore_seqs (s : State) (die core : Nat) (c : Core) : (setCore s die core c).seqs = s.seqs := by simp only [setCore]
@[simp] theorem setCore_regions (s : State) (die core : Nat) (c : Core) : (setCore s die core c).regions = s.regions := by simp only [setCore]
@[simp] theorem setCore_jobs (s : State) (die core : Nat) (c : Core) : (setCore s die core c).jobs = s.jobs := by simp only [setCore]
@[simp] theorem setCore_cfg (s : State) (die core : Nat) (c : Core) : (setCore s die core c).cfg = s.cfg := by simp only [setCore]

@[simp] theorem modCore_pending (s : State) (die core : Nat) (f : Core → Core) : (modCore s die core f).pending = s.pending := by simp only [modCore, setCore]
@[simp] theorem modCore_now (s : State) (die core : Nat) (f : Core → Core) : (modCore s die core f).now = s.now := by simp only [modCore, setCore]
@[simp] theorem modCore_freeCtr (s : State) (die core : Nat) (f : Core → Core) : (modCore s die core f).freeCtr = s.freeCtr := by simp only [modCore, setCore]
@[simp] theorem modCore_mem (s : State) (die core : Nat) (f : Core → Core) : (modCore s die core f).mem = s.mem := by simp only [modCore, setCore]
@[simp] theorem modCore_flips (s : State) (die core : Nat) (f : Core → Core) : (modCore s die core f).flips = s.flips := by simp only [modCore, setCore]
@[simp] theorem modCore_flash (s : State) (die core : Nat) (f : Core → Core) : (modCore s die core f).flash = s.flash := by simp only [modCore, setCore]
@[simp] theorem modCore_pages (s : State) (die core : Nat) (f : Core → Core) : (modCore s die core f).pages = s.pages := by simp only [modCore, setCore]
@[simp] theorem modCore_goodDies (s : State) (die core : Nat) (f : Core → Core) : (modCore s die core f).goodDies = s.goodDies := by simp only [modCore, setCore]
@[simp] theorem modCore_goodFar (s : State) (die core : Nat) (f : Core → Core) : (modCore s die core f).goodFar = s.goodFar := by simp only [modCore, setCore]
@[simp] theorem modCore_dies (s : State) (die core : Nat) (f : Core → Core) : (modCore s die core f).dies = s.dies := by simp only [modCore, setCore]
@[simp] theorem modCore_kettles (s : State) (die core : Nat) (f : Core → Core) : (modCore s die core f).kettles = s.kettles := by simp only [modCore, setCore]
@[simp] theorem modCore_net (s : State) (die core : Nat) (f : Core → Core) : (modCore s die core f).net = s.net := by simp only [modCore, setCore]
@[simp] theorem modCore_ev (s : State) (die core : Nat) (f : Core → Core) : (modCore s die core f).ev = s.ev := by simp only [modCore, setCore]
@[simp] theorem modCore_tel (s : State) (die core : Nat) (f : Core → Core) : (modCore s die core f).tel = s.tel := by simp only [modCore, setCore]
@[simp] theorem modCore_lastFault (s : State) (die core : Nat) (f : Core → Core) : (modCore s die core f).lastFault = s.lastFault := by simp only [modCore, setCore]
@[simp] theorem modCore_sTiles (s : State) (die core : Nat) (f : Core → Core) : (modCore s die core f).sTiles = s.sTiles := by simp only [modCore, setCore]
@[simp] theorem modCore_mTiles (s : State) (die core : Nat) (f : Core → Core) : (modCore s die core f).mTiles = s.mTiles := by simp only [modCore, setCore]
@[simp] theorem modCore_host (s : State) (die core : Nat) (f : Core → Core) : (modCore s die core f).host = s.host := by simp only [modCore, setCore]
@[simp] theorem modCore_vTiles (s : State) (die core : Nat) (f : Core → Core) : (modCore s die core f).vTiles = s.vTiles := by simp only [modCore, setCore]
@[simp] theorem modCore_fTiles (s : State) (die core : Nat) (f : Core → Core) : (modCore s die core f).fTiles = s.fTiles := by simp only [modCore, setCore]
@[simp] theorem modCore_grain (s : State) (die core : Nat) (f : Core → Core) : (modCore s die core f).grain = s.grain := by simp only [modCore, setCore]
@[simp] theorem modCore_engines (s : State) (die core : Nat) (f : Core → Core) : (modCore s die core f).engines = s.engines := by simp only [modCore, setCore]
@[simp] theorem modCore_queues (s : State) (die core : Nat) (f : Core → Core) : (modCore s die core f).queues = s.queues := by simp only [modCore, setCore]
@[simp] theorem modCore_link (s : State) (die core : Nat) (f : Core → Core) : (modCore s die core f).link = s.link := by simp only [modCore, setCore]
@[simp] theorem modCore_decoders (s : State) (die core : Nat) (f : Core → Core) : (modCore s die core f).decoders = s.decoders := by simp only [modCore, setCore]
@[simp] theorem modCore_evtRing (s : State) (die core : Nat) (f : Core → Core) : (modCore s die core f).evtRing = s.evtRing := by simp only [modCore, setCore]
@[simp] theorem modCore_msix (s : State) (die core : Nat) (f : Core → Core) : (modCore s die core f).msix = s.msix := by simp only [modCore, setCore]
@[simp] theorem modCore_msixPending (s : State) (die core : Nat) (f : Core → Core) : (modCore s die core f).msixPending = s.msixPending := by simp only [modCore, setCore]
@[simp] theorem modCore_out (s : State) (die core : Nat) (f : Core → Core) : (modCore s die core f).out = s.out := by simp only [modCore, setCore]
@[simp] theorem modCore_biLines (s : State) (die core : Nat) (f : Core → Core) : (modCore s die core f).biLines = s.biLines := by simp only [modCore, setCore]
@[simp] theorem modCore_biOld (s : State) (die core : Nat) (f : Core → Core) : (modCore s die core f).biOld = s.biOld := by simp only [modCore, setCore]
@[simp] theorem modCore_mapVector (s : State) (die core : Nat) (f : Core → Core) : (modCore s die core f).mapVector = s.mapVector := by simp only [modCore, setCore]
@[simp] theorem modCore_bar0 (s : State) (die core : Nat) (f : Core → Core) : (modCore s die core f).bar0 = s.bar0 := by simp only [modCore, setCore]
@[simp] theorem modCore_boot (s : State) (die core : Nat) (f : Core → Core) : (modCore s die core f).boot = s.boot := by simp only [modCore, setCore]
@[simp] theorem modCore_pwr (s : State) (die core : Nat) (f : Core → Core) : (modCore s die core f).pwr = s.pwr := by simp only [modCore, setCore]
@[simp] theorem modCore_pair (s : State) (die core : Nat) (f : Core → Core) : (modCore s die core f).pair = s.pair := by simp only [modCore, setCore]
@[simp] theorem modCore_seqs (s : State) (die core : Nat) (f : Core → Core) : (modCore s die core f).seqs = s.seqs := by simp only [modCore, setCore]
@[simp] theorem modCore_regions (s : State) (die core : Nat) (f : Core → Core) : (modCore s die core f).regions = s.regions := by simp only [modCore, setCore]
@[simp] theorem modCore_jobs (s : State) (die core : Nat) (f : Core → Core) : (modCore s die core f).jobs = s.jobs := by simp only [modCore, setCore]
@[simp] theorem modCore_cfg (s : State) (die core : Nat) (f : Core → Core) : (modCore s die core f).cfg = s.cfg := by simp only [modCore, setCore]

@[simp] theorem setSeq_pending (s : State) (die : Nat) (u : SeqUnit) : (setSeq s die u).pending = s.pending := by simp only [setSeq]
@[simp] theorem setSeq_now (s : State) (die : Nat) (u : SeqUnit) : (setSeq s die u).now = s.now := by simp only [setSeq]
@[simp] theorem setSeq_freeCtr (s : State) (die : Nat) (u : SeqUnit) : (setSeq s die u).freeCtr = s.freeCtr := by simp only [setSeq]
@[simp] theorem setSeq_mem (s : State) (die : Nat) (u : SeqUnit) : (setSeq s die u).mem = s.mem := by simp only [setSeq]
@[simp] theorem setSeq_flips (s : State) (die : Nat) (u : SeqUnit) : (setSeq s die u).flips = s.flips := by simp only [setSeq]
@[simp] theorem setSeq_flash (s : State) (die : Nat) (u : SeqUnit) : (setSeq s die u).flash = s.flash := by simp only [setSeq]
@[simp] theorem setSeq_pages (s : State) (die : Nat) (u : SeqUnit) : (setSeq s die u).pages = s.pages := by simp only [setSeq]
@[simp] theorem setSeq_goodDies (s : State) (die : Nat) (u : SeqUnit) : (setSeq s die u).goodDies = s.goodDies := by simp only [setSeq]
@[simp] theorem setSeq_goodFar (s : State) (die : Nat) (u : SeqUnit) : (setSeq s die u).goodFar = s.goodFar := by simp only [setSeq]
@[simp] theorem setSeq_dies (s : State) (die : Nat) (u : SeqUnit) : (setSeq s die u).dies = s.dies := by simp only [setSeq]
@[simp] theorem setSeq_kettles (s : State) (die : Nat) (u : SeqUnit) : (setSeq s die u).kettles = s.kettles := by simp only [setSeq]
@[simp] theorem setSeq_net (s : State) (die : Nat) (u : SeqUnit) : (setSeq s die u).net = s.net := by simp only [setSeq]
@[simp] theorem setSeq_ev (s : State) (die : Nat) (u : SeqUnit) : (setSeq s die u).ev = s.ev := by simp only [setSeq]
@[simp] theorem setSeq_tel (s : State) (die : Nat) (u : SeqUnit) : (setSeq s die u).tel = s.tel := by simp only [setSeq]
@[simp] theorem setSeq_lastFault (s : State) (die : Nat) (u : SeqUnit) : (setSeq s die u).lastFault = s.lastFault := by simp only [setSeq]
@[simp] theorem setSeq_sTiles (s : State) (die : Nat) (u : SeqUnit) : (setSeq s die u).sTiles = s.sTiles := by simp only [setSeq]
@[simp] theorem setSeq_mTiles (s : State) (die : Nat) (u : SeqUnit) : (setSeq s die u).mTiles = s.mTiles := by simp only [setSeq]
@[simp] theorem setSeq_host (s : State) (die : Nat) (u : SeqUnit) : (setSeq s die u).host = s.host := by simp only [setSeq]
@[simp] theorem setSeq_vTiles (s : State) (die : Nat) (u : SeqUnit) : (setSeq s die u).vTiles = s.vTiles := by simp only [setSeq]
@[simp] theorem setSeq_fTiles (s : State) (die : Nat) (u : SeqUnit) : (setSeq s die u).fTiles = s.fTiles := by simp only [setSeq]
@[simp] theorem setSeq_grain (s : State) (die : Nat) (u : SeqUnit) : (setSeq s die u).grain = s.grain := by simp only [setSeq]
@[simp] theorem setSeq_engines (s : State) (die : Nat) (u : SeqUnit) : (setSeq s die u).engines = s.engines := by simp only [setSeq]
@[simp] theorem setSeq_queues (s : State) (die : Nat) (u : SeqUnit) : (setSeq s die u).queues = s.queues := by simp only [setSeq]
@[simp] theorem setSeq_link (s : State) (die : Nat) (u : SeqUnit) : (setSeq s die u).link = s.link := by simp only [setSeq]
@[simp] theorem setSeq_decoders (s : State) (die : Nat) (u : SeqUnit) : (setSeq s die u).decoders = s.decoders := by simp only [setSeq]
@[simp] theorem setSeq_evtRing (s : State) (die : Nat) (u : SeqUnit) : (setSeq s die u).evtRing = s.evtRing := by simp only [setSeq]
@[simp] theorem setSeq_msix (s : State) (die : Nat) (u : SeqUnit) : (setSeq s die u).msix = s.msix := by simp only [setSeq]
@[simp] theorem setSeq_msixPending (s : State) (die : Nat) (u : SeqUnit) : (setSeq s die u).msixPending = s.msixPending := by simp only [setSeq]
@[simp] theorem setSeq_out (s : State) (die : Nat) (u : SeqUnit) : (setSeq s die u).out = s.out := by simp only [setSeq]
@[simp] theorem setSeq_biLines (s : State) (die : Nat) (u : SeqUnit) : (setSeq s die u).biLines = s.biLines := by simp only [setSeq]
@[simp] theorem setSeq_biOld (s : State) (die : Nat) (u : SeqUnit) : (setSeq s die u).biOld = s.biOld := by simp only [setSeq]
@[simp] theorem setSeq_mapVector (s : State) (die : Nat) (u : SeqUnit) : (setSeq s die u).mapVector = s.mapVector := by simp only [setSeq]
@[simp] theorem setSeq_bar0 (s : State) (die : Nat) (u : SeqUnit) : (setSeq s die u).bar0 = s.bar0 := by simp only [setSeq]
@[simp] theorem setSeq_cores (s : State) (die : Nat) (u : SeqUnit) : (setSeq s die u).cores = s.cores := by simp only [setSeq]
@[simp] theorem setSeq_boot (s : State) (die : Nat) (u : SeqUnit) : (setSeq s die u).boot = s.boot := by simp only [setSeq]
@[simp] theorem setSeq_pwr (s : State) (die : Nat) (u : SeqUnit) : (setSeq s die u).pwr = s.pwr := by simp only [setSeq]
@[simp] theorem setSeq_pair (s : State) (die : Nat) (u : SeqUnit) : (setSeq s die u).pair = s.pair := by simp only [setSeq]
@[simp] theorem setSeq_regions (s : State) (die : Nat) (u : SeqUnit) : (setSeq s die u).regions = s.regions := by simp only [setSeq]
@[simp] theorem setSeq_jobs (s : State) (die : Nat) (u : SeqUnit) : (setSeq s die u).jobs = s.jobs := by simp only [setSeq]
@[simp] theorem setSeq_cfg (s : State) (die : Nat) (u : SeqUnit) : (setSeq s die u).cfg = s.cfg := by simp only [setSeq]

@[simp] theorem setQ_pending (s : State) (q : Nat) (h : HQueue) : (setQ s q h).pending = s.pending := by simp only [setQ]
@[simp] theorem setQ_now (s : State) (q : Nat) (h : HQueue) : (setQ s q h).now = s.now := by simp only [setQ]
@[simp] theorem setQ_freeCtr (s : State) (q : Nat) (h : HQueue) : (setQ s q h).freeCtr = s.freeCtr := by simp only [setQ]
@[simp] theorem setQ_mem (s : State) (q : Nat) (h : HQueue) : (setQ s q h).mem = s.mem := by simp only [setQ]
@[simp] theorem setQ_flips (s : State) (q : Nat) (h : HQueue) : (setQ s q h).flips = s.flips := by simp only [setQ]
@[simp] theorem setQ_flash (s : State) (q : Nat) (h : HQueue) : (setQ s q h).flash = s.flash := by simp only [setQ]
@[simp] theorem setQ_pages (s : State) (q : Nat) (h : HQueue) : (setQ s q h).pages = s.pages := by simp only [setQ]
@[simp] theorem setQ_goodDies (s : State) (q : Nat) (h : HQueue) : (setQ s q h).goodDies = s.goodDies := by simp only [setQ]
@[simp] theorem setQ_goodFar (s : State) (q : Nat) (h : HQueue) : (setQ s q h).goodFar = s.goodFar := by simp only [setQ]
@[simp] theorem setQ_dies (s : State) (q : Nat) (h : HQueue) : (setQ s q h).dies = s.dies := by simp only [setQ]
@[simp] theorem setQ_kettles (s : State) (q : Nat) (h : HQueue) : (setQ s q h).kettles = s.kettles := by simp only [setQ]
@[simp] theorem setQ_net (s : State) (q : Nat) (h : HQueue) : (setQ s q h).net = s.net := by simp only [setQ]
@[simp] theorem setQ_ev (s : State) (q : Nat) (h : HQueue) : (setQ s q h).ev = s.ev := by simp only [setQ]
@[simp] theorem setQ_tel (s : State) (q : Nat) (h : HQueue) : (setQ s q h).tel = s.tel := by simp only [setQ]
@[simp] theorem setQ_lastFault (s : State) (q : Nat) (h : HQueue) : (setQ s q h).lastFault = s.lastFault := by simp only [setQ]
@[simp] theorem setQ_sTiles (s : State) (q : Nat) (h : HQueue) : (setQ s q h).sTiles = s.sTiles := by simp only [setQ]
@[simp] theorem setQ_mTiles (s : State) (q : Nat) (h : HQueue) : (setQ s q h).mTiles = s.mTiles := by simp only [setQ]
@[simp] theorem setQ_host (s : State) (q : Nat) (h : HQueue) : (setQ s q h).host = s.host := by simp only [setQ]
@[simp] theorem setQ_vTiles (s : State) (q : Nat) (h : HQueue) : (setQ s q h).vTiles = s.vTiles := by simp only [setQ]
@[simp] theorem setQ_fTiles (s : State) (q : Nat) (h : HQueue) : (setQ s q h).fTiles = s.fTiles := by simp only [setQ]
@[simp] theorem setQ_grain (s : State) (q : Nat) (h : HQueue) : (setQ s q h).grain = s.grain := by simp only [setQ]
@[simp] theorem setQ_engines (s : State) (q : Nat) (h : HQueue) : (setQ s q h).engines = s.engines := by simp only [setQ]
@[simp] theorem setQ_link (s : State) (q : Nat) (h : HQueue) : (setQ s q h).link = s.link := by simp only [setQ]
@[simp] theorem setQ_decoders (s : State) (q : Nat) (h : HQueue) : (setQ s q h).decoders = s.decoders := by simp only [setQ]
@[simp] theorem setQ_evtRing (s : State) (q : Nat) (h : HQueue) : (setQ s q h).evtRing = s.evtRing := by simp only [setQ]
@[simp] theorem setQ_msix (s : State) (q : Nat) (h : HQueue) : (setQ s q h).msix = s.msix := by simp only [setQ]
@[simp] theorem setQ_msixPending (s : State) (q : Nat) (h : HQueue) : (setQ s q h).msixPending = s.msixPending := by simp only [setQ]
@[simp] theorem setQ_out (s : State) (q : Nat) (h : HQueue) : (setQ s q h).out = s.out := by simp only [setQ]
@[simp] theorem setQ_biLines (s : State) (q : Nat) (h : HQueue) : (setQ s q h).biLines = s.biLines := by simp only [setQ]
@[simp] theorem setQ_biOld (s : State) (q : Nat) (h : HQueue) : (setQ s q h).biOld = s.biOld := by simp only [setQ]
@[simp] theorem setQ_mapVector (s : State) (q : Nat) (h : HQueue) : (setQ s q h).mapVector = s.mapVector := by simp only [setQ]
@[simp] theorem setQ_bar0 (s : State) (q : Nat) (h : HQueue) : (setQ s q h).bar0 = s.bar0 := by simp only [setQ]
@[simp] theorem setQ_cores (s : State) (q : Nat) (h : HQueue) : (setQ s q h).cores = s.cores := by simp only [setQ]
@[simp] theorem setQ_boot (s : State) (q : Nat) (h : HQueue) : (setQ s q h).boot = s.boot := by simp only [setQ]
@[simp] theorem setQ_pwr (s : State) (q : Nat) (h : HQueue) : (setQ s q h).pwr = s.pwr := by simp only [setQ]
@[simp] theorem setQ_pair (s : State) (q : Nat) (h : HQueue) : (setQ s q h).pair = s.pair := by simp only [setQ]
@[simp] theorem setQ_seqs (s : State) (q : Nat) (h : HQueue) : (setQ s q h).seqs = s.seqs := by simp only [setQ]
@[simp] theorem setQ_regions (s : State) (q : Nat) (h : HQueue) : (setQ s q h).regions = s.regions := by simp only [setQ]
@[simp] theorem setQ_jobs (s : State) (q : Nat) (h : HQueue) : (setQ s q h).jobs = s.jobs := by simp only [setQ]
@[simp] theorem setQ_cfg (s : State) (q : Nat) (h : HQueue) : (setQ s q h).cfg = s.cfg := by simp only [setQ]

@[simp] theorem modQ_pending (s : State) (q : Nat) (f : HQueue → HQueue) : (modQ s q f).pending = s.pending := by simp only [modQ, setQ]
@[simp] theorem modQ_now (s : State) (q : Nat) (f : HQueue → HQueue) : (modQ s q f).now = s.now := by simp only [modQ, setQ]
@[simp] theorem modQ_freeCtr (s : State) (q : Nat) (f : HQueue → HQueue) : (modQ s q f).freeCtr = s.freeCtr := by simp only [modQ, setQ]
@[simp] theorem modQ_mem (s : State) (q : Nat) (f : HQueue → HQueue) : (modQ s q f).mem = s.mem := by simp only [modQ, setQ]
@[simp] theorem modQ_flips (s : State) (q : Nat) (f : HQueue → HQueue) : (modQ s q f).flips = s.flips := by simp only [modQ, setQ]
@[simp] theorem modQ_flash (s : State) (q : Nat) (f : HQueue → HQueue) : (modQ s q f).flash = s.flash := by simp only [modQ, setQ]
@[simp] theorem modQ_pages (s : State) (q : Nat) (f : HQueue → HQueue) : (modQ s q f).pages = s.pages := by simp only [modQ, setQ]
@[simp] theorem modQ_goodDies (s : State) (q : Nat) (f : HQueue → HQueue) : (modQ s q f).goodDies = s.goodDies := by simp only [modQ, setQ]
@[simp] theorem modQ_goodFar (s : State) (q : Nat) (f : HQueue → HQueue) : (modQ s q f).goodFar = s.goodFar := by simp only [modQ, setQ]
@[simp] theorem modQ_dies (s : State) (q : Nat) (f : HQueue → HQueue) : (modQ s q f).dies = s.dies := by simp only [modQ, setQ]
@[simp] theorem modQ_kettles (s : State) (q : Nat) (f : HQueue → HQueue) : (modQ s q f).kettles = s.kettles := by simp only [modQ, setQ]
@[simp] theorem modQ_net (s : State) (q : Nat) (f : HQueue → HQueue) : (modQ s q f).net = s.net := by simp only [modQ, setQ]
@[simp] theorem modQ_ev (s : State) (q : Nat) (f : HQueue → HQueue) : (modQ s q f).ev = s.ev := by simp only [modQ, setQ]
@[simp] theorem modQ_tel (s : State) (q : Nat) (f : HQueue → HQueue) : (modQ s q f).tel = s.tel := by simp only [modQ, setQ]
@[simp] theorem modQ_lastFault (s : State) (q : Nat) (f : HQueue → HQueue) : (modQ s q f).lastFault = s.lastFault := by simp only [modQ, setQ]
@[simp] theorem modQ_sTiles (s : State) (q : Nat) (f : HQueue → HQueue) : (modQ s q f).sTiles = s.sTiles := by simp only [modQ, setQ]
@[simp] theorem modQ_mTiles (s : State) (q : Nat) (f : HQueue → HQueue) : (modQ s q f).mTiles = s.mTiles := by simp only [modQ, setQ]
@[simp] theorem modQ_host (s : State) (q : Nat) (f : HQueue → HQueue) : (modQ s q f).host = s.host := by simp only [modQ, setQ]
@[simp] theorem modQ_vTiles (s : State) (q : Nat) (f : HQueue → HQueue) : (modQ s q f).vTiles = s.vTiles := by simp only [modQ, setQ]
@[simp] theorem modQ_fTiles (s : State) (q : Nat) (f : HQueue → HQueue) : (modQ s q f).fTiles = s.fTiles := by simp only [modQ, setQ]
@[simp] theorem modQ_grain (s : State) (q : Nat) (f : HQueue → HQueue) : (modQ s q f).grain = s.grain := by simp only [modQ, setQ]
@[simp] theorem modQ_engines (s : State) (q : Nat) (f : HQueue → HQueue) : (modQ s q f).engines = s.engines := by simp only [modQ, setQ]
@[simp] theorem modQ_link (s : State) (q : Nat) (f : HQueue → HQueue) : (modQ s q f).link = s.link := by simp only [modQ, setQ]
@[simp] theorem modQ_decoders (s : State) (q : Nat) (f : HQueue → HQueue) : (modQ s q f).decoders = s.decoders := by simp only [modQ, setQ]
@[simp] theorem modQ_evtRing (s : State) (q : Nat) (f : HQueue → HQueue) : (modQ s q f).evtRing = s.evtRing := by simp only [modQ, setQ]
@[simp] theorem modQ_msix (s : State) (q : Nat) (f : HQueue → HQueue) : (modQ s q f).msix = s.msix := by simp only [modQ, setQ]
@[simp] theorem modQ_msixPending (s : State) (q : Nat) (f : HQueue → HQueue) : (modQ s q f).msixPending = s.msixPending := by simp only [modQ, setQ]
@[simp] theorem modQ_out (s : State) (q : Nat) (f : HQueue → HQueue) : (modQ s q f).out = s.out := by simp only [modQ, setQ]
@[simp] theorem modQ_biLines (s : State) (q : Nat) (f : HQueue → HQueue) : (modQ s q f).biLines = s.biLines := by simp only [modQ, setQ]
@[simp] theorem modQ_biOld (s : State) (q : Nat) (f : HQueue → HQueue) : (modQ s q f).biOld = s.biOld := by simp only [modQ, setQ]
@[simp] theorem modQ_mapVector (s : State) (q : Nat) (f : HQueue → HQueue) : (modQ s q f).mapVector = s.mapVector := by simp only [modQ, setQ]
@[simp] theorem modQ_bar0 (s : State) (q : Nat) (f : HQueue → HQueue) : (modQ s q f).bar0 = s.bar0 := by simp only [modQ, setQ]
@[simp] theorem modQ_cores (s : State) (q : Nat) (f : HQueue → HQueue) : (modQ s q f).cores = s.cores := by simp only [modQ, setQ]
@[simp] theorem modQ_boot (s : State) (q : Nat) (f : HQueue → HQueue) : (modQ s q f).boot = s.boot := by simp only [modQ, setQ]
@[simp] theorem modQ_pwr (s : State) (q : Nat) (f : HQueue → HQueue) : (modQ s q f).pwr = s.pwr := by simp only [modQ, setQ]
@[simp] theorem modQ_pair (s : State) (q : Nat) (f : HQueue → HQueue) : (modQ s q f).pair = s.pair := by simp only [modQ, setQ]
@[simp] theorem modQ_seqs (s : State) (q : Nat) (f : HQueue → HQueue) : (modQ s q f).seqs = s.seqs := by simp only [modQ, setQ]
@[simp] theorem modQ_regions (s : State) (q : Nat) (f : HQueue → HQueue) : (modQ s q f).regions = s.regions := by simp only [modQ, setQ]
@[simp] theorem modQ_jobs (s : State) (q : Nat) (f : HQueue → HQueue) : (modQ s q f).jobs = s.jobs := by simp only [modQ, setQ]
@[simp] theorem modQ_cfg (s : State) (q : Nat) (f : HQueue → HQueue) : (modQ s q f).cfg = s.cfg := by simp only [modQ, setQ]

@[simp] theorem modCmd_pending (s : State) (q seq : Nat) (f : HCmd → HCmd) : (modCmd s q seq f).pending = s.pending := by simp only [modCmd, modQ, setQ]
@[simp] theorem modCmd_now (s : State) (q seq : Nat) (f : HCmd → HCmd) : (modCmd s q seq f).now = s.now := by simp only [modCmd, modQ, setQ]
@[simp] theorem modCmd_freeCtr (s : State) (q seq : Nat) (f : HCmd → HCmd) : (modCmd s q seq f).freeCtr = s.freeCtr := by simp only [modCmd, modQ, setQ]
@[simp] theorem modCmd_mem (s : State) (q seq : Nat) (f : HCmd → HCmd) : (modCmd s q seq f).mem = s.mem := by simp only [modCmd, modQ, setQ]
@[simp] theorem modCmd_flips (s : State) (q seq : Nat) (f : HCmd → HCmd) : (modCmd s q seq f).flips = s.flips := by simp only [modCmd, modQ, setQ]
@[simp] theorem modCmd_flash (s : State) (q seq : Nat) (f : HCmd → HCmd) : (modCmd s q seq f).flash = s.flash := by simp only [modCmd, modQ, setQ]
@[simp] theorem modCmd_pages (s : State) (q seq : Nat) (f : HCmd → HCmd) : (modCmd s q seq f).pages = s.pages := by simp only [modCmd, modQ, setQ]
@[simp] theorem modCmd_goodDies (s : State) (q seq : Nat) (f : HCmd → HCmd) : (modCmd s q seq f).goodDies = s.goodDies := by simp only [modCmd, modQ, setQ]
@[simp] theorem modCmd_goodFar (s : State) (q seq : Nat) (f : HCmd → HCmd) : (modCmd s q seq f).goodFar = s.goodFar := by simp only [modCmd, modQ, setQ]
@[simp] theorem modCmd_dies (s : State) (q seq : Nat) (f : HCmd → HCmd) : (modCmd s q seq f).dies = s.dies := by simp only [modCmd, modQ, setQ]
@[simp] theorem modCmd_kettles (s : State) (q seq : Nat) (f : HCmd → HCmd) : (modCmd s q seq f).kettles = s.kettles := by simp only [modCmd, modQ, setQ]
@[simp] theorem modCmd_net (s : State) (q seq : Nat) (f : HCmd → HCmd) : (modCmd s q seq f).net = s.net := by simp only [modCmd, modQ, setQ]
@[simp] theorem modCmd_ev (s : State) (q seq : Nat) (f : HCmd → HCmd) : (modCmd s q seq f).ev = s.ev := by simp only [modCmd, modQ, setQ]
@[simp] theorem modCmd_tel (s : State) (q seq : Nat) (f : HCmd → HCmd) : (modCmd s q seq f).tel = s.tel := by simp only [modCmd, modQ, setQ]
@[simp] theorem modCmd_lastFault (s : State) (q seq : Nat) (f : HCmd → HCmd) : (modCmd s q seq f).lastFault = s.lastFault := by simp only [modCmd, modQ, setQ]
@[simp] theorem modCmd_sTiles (s : State) (q seq : Nat) (f : HCmd → HCmd) : (modCmd s q seq f).sTiles = s.sTiles := by simp only [modCmd, modQ, setQ]
@[simp] theorem modCmd_mTiles (s : State) (q seq : Nat) (f : HCmd → HCmd) : (modCmd s q seq f).mTiles = s.mTiles := by simp only [modCmd, modQ, setQ]
@[simp] theorem modCmd_host (s : State) (q seq : Nat) (f : HCmd → HCmd) : (modCmd s q seq f).host = s.host := by simp only [modCmd, modQ, setQ]
@[simp] theorem modCmd_vTiles (s : State) (q seq : Nat) (f : HCmd → HCmd) : (modCmd s q seq f).vTiles = s.vTiles := by simp only [modCmd, modQ, setQ]
@[simp] theorem modCmd_fTiles (s : State) (q seq : Nat) (f : HCmd → HCmd) : (modCmd s q seq f).fTiles = s.fTiles := by simp only [modCmd, modQ, setQ]
@[simp] theorem modCmd_grain (s : State) (q seq : Nat) (f : HCmd → HCmd) : (modCmd s q seq f).grain = s.grain := by simp only [modCmd, modQ, setQ]
@[simp] theorem modCmd_engines (s : State) (q seq : Nat) (f : HCmd → HCmd) : (modCmd s q seq f).engines = s.engines := by simp only [modCmd, modQ, setQ]
@[simp] theorem modCmd_link (s : State) (q seq : Nat) (f : HCmd → HCmd) : (modCmd s q seq f).link = s.link := by simp only [modCmd, modQ, setQ]
@[simp] theorem modCmd_decoders (s : State) (q seq : Nat) (f : HCmd → HCmd) : (modCmd s q seq f).decoders = s.decoders := by simp only [modCmd, modQ, setQ]
@[simp] theorem modCmd_evtRing (s : State) (q seq : Nat) (f : HCmd → HCmd) : (modCmd s q seq f).evtRing = s.evtRing := by simp only [modCmd, modQ, setQ]
@[simp] theorem modCmd_msix (s : State) (q seq : Nat) (f : HCmd → HCmd) : (modCmd s q seq f).msix = s.msix := by simp only [modCmd, modQ, setQ]
@[simp] theorem modCmd_msixPending (s : State) (q seq : Nat) (f : HCmd → HCmd) : (modCmd s q seq f).msixPending = s.msixPending := by simp only [modCmd, modQ, setQ]
@[simp] theorem modCmd_out (s : State) (q seq : Nat) (f : HCmd → HCmd) : (modCmd s q seq f).out = s.out := by simp only [modCmd, modQ, setQ]
@[simp] theorem modCmd_biLines (s : State) (q seq : Nat) (f : HCmd → HCmd) : (modCmd s q seq f).biLines = s.biLines := by simp only [modCmd, modQ, setQ]
@[simp] theorem modCmd_biOld (s : State) (q seq : Nat) (f : HCmd → HCmd) : (modCmd s q seq f).biOld = s.biOld := by simp only [modCmd, modQ, setQ]
@[simp] theorem modCmd_mapVector (s : State) (q seq : Nat) (f : HCmd → HCmd) : (modCmd s q seq f).mapVector = s.mapVector := by simp only [modCmd, modQ, setQ]
@[simp] theorem modCmd_bar0 (s : State) (q seq : Nat) (f : HCmd → HCmd) : (modCmd s q seq f).bar0 = s.bar0 := by simp only [modCmd, modQ, setQ]
@[simp] theorem modCmd_cores (s : State) (q seq : Nat) (f : HCmd → HCmd) : (modCmd s q seq f).cores = s.cores := by simp only [modCmd, modQ, setQ]
@[simp] theorem modCmd_boot (s : State) (q seq : Nat) (f : HCmd → HCmd) : (modCmd s q seq f).boot = s.boot := by simp only [modCmd, modQ, setQ]
@[simp] theorem modCmd_pwr (s : State) (q seq : Nat) (f : HCmd → HCmd) : (modCmd s q seq f).pwr = s.pwr := by simp only [modCmd, modQ, setQ]
@[simp] theorem modCmd_pair (s : State) (q seq : Nat) (f : HCmd → HCmd) : (modCmd s q seq f).pair = s.pair := by simp only [modCmd, modQ, setQ]
@[simp] theorem modCmd_seqs (s : State) (q seq : Nat) (f : HCmd → HCmd) : (modCmd s q seq f).seqs = s.seqs := by simp only [modCmd, modQ, setQ]
@[simp] theorem modCmd_regions (s : State) (q seq : Nat) (f : HCmd → HCmd) : (modCmd s q seq f).regions = s.regions := by simp only [modCmd, modQ, setQ]
@[simp] theorem modCmd_jobs (s : State) (q seq : Nat) (f : HCmd → HCmd) : (modCmd s q seq f).jobs = s.jobs := by simp only [modCmd, modQ, setQ]
@[simp] theorem modCmd_cfg (s : State) (q seq : Nat) (f : HCmd → HCmd) : (modCmd s q seq f).cfg = s.cfg := by simp only [modCmd, modQ, setQ]

@[simp] theorem emit_pending (s : State) (o : PkgOut) : (emit s o).pending = s.pending := by simp only [emit]
@[simp] theorem emit_now (s : State) (o : PkgOut) : (emit s o).now = s.now := by simp only [emit]
@[simp] theorem emit_freeCtr (s : State) (o : PkgOut) : (emit s o).freeCtr = s.freeCtr := by simp only [emit]
@[simp] theorem emit_mem (s : State) (o : PkgOut) : (emit s o).mem = s.mem := by simp only [emit]
@[simp] theorem emit_flips (s : State) (o : PkgOut) : (emit s o).flips = s.flips := by simp only [emit]
@[simp] theorem emit_flash (s : State) (o : PkgOut) : (emit s o).flash = s.flash := by simp only [emit]
@[simp] theorem emit_pages (s : State) (o : PkgOut) : (emit s o).pages = s.pages := by simp only [emit]
@[simp] theorem emit_goodDies (s : State) (o : PkgOut) : (emit s o).goodDies = s.goodDies := by simp only [emit]
@[simp] theorem emit_goodFar (s : State) (o : PkgOut) : (emit s o).goodFar = s.goodFar := by simp only [emit]
@[simp] theorem emit_dies (s : State) (o : PkgOut) : (emit s o).dies = s.dies := by simp only [emit]
@[simp] theorem emit_kettles (s : State) (o : PkgOut) : (emit s o).kettles = s.kettles := by simp only [emit]
@[simp] theorem emit_net (s : State) (o : PkgOut) : (emit s o).net = s.net := by simp only [emit]
@[simp] theorem emit_ev (s : State) (o : PkgOut) : (emit s o).ev = s.ev := by simp only [emit]
@[simp] theorem emit_tel (s : State) (o : PkgOut) : (emit s o).tel = s.tel := by simp only [emit]
@[simp] theorem emit_lastFault (s : State) (o : PkgOut) : (emit s o).lastFault = s.lastFault := by simp only [emit]
@[simp] theorem emit_sTiles (s : State) (o : PkgOut) : (emit s o).sTiles = s.sTiles := by simp only [emit]
@[simp] theorem emit_mTiles (s : State) (o : PkgOut) : (emit s o).mTiles = s.mTiles := by simp only [emit]
@[simp] theorem emit_host (s : State) (o : PkgOut) : (emit s o).host = s.host := by simp only [emit]
@[simp] theorem emit_vTiles (s : State) (o : PkgOut) : (emit s o).vTiles = s.vTiles := by simp only [emit]
@[simp] theorem emit_fTiles (s : State) (o : PkgOut) : (emit s o).fTiles = s.fTiles := by simp only [emit]
@[simp] theorem emit_grain (s : State) (o : PkgOut) : (emit s o).grain = s.grain := by simp only [emit]
@[simp] theorem emit_engines (s : State) (o : PkgOut) : (emit s o).engines = s.engines := by simp only [emit]
@[simp] theorem emit_queues (s : State) (o : PkgOut) : (emit s o).queues = s.queues := by simp only [emit]
@[simp] theorem emit_link (s : State) (o : PkgOut) : (emit s o).link = s.link := by simp only [emit]
@[simp] theorem emit_decoders (s : State) (o : PkgOut) : (emit s o).decoders = s.decoders := by simp only [emit]
@[simp] theorem emit_evtRing (s : State) (o : PkgOut) : (emit s o).evtRing = s.evtRing := by simp only [emit]
@[simp] theorem emit_msix (s : State) (o : PkgOut) : (emit s o).msix = s.msix := by simp only [emit]
@[simp] theorem emit_msixPending (s : State) (o : PkgOut) : (emit s o).msixPending = s.msixPending := by simp only [emit]
@[simp] theorem emit_biLines (s : State) (o : PkgOut) : (emit s o).biLines = s.biLines := by simp only [emit]
@[simp] theorem emit_biOld (s : State) (o : PkgOut) : (emit s o).biOld = s.biOld := by simp only [emit]
@[simp] theorem emit_mapVector (s : State) (o : PkgOut) : (emit s o).mapVector = s.mapVector := by simp only [emit]
@[simp] theorem emit_bar0 (s : State) (o : PkgOut) : (emit s o).bar0 = s.bar0 := by simp only [emit]
@[simp] theorem emit_cores (s : State) (o : PkgOut) : (emit s o).cores = s.cores := by simp only [emit]
@[simp] theorem emit_boot (s : State) (o : PkgOut) : (emit s o).boot = s.boot := by simp only [emit]
@[simp] theorem emit_pwr (s : State) (o : PkgOut) : (emit s o).pwr = s.pwr := by simp only [emit]
@[simp] theorem emit_pair (s : State) (o : PkgOut) : (emit s o).pair = s.pair := by simp only [emit]
@[simp] theorem emit_seqs (s : State) (o : PkgOut) : (emit s o).seqs = s.seqs := by simp only [emit]
@[simp] theorem emit_regions (s : State) (o : PkgOut) : (emit s o).regions = s.regions := by simp only [emit]
@[simp] theorem emit_jobs (s : State) (o : PkgOut) : (emit s o).jobs = s.jobs := by simp only [emit]
@[simp] theorem emit_cfg (s : State) (o : PkgOut) : (emit s o).cfg = s.cfg := by simp only [emit]

@[simp] theorem hostWrite_pending (s : State) (a : Nat) (bs : List Byte) (use : WriteFor) : (hostWrite s a bs use).pending = s.pending := by simp only [hostWrite]
@[simp] theorem hostWrite_now (s : State) (a : Nat) (bs : List Byte) (use : WriteFor) : (hostWrite s a bs use).now = s.now := by simp only [hostWrite]
@[simp] theorem hostWrite_freeCtr (s : State) (a : Nat) (bs : List Byte) (use : WriteFor) : (hostWrite s a bs use).freeCtr = s.freeCtr := by simp only [hostWrite]
@[simp] theorem hostWrite_mem (s : State) (a : Nat) (bs : List Byte) (use : WriteFor) : (hostWrite s a bs use).mem = s.mem := by simp only [hostWrite]
@[simp] theorem hostWrite_flips (s : State) (a : Nat) (bs : List Byte) (use : WriteFor) : (hostWrite s a bs use).flips = s.flips := by simp only [hostWrite]
@[simp] theorem hostWrite_flash (s : State) (a : Nat) (bs : List Byte) (use : WriteFor) : (hostWrite s a bs use).flash = s.flash := by simp only [hostWrite]
@[simp] theorem hostWrite_pages (s : State) (a : Nat) (bs : List Byte) (use : WriteFor) : (hostWrite s a bs use).pages = s.pages := by simp only [hostWrite]
@[simp] theorem hostWrite_goodDies (s : State) (a : Nat) (bs : List Byte) (use : WriteFor) : (hostWrite s a bs use).goodDies = s.goodDies := by simp only [hostWrite]
@[simp] theorem hostWrite_goodFar (s : State) (a : Nat) (bs : List Byte) (use : WriteFor) : (hostWrite s a bs use).goodFar = s.goodFar := by simp only [hostWrite]
@[simp] theorem hostWrite_dies (s : State) (a : Nat) (bs : List Byte) (use : WriteFor) : (hostWrite s a bs use).dies = s.dies := by simp only [hostWrite]
@[simp] theorem hostWrite_kettles (s : State) (a : Nat) (bs : List Byte) (use : WriteFor) : (hostWrite s a bs use).kettles = s.kettles := by simp only [hostWrite]
@[simp] theorem hostWrite_net (s : State) (a : Nat) (bs : List Byte) (use : WriteFor) : (hostWrite s a bs use).net = s.net := by simp only [hostWrite]
@[simp] theorem hostWrite_ev (s : State) (a : Nat) (bs : List Byte) (use : WriteFor) : (hostWrite s a bs use).ev = s.ev := by simp only [hostWrite]
@[simp] theorem hostWrite_tel (s : State) (a : Nat) (bs : List Byte) (use : WriteFor) : (hostWrite s a bs use).tel = s.tel := by simp only [hostWrite]
@[simp] theorem hostWrite_lastFault (s : State) (a : Nat) (bs : List Byte) (use : WriteFor) : (hostWrite s a bs use).lastFault = s.lastFault := by simp only [hostWrite]
@[simp] theorem hostWrite_sTiles (s : State) (a : Nat) (bs : List Byte) (use : WriteFor) : (hostWrite s a bs use).sTiles = s.sTiles := by simp only [hostWrite]
@[simp] theorem hostWrite_mTiles (s : State) (a : Nat) (bs : List Byte) (use : WriteFor) : (hostWrite s a bs use).mTiles = s.mTiles := by simp only [hostWrite]
@[simp] theorem hostWrite_vTiles (s : State) (a : Nat) (bs : List Byte) (use : WriteFor) : (hostWrite s a bs use).vTiles = s.vTiles := by simp only [hostWrite]
@[simp] theorem hostWrite_fTiles (s : State) (a : Nat) (bs : List Byte) (use : WriteFor) : (hostWrite s a bs use).fTiles = s.fTiles := by simp only [hostWrite]
@[simp] theorem hostWrite_grain (s : State) (a : Nat) (bs : List Byte) (use : WriteFor) : (hostWrite s a bs use).grain = s.grain := by simp only [hostWrite]
@[simp] theorem hostWrite_engines (s : State) (a : Nat) (bs : List Byte) (use : WriteFor) : (hostWrite s a bs use).engines = s.engines := by simp only [hostWrite]
@[simp] theorem hostWrite_queues (s : State) (a : Nat) (bs : List Byte) (use : WriteFor) : (hostWrite s a bs use).queues = s.queues := by simp only [hostWrite]
@[simp] theorem hostWrite_link (s : State) (a : Nat) (bs : List Byte) (use : WriteFor) : (hostWrite s a bs use).link = s.link := by simp only [hostWrite]
@[simp] theorem hostWrite_decoders (s : State) (a : Nat) (bs : List Byte) (use : WriteFor) : (hostWrite s a bs use).decoders = s.decoders := by simp only [hostWrite]
@[simp] theorem hostWrite_evtRing (s : State) (a : Nat) (bs : List Byte) (use : WriteFor) : (hostWrite s a bs use).evtRing = s.evtRing := by simp only [hostWrite]
@[simp] theorem hostWrite_msix (s : State) (a : Nat) (bs : List Byte) (use : WriteFor) : (hostWrite s a bs use).msix = s.msix := by simp only [hostWrite]
@[simp] theorem hostWrite_msixPending (s : State) (a : Nat) (bs : List Byte) (use : WriteFor) : (hostWrite s a bs use).msixPending = s.msixPending := by simp only [hostWrite]
@[simp] theorem hostWrite_out (s : State) (a : Nat) (bs : List Byte) (use : WriteFor) : (hostWrite s a bs use).out = s.out := by simp only [hostWrite]
@[simp] theorem hostWrite_biLines (s : State) (a : Nat) (bs : List Byte) (use : WriteFor) : (hostWrite s a bs use).biLines = s.biLines := by simp only [hostWrite]
@[simp] theorem hostWrite_biOld (s : State) (a : Nat) (bs : List Byte) (use : WriteFor) : (hostWrite s a bs use).biOld = s.biOld := by simp only [hostWrite]
@[simp] theorem hostWrite_mapVector (s : State) (a : Nat) (bs : List Byte) (use : WriteFor) : (hostWrite s a bs use).mapVector = s.mapVector := by simp only [hostWrite]
@[simp] theorem hostWrite_bar0 (s : State) (a : Nat) (bs : List Byte) (use : WriteFor) : (hostWrite s a bs use).bar0 = s.bar0 := by simp only [hostWrite]
@[simp] theorem hostWrite_cores (s : State) (a : Nat) (bs : List Byte) (use : WriteFor) : (hostWrite s a bs use).cores = s.cores := by simp only [hostWrite]
@[simp] theorem hostWrite_boot (s : State) (a : Nat) (bs : List Byte) (use : WriteFor) : (hostWrite s a bs use).boot = s.boot := by simp only [hostWrite]
@[simp] theorem hostWrite_pwr (s : State) (a : Nat) (bs : List Byte) (use : WriteFor) : (hostWrite s a bs use).pwr = s.pwr := by simp only [hostWrite]
@[simp] theorem hostWrite_pair (s : State) (a : Nat) (bs : List Byte) (use : WriteFor) : (hostWrite s a bs use).pair = s.pair := by simp only [hostWrite]
@[simp] theorem hostWrite_seqs (s : State) (a : Nat) (bs : List Byte) (use : WriteFor) : (hostWrite s a bs use).seqs = s.seqs := by simp only [hostWrite]
@[simp] theorem hostWrite_regions (s : State) (a : Nat) (bs : List Byte) (use : WriteFor) : (hostWrite s a bs use).regions = s.regions := by simp only [hostWrite]
@[simp] theorem hostWrite_jobs (s : State) (a : Nat) (bs : List Byte) (use : WriteFor) : (hostWrite s a bs use).jobs = s.jobs := by simp only [hostWrite]
@[simp] theorem hostWrite_cfg (s : State) (a : Nat) (bs : List Byte) (use : WriteFor) : (hostWrite s a bs use).cfg = s.cfg := by simp only [hostWrite]

@[simp] theorem hostRead_pending (s : State) (a n : Nat) (use : ReadFor) : (hostRead s a n use).pending = s.pending := by simp only [hostRead]
@[simp] theorem hostRead_now (s : State) (a n : Nat) (use : ReadFor) : (hostRead s a n use).now = s.now := by simp only [hostRead]
@[simp] theorem hostRead_freeCtr (s : State) (a n : Nat) (use : ReadFor) : (hostRead s a n use).freeCtr = s.freeCtr := by simp only [hostRead]
@[simp] theorem hostRead_mem (s : State) (a n : Nat) (use : ReadFor) : (hostRead s a n use).mem = s.mem := by simp only [hostRead]
@[simp] theorem hostRead_flips (s : State) (a n : Nat) (use : ReadFor) : (hostRead s a n use).flips = s.flips := by simp only [hostRead]
@[simp] theorem hostRead_flash (s : State) (a n : Nat) (use : ReadFor) : (hostRead s a n use).flash = s.flash := by simp only [hostRead]
@[simp] theorem hostRead_pages (s : State) (a n : Nat) (use : ReadFor) : (hostRead s a n use).pages = s.pages := by simp only [hostRead]
@[simp] theorem hostRead_goodDies (s : State) (a n : Nat) (use : ReadFor) : (hostRead s a n use).goodDies = s.goodDies := by simp only [hostRead]
@[simp] theorem hostRead_goodFar (s : State) (a n : Nat) (use : ReadFor) : (hostRead s a n use).goodFar = s.goodFar := by simp only [hostRead]
@[simp] theorem hostRead_dies (s : State) (a n : Nat) (use : ReadFor) : (hostRead s a n use).dies = s.dies := by simp only [hostRead]
@[simp] theorem hostRead_kettles (s : State) (a n : Nat) (use : ReadFor) : (hostRead s a n use).kettles = s.kettles := by simp only [hostRead]
@[simp] theorem hostRead_net (s : State) (a n : Nat) (use : ReadFor) : (hostRead s a n use).net = s.net := by simp only [hostRead]
@[simp] theorem hostRead_ev (s : State) (a n : Nat) (use : ReadFor) : (hostRead s a n use).ev = s.ev := by simp only [hostRead]
@[simp] theorem hostRead_tel (s : State) (a n : Nat) (use : ReadFor) : (hostRead s a n use).tel = s.tel := by simp only [hostRead]
@[simp] theorem hostRead_lastFault (s : State) (a n : Nat) (use : ReadFor) : (hostRead s a n use).lastFault = s.lastFault := by simp only [hostRead]
@[simp] theorem hostRead_sTiles (s : State) (a n : Nat) (use : ReadFor) : (hostRead s a n use).sTiles = s.sTiles := by simp only [hostRead]
@[simp] theorem hostRead_mTiles (s : State) (a n : Nat) (use : ReadFor) : (hostRead s a n use).mTiles = s.mTiles := by simp only [hostRead]
@[simp] theorem hostRead_vTiles (s : State) (a n : Nat) (use : ReadFor) : (hostRead s a n use).vTiles = s.vTiles := by simp only [hostRead]
@[simp] theorem hostRead_fTiles (s : State) (a n : Nat) (use : ReadFor) : (hostRead s a n use).fTiles = s.fTiles := by simp only [hostRead]
@[simp] theorem hostRead_grain (s : State) (a n : Nat) (use : ReadFor) : (hostRead s a n use).grain = s.grain := by simp only [hostRead]
@[simp] theorem hostRead_engines (s : State) (a n : Nat) (use : ReadFor) : (hostRead s a n use).engines = s.engines := by simp only [hostRead]
@[simp] theorem hostRead_queues (s : State) (a n : Nat) (use : ReadFor) : (hostRead s a n use).queues = s.queues := by simp only [hostRead]
@[simp] theorem hostRead_link (s : State) (a n : Nat) (use : ReadFor) : (hostRead s a n use).link = s.link := by simp only [hostRead]
@[simp] theorem hostRead_decoders (s : State) (a n : Nat) (use : ReadFor) : (hostRead s a n use).decoders = s.decoders := by simp only [hostRead]
@[simp] theorem hostRead_evtRing (s : State) (a n : Nat) (use : ReadFor) : (hostRead s a n use).evtRing = s.evtRing := by simp only [hostRead]
@[simp] theorem hostRead_msix (s : State) (a n : Nat) (use : ReadFor) : (hostRead s a n use).msix = s.msix := by simp only [hostRead]
@[simp] theorem hostRead_msixPending (s : State) (a n : Nat) (use : ReadFor) : (hostRead s a n use).msixPending = s.msixPending := by simp only [hostRead]
@[simp] theorem hostRead_out (s : State) (a n : Nat) (use : ReadFor) : (hostRead s a n use).out = s.out := by simp only [hostRead]
@[simp] theorem hostRead_biLines (s : State) (a n : Nat) (use : ReadFor) : (hostRead s a n use).biLines = s.biLines := by simp only [hostRead]
@[simp] theorem hostRead_biOld (s : State) (a n : Nat) (use : ReadFor) : (hostRead s a n use).biOld = s.biOld := by simp only [hostRead]
@[simp] theorem hostRead_mapVector (s : State) (a n : Nat) (use : ReadFor) : (hostRead s a n use).mapVector = s.mapVector := by simp only [hostRead]
@[simp] theorem hostRead_bar0 (s : State) (a n : Nat) (use : ReadFor) : (hostRead s a n use).bar0 = s.bar0 := by simp only [hostRead]
@[simp] theorem hostRead_cores (s : State) (a n : Nat) (use : ReadFor) : (hostRead s a n use).cores = s.cores := by simp only [hostRead]
@[simp] theorem hostRead_boot (s : State) (a n : Nat) (use : ReadFor) : (hostRead s a n use).boot = s.boot := by simp only [hostRead]
@[simp] theorem hostRead_pwr (s : State) (a n : Nat) (use : ReadFor) : (hostRead s a n use).pwr = s.pwr := by simp only [hostRead]
@[simp] theorem hostRead_pair (s : State) (a n : Nat) (use : ReadFor) : (hostRead s a n use).pair = s.pair := by simp only [hostRead]
@[simp] theorem hostRead_seqs (s : State) (a n : Nat) (use : ReadFor) : (hostRead s a n use).seqs = s.seqs := by simp only [hostRead]
@[simp] theorem hostRead_regions (s : State) (a n : Nat) (use : ReadFor) : (hostRead s a n use).regions = s.regions := by simp only [hostRead]
@[simp] theorem hostRead_jobs (s : State) (a n : Nat) (use : ReadFor) : (hostRead s a n use).jobs = s.jobs := by simp only [hostRead]
@[simp] theorem hostRead_cfg (s : State) (a n : Nat) (use : ReadFor) : (hostRead s a n use).cfg = s.cfg := by simp only [hostRead]

@[simp] theorem storeWord_pending (s : State) (a : Nat) (w : Word) : (storeWord s a w).pending = s.pending := by simp only [storeWord]
@[simp] theorem storeWord_now (s : State) (a : Nat) (w : Word) : (storeWord s a w).now = s.now := by simp only [storeWord]
@[simp] theorem storeWord_freeCtr (s : State) (a : Nat) (w : Word) : (storeWord s a w).freeCtr = s.freeCtr := by simp only [storeWord]
@[simp] theorem storeWord_flash (s : State) (a : Nat) (w : Word) : (storeWord s a w).flash = s.flash := by simp only [storeWord]
@[simp] theorem storeWord_pages (s : State) (a : Nat) (w : Word) : (storeWord s a w).pages = s.pages := by simp only [storeWord]
@[simp] theorem storeWord_goodDies (s : State) (a : Nat) (w : Word) : (storeWord s a w).goodDies = s.goodDies := by simp only [storeWord]
@[simp] theorem storeWord_goodFar (s : State) (a : Nat) (w : Word) : (storeWord s a w).goodFar = s.goodFar := by simp only [storeWord]
@[simp] theorem storeWord_dies (s : State) (a : Nat) (w : Word) : (storeWord s a w).dies = s.dies := by simp only [storeWord]
@[simp] theorem storeWord_kettles (s : State) (a : Nat) (w : Word) : (storeWord s a w).kettles = s.kettles := by simp only [storeWord]
@[simp] theorem storeWord_net (s : State) (a : Nat) (w : Word) : (storeWord s a w).net = s.net := by simp only [storeWord]
@[simp] theorem storeWord_ev (s : State) (a : Nat) (w : Word) : (storeWord s a w).ev = s.ev := by simp only [storeWord]
@[simp] theorem storeWord_tel (s : State) (a : Nat) (w : Word) : (storeWord s a w).tel = s.tel := by simp only [storeWord]
@[simp] theorem storeWord_lastFault (s : State) (a : Nat) (w : Word) : (storeWord s a w).lastFault = s.lastFault := by simp only [storeWord]
@[simp] theorem storeWord_sTiles (s : State) (a : Nat) (w : Word) : (storeWord s a w).sTiles = s.sTiles := by simp only [storeWord]
@[simp] theorem storeWord_mTiles (s : State) (a : Nat) (w : Word) : (storeWord s a w).mTiles = s.mTiles := by simp only [storeWord]
@[simp] theorem storeWord_host (s : State) (a : Nat) (w : Word) : (storeWord s a w).host = s.host := by simp only [storeWord]
@[simp] theorem storeWord_vTiles (s : State) (a : Nat) (w : Word) : (storeWord s a w).vTiles = s.vTiles := by simp only [storeWord]
@[simp] theorem storeWord_fTiles (s : State) (a : Nat) (w : Word) : (storeWord s a w).fTiles = s.fTiles := by simp only [storeWord]
@[simp] theorem storeWord_grain (s : State) (a : Nat) (w : Word) : (storeWord s a w).grain = s.grain := by simp only [storeWord]
@[simp] theorem storeWord_engines (s : State) (a : Nat) (w : Word) : (storeWord s a w).engines = s.engines := by simp only [storeWord]
@[simp] theorem storeWord_queues (s : State) (a : Nat) (w : Word) : (storeWord s a w).queues = s.queues := by simp only [storeWord]
@[simp] theorem storeWord_link (s : State) (a : Nat) (w : Word) : (storeWord s a w).link = s.link := by simp only [storeWord]
@[simp] theorem storeWord_decoders (s : State) (a : Nat) (w : Word) : (storeWord s a w).decoders = s.decoders := by simp only [storeWord]
@[simp] theorem storeWord_evtRing (s : State) (a : Nat) (w : Word) : (storeWord s a w).evtRing = s.evtRing := by simp only [storeWord]
@[simp] theorem storeWord_msix (s : State) (a : Nat) (w : Word) : (storeWord s a w).msix = s.msix := by simp only [storeWord]
@[simp] theorem storeWord_msixPending (s : State) (a : Nat) (w : Word) : (storeWord s a w).msixPending = s.msixPending := by simp only [storeWord]
@[simp] theorem storeWord_out (s : State) (a : Nat) (w : Word) : (storeWord s a w).out = s.out := by simp only [storeWord]
@[simp] theorem storeWord_biLines (s : State) (a : Nat) (w : Word) : (storeWord s a w).biLines = s.biLines := by simp only [storeWord]
@[simp] theorem storeWord_biOld (s : State) (a : Nat) (w : Word) : (storeWord s a w).biOld = s.biOld := by simp only [storeWord]
@[simp] theorem storeWord_mapVector (s : State) (a : Nat) (w : Word) : (storeWord s a w).mapVector = s.mapVector := by simp only [storeWord]
@[simp] theorem storeWord_bar0 (s : State) (a : Nat) (w : Word) : (storeWord s a w).bar0 = s.bar0 := by simp only [storeWord]
@[simp] theorem storeWord_cores (s : State) (a : Nat) (w : Word) : (storeWord s a w).cores = s.cores := by simp only [storeWord]
@[simp] theorem storeWord_boot (s : State) (a : Nat) (w : Word) : (storeWord s a w).boot = s.boot := by simp only [storeWord]
@[simp] theorem storeWord_pwr (s : State) (a : Nat) (w : Word) : (storeWord s a w).pwr = s.pwr := by simp only [storeWord]
@[simp] theorem storeWord_pair (s : State) (a : Nat) (w : Word) : (storeWord s a w).pair = s.pair := by simp only [storeWord]
@[simp] theorem storeWord_seqs (s : State) (a : Nat) (w : Word) : (storeWord s a w).seqs = s.seqs := by simp only [storeWord]
@[simp] theorem storeWord_regions (s : State) (a : Nat) (w : Word) : (storeWord s a w).regions = s.regions := by simp only [storeWord]
@[simp] theorem storeWord_jobs (s : State) (a : Nat) (w : Word) : (storeWord s a w).jobs = s.jobs := by simp only [storeWord]
@[simp] theorem storeWord_cfg (s : State) (a : Nat) (w : Word) : (storeWord s a w).cfg = s.cfg := by simp only [storeWord]

@[simp] theorem storeBytes_pending (s : State) (a : Nat) (bs : List Byte) : (storeBytes s a bs).pending = s.pending := by simp only [storeBytes]
@[simp] theorem storeBytes_now (s : State) (a : Nat) (bs : List Byte) : (storeBytes s a bs).now = s.now := by simp only [storeBytes]
@[simp] theorem storeBytes_freeCtr (s : State) (a : Nat) (bs : List Byte) : (storeBytes s a bs).freeCtr = s.freeCtr := by simp only [storeBytes]
@[simp] theorem storeBytes_flash (s : State) (a : Nat) (bs : List Byte) : (storeBytes s a bs).flash = s.flash := by simp only [storeBytes]
@[simp] theorem storeBytes_pages (s : State) (a : Nat) (bs : List Byte) : (storeBytes s a bs).pages = s.pages := by simp only [storeBytes]
@[simp] theorem storeBytes_goodDies (s : State) (a : Nat) (bs : List Byte) : (storeBytes s a bs).goodDies = s.goodDies := by simp only [storeBytes]
@[simp] theorem storeBytes_goodFar (s : State) (a : Nat) (bs : List Byte) : (storeBytes s a bs).goodFar = s.goodFar := by simp only [storeBytes]
@[simp] theorem storeBytes_dies (s : State) (a : Nat) (bs : List Byte) : (storeBytes s a bs).dies = s.dies := by simp only [storeBytes]
@[simp] theorem storeBytes_kettles (s : State) (a : Nat) (bs : List Byte) : (storeBytes s a bs).kettles = s.kettles := by simp only [storeBytes]
@[simp] theorem storeBytes_net (s : State) (a : Nat) (bs : List Byte) : (storeBytes s a bs).net = s.net := by simp only [storeBytes]
@[simp] theorem storeBytes_ev (s : State) (a : Nat) (bs : List Byte) : (storeBytes s a bs).ev = s.ev := by simp only [storeBytes]
@[simp] theorem storeBytes_tel (s : State) (a : Nat) (bs : List Byte) : (storeBytes s a bs).tel = s.tel := by simp only [storeBytes]
@[simp] theorem storeBytes_lastFault (s : State) (a : Nat) (bs : List Byte) : (storeBytes s a bs).lastFault = s.lastFault := by simp only [storeBytes]
@[simp] theorem storeBytes_sTiles (s : State) (a : Nat) (bs : List Byte) : (storeBytes s a bs).sTiles = s.sTiles := by simp only [storeBytes]
@[simp] theorem storeBytes_mTiles (s : State) (a : Nat) (bs : List Byte) : (storeBytes s a bs).mTiles = s.mTiles := by simp only [storeBytes]
@[simp] theorem storeBytes_host (s : State) (a : Nat) (bs : List Byte) : (storeBytes s a bs).host = s.host := by simp only [storeBytes]
@[simp] theorem storeBytes_vTiles (s : State) (a : Nat) (bs : List Byte) : (storeBytes s a bs).vTiles = s.vTiles := by simp only [storeBytes]
@[simp] theorem storeBytes_fTiles (s : State) (a : Nat) (bs : List Byte) : (storeBytes s a bs).fTiles = s.fTiles := by simp only [storeBytes]
@[simp] theorem storeBytes_grain (s : State) (a : Nat) (bs : List Byte) : (storeBytes s a bs).grain = s.grain := by simp only [storeBytes]
@[simp] theorem storeBytes_engines (s : State) (a : Nat) (bs : List Byte) : (storeBytes s a bs).engines = s.engines := by simp only [storeBytes]
@[simp] theorem storeBytes_queues (s : State) (a : Nat) (bs : List Byte) : (storeBytes s a bs).queues = s.queues := by simp only [storeBytes]
@[simp] theorem storeBytes_link (s : State) (a : Nat) (bs : List Byte) : (storeBytes s a bs).link = s.link := by simp only [storeBytes]
@[simp] theorem storeBytes_decoders (s : State) (a : Nat) (bs : List Byte) : (storeBytes s a bs).decoders = s.decoders := by simp only [storeBytes]
@[simp] theorem storeBytes_evtRing (s : State) (a : Nat) (bs : List Byte) : (storeBytes s a bs).evtRing = s.evtRing := by simp only [storeBytes]
@[simp] theorem storeBytes_msix (s : State) (a : Nat) (bs : List Byte) : (storeBytes s a bs).msix = s.msix := by simp only [storeBytes]
@[simp] theorem storeBytes_msixPending (s : State) (a : Nat) (bs : List Byte) : (storeBytes s a bs).msixPending = s.msixPending := by simp only [storeBytes]
@[simp] theorem storeBytes_out (s : State) (a : Nat) (bs : List Byte) : (storeBytes s a bs).out = s.out := by simp only [storeBytes]
@[simp] theorem storeBytes_biLines (s : State) (a : Nat) (bs : List Byte) : (storeBytes s a bs).biLines = s.biLines := by simp only [storeBytes]
@[simp] theorem storeBytes_biOld (s : State) (a : Nat) (bs : List Byte) : (storeBytes s a bs).biOld = s.biOld := by simp only [storeBytes]
@[simp] theorem storeBytes_mapVector (s : State) (a : Nat) (bs : List Byte) : (storeBytes s a bs).mapVector = s.mapVector := by simp only [storeBytes]
@[simp] theorem storeBytes_bar0 (s : State) (a : Nat) (bs : List Byte) : (storeBytes s a bs).bar0 = s.bar0 := by simp only [storeBytes]
@[simp] theorem storeBytes_cores (s : State) (a : Nat) (bs : List Byte) : (storeBytes s a bs).cores = s.cores := by simp only [storeBytes]
@[simp] theorem storeBytes_boot (s : State) (a : Nat) (bs : List Byte) : (storeBytes s a bs).boot = s.boot := by simp only [storeBytes]
@[simp] theorem storeBytes_pwr (s : State) (a : Nat) (bs : List Byte) : (storeBytes s a bs).pwr = s.pwr := by simp only [storeBytes]
@[simp] theorem storeBytes_pair (s : State) (a : Nat) (bs : List Byte) : (storeBytes s a bs).pair = s.pair := by simp only [storeBytes]
@[simp] theorem storeBytes_seqs (s : State) (a : Nat) (bs : List Byte) : (storeBytes s a bs).seqs = s.seqs := by simp only [storeBytes]
@[simp] theorem storeBytes_regions (s : State) (a : Nat) (bs : List Byte) : (storeBytes s a bs).regions = s.regions := by simp only [storeBytes]
@[simp] theorem storeBytes_jobs (s : State) (a : Nat) (bs : List Byte) : (storeBytes s a bs).jobs = s.jobs := by simp only [storeBytes]
@[simp] theorem storeBytes_cfg (s : State) (a : Nat) (bs : List Byte) : (storeBytes s a bs).cfg = s.cfg := by simp only [storeBytes]

@[simp] theorem clearBytes_pending (s : State) (a n : Nat) : (clearBytes s a n).pending = s.pending := by simp only [clearBytes]
@[simp] theorem clearBytes_now (s : State) (a n : Nat) : (clearBytes s a n).now = s.now := by simp only [clearBytes]
@[simp] theorem clearBytes_freeCtr (s : State) (a n : Nat) : (clearBytes s a n).freeCtr = s.freeCtr := by simp only [clearBytes]
@[simp] theorem clearBytes_flash (s : State) (a n : Nat) : (clearBytes s a n).flash = s.flash := by simp only [clearBytes]
@[simp] theorem clearBytes_pages (s : State) (a n : Nat) : (clearBytes s a n).pages = s.pages := by simp only [clearBytes]
@[simp] theorem clearBytes_goodDies (s : State) (a n : Nat) : (clearBytes s a n).goodDies = s.goodDies := by simp only [clearBytes]
@[simp] theorem clearBytes_goodFar (s : State) (a n : Nat) : (clearBytes s a n).goodFar = s.goodFar := by simp only [clearBytes]
@[simp] theorem clearBytes_dies (s : State) (a n : Nat) : (clearBytes s a n).dies = s.dies := by simp only [clearBytes]
@[simp] theorem clearBytes_kettles (s : State) (a n : Nat) : (clearBytes s a n).kettles = s.kettles := by simp only [clearBytes]
@[simp] theorem clearBytes_net (s : State) (a n : Nat) : (clearBytes s a n).net = s.net := by simp only [clearBytes]
@[simp] theorem clearBytes_ev (s : State) (a n : Nat) : (clearBytes s a n).ev = s.ev := by simp only [clearBytes]
@[simp] theorem clearBytes_tel (s : State) (a n : Nat) : (clearBytes s a n).tel = s.tel := by simp only [clearBytes]
@[simp] theorem clearBytes_lastFault (s : State) (a n : Nat) : (clearBytes s a n).lastFault = s.lastFault := by simp only [clearBytes]
@[simp] theorem clearBytes_sTiles (s : State) (a n : Nat) : (clearBytes s a n).sTiles = s.sTiles := by simp only [clearBytes]
@[simp] theorem clearBytes_mTiles (s : State) (a n : Nat) : (clearBytes s a n).mTiles = s.mTiles := by simp only [clearBytes]
@[simp] theorem clearBytes_host (s : State) (a n : Nat) : (clearBytes s a n).host = s.host := by simp only [clearBytes]
@[simp] theorem clearBytes_vTiles (s : State) (a n : Nat) : (clearBytes s a n).vTiles = s.vTiles := by simp only [clearBytes]
@[simp] theorem clearBytes_fTiles (s : State) (a n : Nat) : (clearBytes s a n).fTiles = s.fTiles := by simp only [clearBytes]
@[simp] theorem clearBytes_grain (s : State) (a n : Nat) : (clearBytes s a n).grain = s.grain := by simp only [clearBytes]
@[simp] theorem clearBytes_engines (s : State) (a n : Nat) : (clearBytes s a n).engines = s.engines := by simp only [clearBytes]
@[simp] theorem clearBytes_queues (s : State) (a n : Nat) : (clearBytes s a n).queues = s.queues := by simp only [clearBytes]
@[simp] theorem clearBytes_link (s : State) (a n : Nat) : (clearBytes s a n).link = s.link := by simp only [clearBytes]
@[simp] theorem clearBytes_decoders (s : State) (a n : Nat) : (clearBytes s a n).decoders = s.decoders := by simp only [clearBytes]
@[simp] theorem clearBytes_evtRing (s : State) (a n : Nat) : (clearBytes s a n).evtRing = s.evtRing := by simp only [clearBytes]
@[simp] theorem clearBytes_msix (s : State) (a n : Nat) : (clearBytes s a n).msix = s.msix := by simp only [clearBytes]
@[simp] theorem clearBytes_msixPending (s : State) (a n : Nat) : (clearBytes s a n).msixPending = s.msixPending := by simp only [clearBytes]
@[simp] theorem clearBytes_out (s : State) (a n : Nat) : (clearBytes s a n).out = s.out := by simp only [clearBytes]
@[simp] theorem clearBytes_biLines (s : State) (a n : Nat) : (clearBytes s a n).biLines = s.biLines := by simp only [clearBytes]
@[simp] theorem clearBytes_biOld (s : State) (a n : Nat) : (clearBytes s a n).biOld = s.biOld := by simp only [clearBytes]
@[simp] theorem clearBytes_mapVector (s : State) (a n : Nat) : (clearBytes s a n).mapVector = s.mapVector := by simp only [clearBytes]
@[simp] theorem clearBytes_bar0 (s : State) (a n : Nat) : (clearBytes s a n).bar0 = s.bar0 := by simp only [clearBytes]
@[simp] theorem clearBytes_cores (s : State) (a n : Nat) : (clearBytes s a n).cores = s.cores := by simp only [clearBytes]
@[simp] theorem clearBytes_boot (s : State) (a n : Nat) : (clearBytes s a n).boot = s.boot := by simp only [clearBytes]
@[simp] theorem clearBytes_pwr (s : State) (a n : Nat) : (clearBytes s a n).pwr = s.pwr := by simp only [clearBytes]
@[simp] theorem clearBytes_pair (s : State) (a n : Nat) : (clearBytes s a n).pair = s.pair := by simp only [clearBytes]
@[simp] theorem clearBytes_seqs (s : State) (a n : Nat) : (clearBytes s a n).seqs = s.seqs := by simp only [clearBytes]
@[simp] theorem clearBytes_regions (s : State) (a n : Nat) : (clearBytes s a n).regions = s.regions := by simp only [clearBytes]
@[simp] theorem clearBytes_jobs (s : State) (a n : Nat) : (clearBytes s a n).jobs = s.jobs := by simp only [clearBytes]
@[simp] theorem clearBytes_cfg (s : State) (a n : Nat) : (clearBytes s a n).cfg = s.cfg := by simp only [clearBytes]

@[simp] theorem modLoad_pending (s : State) (f : Load → Load) : (modLoad s f).pending = s.pending := by simp only [modLoad]
@[simp] theorem modLoad_now (s : State) (f : Load → Load) : (modLoad s f).now = s.now := by simp only [modLoad]
@[simp] theorem modLoad_freeCtr (s : State) (f : Load → Load) : (modLoad s f).freeCtr = s.freeCtr := by simp only [modLoad]
@[simp] theorem modLoad_mem (s : State) (f : Load → Load) : (modLoad s f).mem = s.mem := by simp only [modLoad]
@[simp] theorem modLoad_flips (s : State) (f : Load → Load) : (modLoad s f).flips = s.flips := by simp only [modLoad]
@[simp] theorem modLoad_flash (s : State) (f : Load → Load) : (modLoad s f).flash = s.flash := by simp only [modLoad]
@[simp] theorem modLoad_pages (s : State) (f : Load → Load) : (modLoad s f).pages = s.pages := by simp only [modLoad]
@[simp] theorem modLoad_goodDies (s : State) (f : Load → Load) : (modLoad s f).goodDies = s.goodDies := by simp only [modLoad]
@[simp] theorem modLoad_goodFar (s : State) (f : Load → Load) : (modLoad s f).goodFar = s.goodFar := by simp only [modLoad]
@[simp] theorem modLoad_dies (s : State) (f : Load → Load) : (modLoad s f).dies = s.dies := by simp only [modLoad]
@[simp] theorem modLoad_kettles (s : State) (f : Load → Load) : (modLoad s f).kettles = s.kettles := by simp only [modLoad]
@[simp] theorem modLoad_net (s : State) (f : Load → Load) : (modLoad s f).net = s.net := by simp only [modLoad]
@[simp] theorem modLoad_ev (s : State) (f : Load → Load) : (modLoad s f).ev = s.ev := by simp only [modLoad]
@[simp] theorem modLoad_tel (s : State) (f : Load → Load) : (modLoad s f).tel = s.tel := by simp only [modLoad]
@[simp] theorem modLoad_lastFault (s : State) (f : Load → Load) : (modLoad s f).lastFault = s.lastFault := by simp only [modLoad]
@[simp] theorem modLoad_sTiles (s : State) (f : Load → Load) : (modLoad s f).sTiles = s.sTiles := by simp only [modLoad]
@[simp] theorem modLoad_mTiles (s : State) (f : Load → Load) : (modLoad s f).mTiles = s.mTiles := by simp only [modLoad]
@[simp] theorem modLoad_host (s : State) (f : Load → Load) : (modLoad s f).host = s.host := by simp only [modLoad]
@[simp] theorem modLoad_vTiles (s : State) (f : Load → Load) : (modLoad s f).vTiles = s.vTiles := by simp only [modLoad]
@[simp] theorem modLoad_fTiles (s : State) (f : Load → Load) : (modLoad s f).fTiles = s.fTiles := by simp only [modLoad]
@[simp] theorem modLoad_grain (s : State) (f : Load → Load) : (modLoad s f).grain = s.grain := by simp only [modLoad]
@[simp] theorem modLoad_engines (s : State) (f : Load → Load) : (modLoad s f).engines = s.engines := by simp only [modLoad]
@[simp] theorem modLoad_queues (s : State) (f : Load → Load) : (modLoad s f).queues = s.queues := by simp only [modLoad]
@[simp] theorem modLoad_link (s : State) (f : Load → Load) : (modLoad s f).link = s.link := by simp only [modLoad]
@[simp] theorem modLoad_decoders (s : State) (f : Load → Load) : (modLoad s f).decoders = s.decoders := by simp only [modLoad]
@[simp] theorem modLoad_evtRing (s : State) (f : Load → Load) : (modLoad s f).evtRing = s.evtRing := by simp only [modLoad]
@[simp] theorem modLoad_msix (s : State) (f : Load → Load) : (modLoad s f).msix = s.msix := by simp only [modLoad]
@[simp] theorem modLoad_msixPending (s : State) (f : Load → Load) : (modLoad s f).msixPending = s.msixPending := by simp only [modLoad]
@[simp] theorem modLoad_out (s : State) (f : Load → Load) : (modLoad s f).out = s.out := by simp only [modLoad]
@[simp] theorem modLoad_biLines (s : State) (f : Load → Load) : (modLoad s f).biLines = s.biLines := by simp only [modLoad]
@[simp] theorem modLoad_biOld (s : State) (f : Load → Load) : (modLoad s f).biOld = s.biOld := by simp only [modLoad]
@[simp] theorem modLoad_mapVector (s : State) (f : Load → Load) : (modLoad s f).mapVector = s.mapVector := by simp only [modLoad]
@[simp] theorem modLoad_bar0 (s : State) (f : Load → Load) : (modLoad s f).bar0 = s.bar0 := by simp only [modLoad]
@[simp] theorem modLoad_cores (s : State) (f : Load → Load) : (modLoad s f).cores = s.cores := by simp only [modLoad]
@[simp] theorem modLoad_boot (s : State) (f : Load → Load) : (modLoad s f).boot = s.boot := by simp only [modLoad]
@[simp] theorem modLoad_pwr (s : State) (f : Load → Load) : (modLoad s f).pwr = s.pwr := by simp only [modLoad]
@[simp] theorem modLoad_pair (s : State) (f : Load → Load) : (modLoad s f).pair = s.pair := by simp only [modLoad]
@[simp] theorem modLoad_seqs (s : State) (f : Load → Load) : (modLoad s f).seqs = s.seqs := by simp only [modLoad]
@[simp] theorem modLoad_regions (s : State) (f : Load → Load) : (modLoad s f).regions = s.regions := by simp only [modLoad]
@[simp] theorem modLoad_jobs (s : State) (f : Load → Load) : (modLoad s f).jobs = s.jobs := by simp only [modLoad]

@[simp] theorem modMirror_pending (s : State) (f : Mirror → Mirror) : (modMirror s f).pending = s.pending := by simp only [modMirror]
@[simp] theorem modMirror_now (s : State) (f : Mirror → Mirror) : (modMirror s f).now = s.now := by simp only [modMirror]
@[simp] theorem modMirror_freeCtr (s : State) (f : Mirror → Mirror) : (modMirror s f).freeCtr = s.freeCtr := by simp only [modMirror]
@[simp] theorem modMirror_mem (s : State) (f : Mirror → Mirror) : (modMirror s f).mem = s.mem := by simp only [modMirror]
@[simp] theorem modMirror_flips (s : State) (f : Mirror → Mirror) : (modMirror s f).flips = s.flips := by simp only [modMirror]
@[simp] theorem modMirror_flash (s : State) (f : Mirror → Mirror) : (modMirror s f).flash = s.flash := by simp only [modMirror]
@[simp] theorem modMirror_pages (s : State) (f : Mirror → Mirror) : (modMirror s f).pages = s.pages := by simp only [modMirror]
@[simp] theorem modMirror_goodDies (s : State) (f : Mirror → Mirror) : (modMirror s f).goodDies = s.goodDies := by simp only [modMirror]
@[simp] theorem modMirror_goodFar (s : State) (f : Mirror → Mirror) : (modMirror s f).goodFar = s.goodFar := by simp only [modMirror]
@[simp] theorem modMirror_dies (s : State) (f : Mirror → Mirror) : (modMirror s f).dies = s.dies := by simp only [modMirror]
@[simp] theorem modMirror_kettles (s : State) (f : Mirror → Mirror) : (modMirror s f).kettles = s.kettles := by simp only [modMirror]
@[simp] theorem modMirror_net (s : State) (f : Mirror → Mirror) : (modMirror s f).net = s.net := by simp only [modMirror]
@[simp] theorem modMirror_ev (s : State) (f : Mirror → Mirror) : (modMirror s f).ev = s.ev := by simp only [modMirror]
@[simp] theorem modMirror_tel (s : State) (f : Mirror → Mirror) : (modMirror s f).tel = s.tel := by simp only [modMirror]
@[simp] theorem modMirror_lastFault (s : State) (f : Mirror → Mirror) : (modMirror s f).lastFault = s.lastFault := by simp only [modMirror]
@[simp] theorem modMirror_sTiles (s : State) (f : Mirror → Mirror) : (modMirror s f).sTiles = s.sTiles := by simp only [modMirror]
@[simp] theorem modMirror_mTiles (s : State) (f : Mirror → Mirror) : (modMirror s f).mTiles = s.mTiles := by simp only [modMirror]
@[simp] theorem modMirror_host (s : State) (f : Mirror → Mirror) : (modMirror s f).host = s.host := by simp only [modMirror]
@[simp] theorem modMirror_vTiles (s : State) (f : Mirror → Mirror) : (modMirror s f).vTiles = s.vTiles := by simp only [modMirror]
@[simp] theorem modMirror_fTiles (s : State) (f : Mirror → Mirror) : (modMirror s f).fTiles = s.fTiles := by simp only [modMirror]
@[simp] theorem modMirror_grain (s : State) (f : Mirror → Mirror) : (modMirror s f).grain = s.grain := by simp only [modMirror]
@[simp] theorem modMirror_engines (s : State) (f : Mirror → Mirror) : (modMirror s f).engines = s.engines := by simp only [modMirror]
@[simp] theorem modMirror_queues (s : State) (f : Mirror → Mirror) : (modMirror s f).queues = s.queues := by simp only [modMirror]
@[simp] theorem modMirror_link (s : State) (f : Mirror → Mirror) : (modMirror s f).link = s.link := by simp only [modMirror]
@[simp] theorem modMirror_decoders (s : State) (f : Mirror → Mirror) : (modMirror s f).decoders = s.decoders := by simp only [modMirror]
@[simp] theorem modMirror_evtRing (s : State) (f : Mirror → Mirror) : (modMirror s f).evtRing = s.evtRing := by simp only [modMirror]
@[simp] theorem modMirror_msix (s : State) (f : Mirror → Mirror) : (modMirror s f).msix = s.msix := by simp only [modMirror]
@[simp] theorem modMirror_msixPending (s : State) (f : Mirror → Mirror) : (modMirror s f).msixPending = s.msixPending := by simp only [modMirror]
@[simp] theorem modMirror_out (s : State) (f : Mirror → Mirror) : (modMirror s f).out = s.out := by simp only [modMirror]
@[simp] theorem modMirror_biLines (s : State) (f : Mirror → Mirror) : (modMirror s f).biLines = s.biLines := by simp only [modMirror]
@[simp] theorem modMirror_biOld (s : State) (f : Mirror → Mirror) : (modMirror s f).biOld = s.biOld := by simp only [modMirror]
@[simp] theorem modMirror_mapVector (s : State) (f : Mirror → Mirror) : (modMirror s f).mapVector = s.mapVector := by simp only [modMirror]
@[simp] theorem modMirror_bar0 (s : State) (f : Mirror → Mirror) : (modMirror s f).bar0 = s.bar0 := by simp only [modMirror]
@[simp] theorem modMirror_cores (s : State) (f : Mirror → Mirror) : (modMirror s f).cores = s.cores := by simp only [modMirror]
@[simp] theorem modMirror_boot (s : State) (f : Mirror → Mirror) : (modMirror s f).boot = s.boot := by simp only [modMirror]
@[simp] theorem modMirror_pwr (s : State) (f : Mirror → Mirror) : (modMirror s f).pwr = s.pwr := by simp only [modMirror]
@[simp] theorem modMirror_seqs (s : State) (f : Mirror → Mirror) : (modMirror s f).seqs = s.seqs := by simp only [modMirror]
@[simp] theorem modMirror_regions (s : State) (f : Mirror → Mirror) : (modMirror s f).regions = s.regions := by simp only [modMirror]
@[simp] theorem modMirror_jobs (s : State) (f : Mirror → Mirror) : (modMirror s f).jobs = s.jobs := by simp only [modMirror]
@[simp] theorem modMirror_cfg (s : State) (f : Mirror → Mirror) : (modMirror s f).cfg = s.cfg := by simp only [modMirror]

@[simp] theorem idle_pending (s : State) : (idle s).pending = s.pending := by simp only [idle]
@[simp] theorem idle_freeCtr (s : State) : (idle s).freeCtr = s.freeCtr := by simp only [idle]
@[simp] theorem idle_mem (s : State) : (idle s).mem = s.mem := by simp only [idle]
@[simp] theorem idle_flips (s : State) : (idle s).flips = s.flips := by simp only [idle]
@[simp] theorem idle_flash (s : State) : (idle s).flash = s.flash := by simp only [idle]
@[simp] theorem idle_pages (s : State) : (idle s).pages = s.pages := by simp only [idle]
@[simp] theorem idle_goodDies (s : State) : (idle s).goodDies = s.goodDies := by simp only [idle]
@[simp] theorem idle_goodFar (s : State) : (idle s).goodFar = s.goodFar := by simp only [idle]
@[simp] theorem idle_dies (s : State) : (idle s).dies = s.dies := by simp only [idle]
@[simp] theorem idle_kettles (s : State) : (idle s).kettles = s.kettles := by simp only [idle]
@[simp] theorem idle_net (s : State) : (idle s).net = s.net := by simp only [idle]
@[simp] theorem idle_ev (s : State) : (idle s).ev = s.ev := by simp only [idle]
@[simp] theorem idle_tel (s : State) : (idle s).tel = s.tel := by simp only [idle]
@[simp] theorem idle_lastFault (s : State) : (idle s).lastFault = s.lastFault := by simp only [idle]
@[simp] theorem idle_sTiles (s : State) : (idle s).sTiles = s.sTiles := by simp only [idle]
@[simp] theorem idle_mTiles (s : State) : (idle s).mTiles = s.mTiles := by simp only [idle]
@[simp] theorem idle_host (s : State) : (idle s).host = s.host := by simp only [idle]
@[simp] theorem idle_vTiles (s : State) : (idle s).vTiles = s.vTiles := by simp only [idle]
@[simp] theorem idle_fTiles (s : State) : (idle s).fTiles = s.fTiles := by simp only [idle]
@[simp] theorem idle_grain (s : State) : (idle s).grain = s.grain := by simp only [idle]
@[simp] theorem idle_engines (s : State) : (idle s).engines = s.engines := by simp only [idle]
@[simp] theorem idle_queues (s : State) : (idle s).queues = s.queues := by simp only [idle]
@[simp] theorem idle_link (s : State) : (idle s).link = s.link := by simp only [idle]
@[simp] theorem idle_decoders (s : State) : (idle s).decoders = s.decoders := by simp only [idle]
@[simp] theorem idle_evtRing (s : State) : (idle s).evtRing = s.evtRing := by simp only [idle]
@[simp] theorem idle_msix (s : State) : (idle s).msix = s.msix := by simp only [idle]
@[simp] theorem idle_msixPending (s : State) : (idle s).msixPending = s.msixPending := by simp only [idle]
@[simp] theorem idle_out (s : State) : (idle s).out = s.out := by simp only [idle]
@[simp] theorem idle_biLines (s : State) : (idle s).biLines = s.biLines := by simp only [idle]
@[simp] theorem idle_biOld (s : State) : (idle s).biOld = s.biOld := by simp only [idle]
@[simp] theorem idle_mapVector (s : State) : (idle s).mapVector = s.mapVector := by simp only [idle]
@[simp] theorem idle_bar0 (s : State) : (idle s).bar0 = s.bar0 := by simp only [idle]
@[simp] theorem idle_cores (s : State) : (idle s).cores = s.cores := by simp only [idle]
@[simp] theorem idle_boot (s : State) : (idle s).boot = s.boot := by simp only [idle]
@[simp] theorem idle_pwr (s : State) : (idle s).pwr = s.pwr := by simp only [idle]
@[simp] theorem idle_pair (s : State) : (idle s).pair = s.pair := by simp only [idle]
@[simp] theorem idle_seqs (s : State) : (idle s).seqs = s.seqs := by simp only [idle]
@[simp] theorem idle_regions (s : State) : (idle s).regions = s.regions := by simp only [idle]
@[simp] theorem idle_jobs (s : State) : (idle s).jobs = s.jobs := by simp only [idle]
@[simp] theorem idle_cfg (s : State) : (idle s).cfg = s.cfg := by simp only [idle]

end Sys2Proof.Machine
end

