-- ==== Sys2Proof/Laws/Tables.lean ====
section
/-! SUPPORT. Sys2Proof/Laws/Tables.lean: reading a table after a key was set, modified or erased. -/

namespace Sys2Proof.Machine

@[simp] theorem Tab.find_set_same {α : Type} (k : Nat) (v : α) (t : Tab α) : Tab.find? k (Tab.set k v t) = some v := by
  induction t with
  | nil => simp [Tab.set, Tab.find?]
  | cons e t ih =>
    obtain ⟨j, w⟩ := e
    simp only [Tab.set]
    split
    · simp [Tab.find?]
    · split
      · simp [Tab.find?]
      · simp [Tab.find?, *]

theorem Tab.find_set_ne {α : Type} {j k : Nat} (h : j ≠ k) (v : α) (t : Tab α) : Tab.find? j (Tab.set k v t) = Tab.find? j t := by
  induction t with
  | nil => simp [Tab.set, Tab.find?, Ne.symm h]
  | cons e t ih =>
    obtain ⟨i, w⟩ := e
    simp only [Tab.set]
    split
    · simp [Tab.find?, Ne.symm h]
    · split
      · next he => subst he; simp [Tab.find?, Ne.symm h]
      · simp [Tab.find?, ih]

@[simp] theorem Tab.get_set_same {α : Type} (d : α) (k : Nat) (v : α) (t : Tab α) : Tab.get d k (Tab.set k v t) = v := by
  simp [Tab.get]

theorem Tab.get_set_ne {α : Type} (d : α) {j k : Nat} (h : j ≠ k) (v : α) (t : Tab α) : Tab.get d j (Tab.set k v t) = Tab.get d j t := by
  simp [Tab.get, Tab.find_set_ne h]

@[simp] theorem Tab.get_modify_same {α : Type} (d : α) (k : Nat) (f : α → α) (t : Tab α) : Tab.get d k (Tab.modify d k f t) = f (Tab.get d k t) := by
  simp [Tab.modify]

theorem Tab.get_modify_ne {α : Type} (d e : α) {j k : Nat} (h : j ≠ k) (f : α → α) (t : Tab α) : Tab.get d j (Tab.modify e k f t) = Tab.get d j t := by
  simp [Tab.modify, Tab.get_set_ne d h]

@[simp] theorem Tab.find_erase_same {α : Type} (k : Nat) (t : Tab α) : Tab.find? k (Tab.erase k t) = none := by
  induction t with
  | nil => simp [Tab.erase, Tab.find?]
  | cons e t ih =>
    obtain ⟨j, w⟩ := e
    simp only [Tab.erase]
    split
    · exact ih
    · simp [Tab.find?, *]

theorem Tab.find_erase_ne {α : Type} {j k : Nat} (h : j ≠ k) (t : Tab α) : Tab.find? j (Tab.erase k t) = Tab.find? j t := by
  induction t with
  | nil => simp [Tab.erase, Tab.find?]
  | cons e t ih =>
    obtain ⟨i, w⟩ := e
    simp only [Tab.erase]
    split
    · next he => subst he; simp [Tab.find?, Ne.symm h, ih]
    · simp [Tab.find?, ih]

end Sys2Proof.Machine
end

