-- ==== Sys2Proof/Laws/Frames.lean ====
section
/-! SUPPORT. Sys2Proof/Laws/Frames.lean: frames compose, and what the shared operations can do. -/

namespace Sys2Proof.Machine

theorem OnlyIn.refl (l : List Part) (s : State) : OnlyIn l s s := by
  intro p _; cases p <;> rfl

theorem OnlyIn.mono {l m : List Part} {s t : State} (h : OnlyIn l s t) (hl : ∀ p, l.contains p = true → m.contains p = true) : OnlyIn m s t := by
  intro p hp
  refine h p ?_
  cases hc : l.contains p
  · rfl
  · rw [hl p hc] at hp; cases hp

theorem OnlyIn.trans {l : List Part} {s t u : State} (h : OnlyIn l s t) (g : OnlyIn l t u) : OnlyIn l s u := by
  intro p hp
  have a := h p hp
  have b := g p hp
  cases p <;> simp only [Part.same] at a b ⊢ <;> exact b.trans a

/-- A fold whose every step stays within a frame stays within it. -/
theorem OnlyIn.foldl {α : Type} {l : List Part} {f : State → α → State} (h : ∀ s a, OnlyIn l s (f s a)) (as : List α) (s : State) : OnlyIn l s (as.foldl f s) := by
  induction as generalizing s with
  | nil => exact OnlyIn.refl l s
  | cons a as ih => exact (h s a).trans (ih (f s a))

/-- A command that answers a next state completes. -/
theorem Completes.intro {i : Instr} {s t : State} {p : State → Prop} (h : exec i s = .next t) (hp : p t) : Completes i s p := ⟨t, h, hp⟩

theorem noteFault_frame (s : State) (d k c : Nat) : OnlyIn [.lastFault] s (noteFault s d k c) := by
  intro p hp; simp only [noteFault]; split <;> cases p <;> simp_all [Part.same]
theorem noteEvent_frame (s : State) (e : Ev) : OnlyIn [.lastFault] s (noteEvent s e) := by
  simp only [noteEvent]; split
  · exact noteFault_frame _ _ _ _
  · exact OnlyIn.refl _ _
theorem noteEvent_other (s : State) (e : Ev) (h : e.cls ≠ 1) : noteEvent s e = s := by simp [noteEvent, faultKey, h]
theorem raise_frame (s : State) (e : Ev) : OnlyIn [.ev, .lastFault] s (raise s e) := by
  have h := (noteEvent_frame s e).mono (m := [.ev, .lastFault]) (by intro p hp; cases p <;> simp_all)
  refine h.trans ?_
  intro p hp
  simp only [raise]
  split <;> split <;> cases p <;> simp_all [Part.same]
theorem raise_frame_other (s : State) (e : Ev) (h : e.cls ≠ 1) : OnlyIn [.ev] s (raise s e) := by
  intro p hp
  simp only [raise, noteEvent_other s e h]
  split <;> split <;> cases p <;> simp_all [Part.same]
theorem raise_waits (s : State) (e : Ev) (h : HearsEvents s e.die) : eventsAt (raise s e) e.die = eventsAt s e.die ++ [{e with time := s.now}] := by
  obtain ⟨h1, h2⟩ := h
  have n := noteEvent_frame s e
  have a := n .ev rfl
  have b := n .dies rfl
  have c := n .now rfl
  simp only [Part.same] at a b c
  have hd : ((dieOf s e.die).fenced && e.die != 0x60) = false := by rcases h2 with h | h <;> simp [h]
  simp only [eventsAt] at h1 ⊢
  simp only [dieOf] at hd
  simp only [raise]
  split <;> simp [dieOf, a, b, c, hd, h1]

/-- A corrected event changes nothing but the events that wait. -/
theorem raiseCorrected_frame (s : State) (code job die ukind index detail : Nat) : OnlyIn [.ev] s (raiseCorrected s code job die ukind index detail) := by
  exact raise_frame_other _ _ (by simp)

theorem raiseFatal_frame (s : State) (code die : Nat) : OnlyIn [.ev] s (raiseFatal s code die) := by
  exact raise_frame_other _ _ (by simp)

theorem appendUnit_frame (s : State) (typ body : Nat) : OnlyIn [.flash, .ev] s (appendUnit s typ body) := by
  have r (s : State) (c j d u i x : Nat) : OnlyIn [.flash, .ev] s (raiseCorrected s c j d u i x) :=
    (raiseCorrected_frame s c j d u i x).mono (by intro p hp; cases p <;> simp_all)
  simp only [appendUnit, flashFailed]
  repeat' split
  all_goals first
    | with_reducible exact OnlyIn.refl _ _
    | with_reducible exact r _ _ _ _ _ _ _
    | (intro p hp; cases p <;> simp_all [Part.same])

/-- Fencing a unit counts the change and may append a fence record. -/
theorem unitFenced_frame (s : State) (die unit index : Nat) (thermal : Bool) : OnlyIn [.boot, .flash, .ev] s (unitFenced s die unit index thermal) := by
  have h : OnlyIn [.boot, .flash, .ev] s { s with boot := { s.boot with changes := s.boot.changes + 1, changeTime := s.now } } := by
    intro p hp; cases p <;> simp_all [Part.same]
  simp only [unitFenced]
  split
  · exact h
  · exact h.trans ((appendUnit_frame _ _ _).mono (by intro p hp; cases p <;> simp_all))

end Sys2Proof.Machine
end

