-- ==== Sys2Proof/Laws/Memory.lean ====
section
/-! SUPPORT. Sys2Proof/Laws/Memory.lean: the canonical form of the device's memory and of the flash is kept by every operation on them, and reading after writing. -/

namespace Sys2Proof.Machine

theorem memWf_iff (m : List Host.Cell) : memWf m = true ↔ m.Pairwise (fun x y => x.1 < y.1) ∧ ∀ c ∈ m, c.2 ≠ 0 := by
  induction m with
  | nil => simp [memWf]
  | cons x t ih =>
    obtain ⟨k, b⟩ := x
    cases t with
    | nil => simp [memWf]
    | cons y t =>
      obtain ⟨j, c⟩ := y
      simp only [memWf, Bool.and_eq_true, ih, bne_iff_ne, decide_eq_true_eq]
      constructor
      · rintro ⟨⟨hb, hk⟩, hp, ha⟩
        refine ⟨List.pairwise_cons.2 ⟨?_, hp⟩, ?_⟩
        · intro z hz
          rcases List.mem_cons.1 hz with rfl | hz
          · exact hk
          · exact Nat.lt_trans hk ((List.pairwise_cons.1 hp).1 z hz)
        · intro z hz
          rcases List.mem_cons.1 hz with rfl | hz
          · exact hb
          · exact ha z hz
      · rintro ⟨hp, ha⟩
        exact ⟨⟨ha (k, b) (by simp), (List.pairwise_cons.1 hp).1 (j, c) (by simp)⟩, (List.pairwise_cons.1 hp).2, fun z hz => ha z (List.mem_cons_of_mem _ hz)⟩

theorem memWf_tail {x : Host.Cell} {t : List Host.Cell} (h : memWf (x :: t) = true) : memWf t = true := by
  rw [memWf_iff] at h ⊢
  exact ⟨(List.pairwise_cons.1 h.1).2, fun z hz => h.2 z (List.mem_cons_of_mem _ hz)⟩

/-- Dropping cells keeps the canonical form. -/
theorem memWf_filter (p : Host.Cell → Bool) {m : List Host.Cell} (h : memWf m = true) : memWf (m.filter p) = true := by
  rw [memWf_iff] at h ⊢
  exact ⟨h.1.filter p, fun z hz => h.2 z (List.mem_filter.1 hz).1⟩

/-- The cells after a write are the cells before it at other addresses, and the one written unless it reads as an unlisted one. -/
theorem mem_memPut {m : List Host.Cell} {a : Nat} {v : Byte} {c : Host.Cell} (h : c ∈ memPut m a v) : c ∈ m ∨ (c = (a, v) ∧ v ≠ 0) := by
  induction m with
  | nil => simp only [memPut] at h; split at h <;> simp_all
  | cons x t ih =>
    obtain ⟨k, b⟩ := x
    simp only [memPut] at h
    split at h
    · split at h
      · exact .inl h
      · rcases List.mem_cons.1 h with rfl | h
        · exact .inr ⟨rfl, ‹_›⟩
        · exact .inl h
    · split at h
      · split at h
        · exact .inl (List.mem_cons_of_mem _ h)
        · rcases List.mem_cons.1 h with rfl | h
          · exact .inr ⟨rfl, ‹_›⟩
          · exact .inl (List.mem_cons_of_mem _ h)
      · rcases List.mem_cons.1 h with rfl | h
        · simp
        · rcases ih h with h | h
          · exact .inl (List.mem_cons_of_mem _ h)
          · exact .inr h

/-- A write keeps the canonical form. -/
theorem memPut_wf {m : List Host.Cell} (h : memWf m = true) (a : Nat) (v : Byte) : memWf (memPut m a v) = true := by
  rw [memWf_iff] at h ⊢
  refine ⟨?_, fun c hc => ?_⟩
  · obtain ⟨hp, -⟩ := h
    induction m with
    | nil => simp only [memPut]; split <;> simp
    | cons x t ih =>
      obtain ⟨k, b⟩ := x
      obtain ⟨h1, h2⟩ := List.pairwise_cons.1 hp
      simp only [memPut]
      split
      · split
        · exact hp
        · refine List.pairwise_cons.2 ⟨fun z hz => ?_, hp⟩
          rcases List.mem_cons.1 hz with rfl | hz
          · assumption
          · exact Nat.lt_trans ‹_› (h1 z hz)
      · split
        · split
          · exact h2
          · next e _ => exact List.pairwise_cons.2 ⟨fun z hz => e ▸ h1 z hz, h2⟩
        · refine List.pairwise_cons.2 ⟨fun z hz => ?_, ih h2⟩
          rcases mem_memPut hz with hz | ⟨rfl, -⟩
          · exact h1 z hz
          · show k < a
            omega
  · rcases mem_memPut hc with hc | ⟨rfl, hv⟩
    · exact h.2 c hc
    · exact hv

/-- Below its first cell a memory reads as unlisted. -/
theorem memByte_below {m : List Host.Cell} {a : Nat} (h : ∀ c ∈ m, a < c.1) : memByte m a = 0 := by
  cases m with
  | nil => rfl
  | cons x t =>
    obtain ⟨k, b⟩ := x
    have hk : a < k := h (k, b) (by simp)
    simp only [memByte]
    rw [if_neg (by omega), if_pos hk]

/-- Reading a byte after a write. -/
theorem memByte_memPut {m : List Host.Cell} (h : memWf m = true) (a : Nat) (v : Byte) (c : Nat) : memByte (memPut m a v) c = if c = a then v else memByte m c := by
  have hp := ((memWf_iff m).1 h).1
  clear h
  induction m with
  | nil => simp only [memPut]; repeat' split
           all_goals simp_all [memByte]
           all_goals omega
  | cons x t ih =>
    obtain ⟨k, b⟩ := x
    obtain ⟨h1, h2⟩ := List.pairwise_cons.1 hp
    have below : c < k ∨ c = k → memByte t c = 0 := fun hc => memByte_below (fun z hz => by have := h1 z hz; simp only at this; omega)
    simp only [memPut]
    split
    · split
      · split
        · subst_vars; simp only [memByte]; rw [if_neg (by omega), if_pos (by omega)]
        · rfl
      · split
        · subst_vars; simp [memByte]
        · simp only [memByte]
          rw [if_neg (fun e => ‹¬c = a› e.symm)]
          split
          · rw [if_neg (by omega), if_pos (by omega)]
          · rfl
    · split
      · split
        · split
          · subst_vars; exact below (.inr rfl)
          · simp only [memByte]
            rw [if_neg (by omega)]
            split
            · exact below (.inl ‹_›)
            · rfl
        · split
          · subst_vars; simp [memByte]
          · next hne =>
            subst_vars
            simp only [memByte, if_neg (fun e => hne (Eq.symm e))]
      · simp only [memByte, ih h2]
        split
        · split
          · omega
          · rfl
        · split
          · split
            · omega
            · rfl
          · rfl

/-- Bytes written in a row keep the canonical form. -/
theorem memPutList_wf {m : List Host.Cell} (h : memWf m = true) (a : Nat) (bs : List Byte) : memWf (memPutList m a bs) = true := by
  induction bs generalizing m a with
  | nil => exact h
  | cons b bs ih => exact ih (memPut_wf h a b) (a + 1)

/-- A byte outside a written range reads as before. -/
theorem memByte_memPutList_out {m : List Host.Cell} (h : memWf m = true) (a : Nat) (bs : List Byte) {c : Nat} (hc : c < a ∨ a + bs.length ≤ c) : memByte (memPutList m a bs) c = memByte m c := by
  induction bs generalizing m a with
  | nil => rfl
  | cons b bs ih =>
    simp only [List.length_cons] at hc
    rw [memPutList, ih (memPut_wf h a b) (a + 1) (by omega), memByte_memPut h, if_neg (by omega)]

/-- A byte inside a written range reads as written. -/
theorem memByte_memPutList_in {m : List Host.Cell} (h : memWf m = true) (a : Nat) (bs : List Byte) (k : Nat) (hk : k < bs.length) : memByte (memPutList m a bs) (a + k) = bs[k] := by
  induction bs generalizing m a k with
  | nil => simp at hk
  | cons b bs ih =>
    cases k with
    | zero => rw [memPutList, Nat.add_zero, memByte_memPutList_out (memPut_wf h a b) (a + 1) bs (by omega), memByte_memPut h, if_pos (by omega)]; rfl
    | succ k =>
      have hk' : k < bs.length := by simpa using hk
      have := ih (memPut_wf h a b) (a + 1) k hk'
      rw [memPutList, show a + (k + 1) = a + 1 + k by omega, this]; rfl

/-- A cleared range keeps the canonical form. -/
theorem memClear_wf {m : List Host.Cell} (h : memWf m = true) (a n : Nat) : memWf (memClear m a n) = true := by
  simp only [memClear]; exact memWf_filter _ h

theorem putWord_wf {m : List Host.Cell} (h : memWf m = true) (a : Nat) (w : Word) : memWf (putWord m a w) = true := by
  simp only [putWord]; exact memPutList_wf h a _

theorem storeWord_wf {s : State} (h : memWf s.mem = true) (a : Nat) (w : Word) : memWf (storeWord s a w).mem = true := by
  simp only [storeWord]; exact putWord_wf h a w

theorem storeBytes_wf {s : State} (h : memWf s.mem = true) (a : Nat) (bs : List Byte) : memWf (storeBytes s a bs).mem = true := by
  simp only [storeBytes]; exact memPutList_wf h a bs

theorem clearBytes_wf {s : State} (h : memWf s.mem = true) (a n : Nat) : memWf (clearBytes s a n).mem = true := by
  simp only [clearBytes]; exact memClear_wf h a n

theorem storeWords_wf {s : State} (h : memWf s.mem = true) (a : Nat) (ws : List Word) : memWf (storeWords s a ws).mem = true := by
  induction ws generalizing s a with
  | nil => simpa only [storeWords] using h
  | cons w ws ih => simp only [storeWords]; exact ih (storeWord_wf h a w) (a + 32)

theorem decodeAt_wf {s : State} (h : memWf s.mem = true) (a : Nat) : memWf (decodeAt s a).1.mem = true := by
  simp only [decodeAt]
  split
  · exact h
  · split
    · exact h
    · exact h
    · dsimp only; with_reducible exact putWord_wf h _ _

/-- Bytes stored read back. -/
theorem memGetList_memPutList {m : List Host.Cell} (h : memWf m = true) (a : Nat) (bs : List Byte) : memGetList (memPutList m a bs) a bs.length = bs := by
  suffices H : ∀ (n k : Nat), k + n = bs.length → memGetList (memPutList m a bs) (a + k) n = bs.drop k by simpa using H bs.length 0 (by omega)
  intro n
  induction n with
  | zero => intro k hk; simp only [memGetList]; rw [List.drop_eq_nil_of_le (by omega)]
  | succ n ih =>
    intro k hk
    rw [memGetList, memByte_memPutList_in h a bs k (by omega), show a + k + 1 = a + (k + 1) by omega, ih (k + 1) (by omega), ← List.drop_eq_getElem_cons]

theorem flashWf_iff (m : List Host.Cell) : flashWf m = true ↔ m.Pairwise (fun x y => x.1 < y.1) ∧ ∀ c ∈ m, c.2 ≠ 0xFF := by
  induction m with
  | nil => simp [flashWf]
  | cons x t ih =>
    obtain ⟨k, b⟩ := x
    cases t with
    | nil => simp [flashWf]
    | cons y t =>
      obtain ⟨j, c⟩ := y
      simp only [flashWf, Bool.and_eq_true, ih, bne_iff_ne, decide_eq_true_eq]
      constructor
      · rintro ⟨⟨hb, hk⟩, hp, ha⟩
        refine ⟨List.pairwise_cons.2 ⟨?_, hp⟩, ?_⟩
        · intro z hz
          rcases List.mem_cons.1 hz with rfl | hz
          · exact hk
          · exact Nat.lt_trans hk ((List.pairwise_cons.1 hp).1 z hz)
        · intro z hz
          rcases List.mem_cons.1 hz with rfl | hz
          · exact hb
          · exact ha z hz
      · rintro ⟨hp, ha⟩
        exact ⟨⟨ha (k, b) (by simp), (List.pairwise_cons.1 hp).1 (j, c) (by simp)⟩, (List.pairwise_cons.1 hp).2, fun z hz => ha z (List.mem_cons_of_mem _ hz)⟩

theorem flashWf_tail {x : Host.Cell} {t : List Host.Cell} (h : flashWf (x :: t) = true) : flashWf t = true := by
  rw [flashWf_iff] at h ⊢
  exact ⟨(List.pairwise_cons.1 h.1).2, fun z hz => h.2 z (List.mem_cons_of_mem _ hz)⟩

/-- Dropping cells keeps the canonical form. -/
theorem flashWf_filter (p : Host.Cell → Bool) {m : List Host.Cell} (h : flashWf m = true) : flashWf (m.filter p) = true := by
  rw [flashWf_iff] at h ⊢
  exact ⟨h.1.filter p, fun z hz => h.2 z (List.mem_filter.1 hz).1⟩

/-- The cells after a write are the cells before it at other addresses, and the one written unless it reads as an unlisted one. -/
theorem mem_flashPut {m : List Host.Cell} {a : Nat} {v : Byte} {c : Host.Cell} (h : c ∈ flashPut m a v) : c ∈ m ∨ (c = (a, v) ∧ v ≠ 0xFF) := by
  induction m with
  | nil => simp only [flashPut] at h; split at h <;> simp_all
  | cons x t ih =>
    obtain ⟨k, b⟩ := x
    simp only [flashPut] at h
    split at h
    · split at h
      · exact .inl h
      · rcases List.mem_cons.1 h with rfl | h
        · exact .inr ⟨rfl, ‹_›⟩
        · exact .inl h
    · split at h
      · split at h
        · exact .inl (List.mem_cons_of_mem _ h)
        · rcases List.mem_cons.1 h with rfl | h
          · exact .inr ⟨rfl, ‹_›⟩
          · exact .inl (List.mem_cons_of_mem _ h)
      · rcases List.mem_cons.1 h with rfl | h
        · simp
        · rcases ih h with h | h
          · exact .inl (List.mem_cons_of_mem _ h)
          · exact .inr h

/-- A write keeps the canonical form. -/
theorem flashPut_wf {m : List Host.Cell} (h : flashWf m = true) (a : Nat) (v : Byte) : flashWf (flashPut m a v) = true := by
  rw [flashWf_iff] at h ⊢
  refine ⟨?_, fun c hc => ?_⟩
  · obtain ⟨hp, -⟩ := h
    induction m with
    | nil => simp only [flashPut]; split <;> simp
    | cons x t ih =>
      obtain ⟨k, b⟩ := x
      obtain ⟨h1, h2⟩ := List.pairwise_cons.1 hp
      simp only [flashPut]
      split
      · split
        · exact hp
        · refine List.pairwise_cons.2 ⟨fun z hz => ?_, hp⟩
          rcases List.mem_cons.1 hz with rfl | hz
          · assumption
          · exact Nat.lt_trans ‹_› (h1 z hz)
      · split
        · split
          · exact h2
          · next e _ => exact List.pairwise_cons.2 ⟨fun z hz => e ▸ h1 z hz, h2⟩
        · refine List.pairwise_cons.2 ⟨fun z hz => ?_, ih h2⟩
          rcases mem_flashPut hz with hz | ⟨rfl, -⟩
          · exact h1 z hz
          · show k < a
            omega
  · rcases mem_flashPut hc with hc | ⟨rfl, hv⟩
    · exact h.2 c hc
    · exact hv

/-- Below its first cell a memory reads as unlisted. -/
theorem flashByte_below {m : List Host.Cell} {a : Nat} (h : ∀ c ∈ m, a < c.1) : flashByte m a = 0xFF := by
  cases m with
  | nil => rfl
  | cons x t =>
    obtain ⟨k, b⟩ := x
    have hk : a < k := h (k, b) (by simp)
    simp only [flashByte]
    rw [if_neg (by omega), if_pos hk]

/-- Reading a byte after a write. -/
theorem flashByte_flashPut {m : List Host.Cell} (h : flashWf m = true) (a : Nat) (v : Byte) (c : Nat) : flashByte (flashPut m a v) c = if c = a then v else flashByte m c := by
  have hp := ((flashWf_iff m).1 h).1
  clear h
  induction m with
  | nil => simp only [flashPut]; repeat' split
           all_goals simp_all [flashByte]
           all_goals omega
  | cons x t ih =>
    obtain ⟨k, b⟩ := x
    obtain ⟨h1, h2⟩ := List.pairwise_cons.1 hp
    have below : c < k ∨ c = k → flashByte t c = 0xFF := fun hc => flashByte_below (fun z hz => by have := h1 z hz; simp only at this; omega)
    simp only [flashPut]
    split
    · split
      · split
        · subst_vars; simp only [flashByte]; rw [if_neg (by omega), if_pos (by omega)]
        · rfl
      · split
        · subst_vars; simp [flashByte]
        · simp only [flashByte]
          rw [if_neg (fun e => ‹¬c = a› e.symm)]
          split
          · rw [if_neg (by omega), if_pos (by omega)]
          · rfl
    · split
      · split
        · split
          · subst_vars; exact below (.inr rfl)
          · simp only [flashByte]
            rw [if_neg (by omega)]
            split
            · exact below (.inl ‹_›)
            · rfl
        · split
          · subst_vars; simp [flashByte]
          · next hne =>
            subst_vars
            simp only [flashByte, if_neg (fun e => hne (Eq.symm e))]
      · simp only [flashByte, ih h2]
        split
        · split
          · omega
          · rfl
        · split
          · split
            · omega
            · rfl
          · rfl

/-- Bytes written in a row keep the canonical form. -/
theorem flashPutList_wf {m : List Host.Cell} (h : flashWf m = true) (a : Nat) (bs : List Byte) : flashWf (flashPutList m a bs) = true := by
  induction bs generalizing m a with
  | nil => exact h
  | cons b bs ih => exact ih (flashPut_wf h a b) (a + 1)

/-- A byte outside a written range reads as before. -/
theorem flashByte_flashPutList_out {m : List Host.Cell} (h : flashWf m = true) (a : Nat) (bs : List Byte) {c : Nat} (hc : c < a ∨ a + bs.length ≤ c) : flashByte (flashPutList m a bs) c = flashByte m c := by
  induction bs generalizing m a with
  | nil => rfl
  | cons b bs ih =>
    simp only [List.length_cons] at hc
    rw [flashPutList, ih (flashPut_wf h a b) (a + 1) (by omega), flashByte_flashPut h, if_neg (by omega)]

/-- A byte inside a written range reads as written. -/
theorem flashByte_flashPutList_in {m : List Host.Cell} (h : flashWf m = true) (a : Nat) (bs : List Byte) (k : Nat) (hk : k < bs.length) : flashByte (flashPutList m a bs) (a + k) = bs[k] := by
  induction bs generalizing m a k with
  | nil => simp at hk
  | cons b bs ih =>
    cases k with
    | zero => rw [flashPutList, Nat.add_zero, flashByte_flashPutList_out (flashPut_wf h a b) (a + 1) bs (by omega), flashByte_flashPut h, if_pos (by omega)]; rfl
    | succ k =>
      have hk' : k < bs.length := by simpa using hk
      have := ih (flashPut_wf h a b) (a + 1) k hk'
      rw [flashPutList, show a + (k + 1) = a + 1 + k by omega, this]; rfl

/-- An erased range keeps the canonical form. -/
theorem flashErase_wf {m : List Host.Cell} (h : flashWf m = true) (a n : Nat) : flashWf (flashErase m a n) = true := by
  simp only [flashErase]; exact flashWf_filter _ h

/-- A boot record written keeps the canonical form. -/
theorem putBoot_wf {m : List Host.Cell} (h : flashWf m = true) (body : Nat) : flashWf (putBoot m body).1 = true := by
  unfold putBoot
  extract_lets seqOf copy seq base
  clear_value copy seq base
  cases erasedPosition m base 64 1024 with
  | some p => with_reducible exact flashPutList_wf h _ _
  | none => with_reducible exact flashPutList_wf (flashErase_wf h _ _) _ _

/-- The memories are canonical after reset. -/
theorem reset_memWf : memWf State.reset.mem = true := rfl

end Sys2Proof.Machine
end

