-- ==== Sys2Proof/Laws/Shared.lean ====
section
/-! SUPPORT. Sys2Proof/Laws/Shared.lean: what each operation that the meanings share can change. -/

namespace Sys2Proof.Machine

theorem telAdd_frame (s : State) (die site off n : Nat) : OnlyIn [.tel] s (telAdd s die site off n) := by
  intro p hp; simp only [telAdd]; split <;> cases p <;> simp_all [Part.same]

theorem pkgAdd_frame (s : State) (off n : Nat) : OnlyIn [.tel] s (pkgAdd s off n) := by
  intro p hp; simp only [pkgAdd]; split <;> cases p <;> simp_all [Part.same]

/-- A counter raised by one or more reads as raised, and no other counter changes. -/
theorem telAdd_get (s : State) (die site off n : Nat) (h : n ≠ 0) : telGet (telAdd s die site off n) die site off = telRaise (telGet s die site off) n := by
  simp [telAdd, telGet, h]

theorem telAdd_other (s : State) (die site off n : Nat) {k : Nat} (h : k ≠ cfgKey die site off) : Tab.get 0 k (telAdd s die site off n).tel = Tab.get 0 k s.tel := by
  simp only [telAdd]; split
  · rfl
  · dsimp only; exact Tab.get_modify_ne 0 0 h _ _

theorem modDie_frame (s : State) (die : Nat) (f : Die → Die) : OnlyIn [.dies] s (modDie s die f) := by
  intro p hp; cases p <;> simp_all [Part.same, modDie]

@[simp] theorem dieOf_modDie_same (s : State) (die : Nat) (f : Die → Die) : dieOf (modDie s die f) die = f (dieOf s die) := by
  simp [dieOf, modDie]

theorem dieOf_modDie_ne (s : State) {die d : Nat} (f : Die → Die) (h : d ≠ die) : dieOf (modDie s die f) d = dieOf s d := by
  simp only [dieOf, modDie]; exact Tab.get_modify_ne _ _ h _ _

theorem modJob_frame (s : State) (j : Nat) (f : Job → Job) : OnlyIn [.jobs] s (modJob s j f) := by
  intro p hp; cases p <;> simp_all [Part.same, modJob]

@[simp] theorem jobOf_modJob_same (s : State) (j : Nat) (f : Job → Job) : jobOf (modJob s j f) j = f (jobOf s j) := by
  simp [jobOf, modJob]

theorem jobOf_modJob_ne (s : State) {j i : Nat} (f : Job → Job) (h : i ≠ j) : jobOf (modJob s j f) i = jobOf s i := by
  simp only [jobOf, modJob]; exact Tab.get_modify_ne _ _ h _ _

theorem setQ_frame (s : State) (q : Nat) (h : HQueue) : OnlyIn [.queues] s (setQ s q h) := by
  intro p hp; cases p <;> simp_all [Part.same, setQ]

@[simp] theorem qOf_setQ_same (s : State) (q : Nat) (h : HQueue) : qOf (setQ s q h) q = h := by simp [qOf, setQ]

theorem qOf_setQ_ne (s : State) {q r : Nat} (h : HQueue) (hr : r ≠ q) : qOf (setQ s q h) r = qOf s r := by
  simp only [qOf, setQ]; exact Tab.get_set_ne _ hr _ _

theorem modQ_frame (s : State) (q : Nat) (f : HQueue → HQueue) : OnlyIn [.queues] s (modQ s q f) := setQ_frame _ _ _

theorem setKt_frame (s : State) (die : Nat) (u : KettleUnit) : OnlyIn [.kettles] s (setKt s die u) := by
  intro p hp; cases p <;> simp_all [Part.same, setKt]

@[simp] theorem ktOf_setKt_same (s : State) (die : Nat) (u : KettleUnit) : ktOf (setKt s die u) die = u := by simp [ktOf, setKt]

theorem ktOf_setKt_ne (s : State) {die d : Nat} (u : KettleUnit) (h : d ≠ die) : ktOf (setKt s die u) d = ktOf s d := by
  simp only [ktOf, setKt]; exact Tab.get_set_ne _ h _ _

theorem modNi_frame (s : State) (die site : Nat) (f : Ni → Ni) : OnlyIn [.net] s (modNi s die site f) := by
  intro p hp; cases p <;> simp_all [Part.same, modNi]

theorem pumpStep_frame (s : State) (die site : Nat) : OnlyIn [.net] s (pumpStep s die site) := by
  simp only [pumpStep]
  split
  · exact OnlyIn.refl _ _
  · split
    · intro p hp; cases p <;> simp_all [Part.same, modNi]
    · exact modNi_frame _ _ _ _

theorem pump_frame (n : Nat) (s : State) (die site : Nat) : OnlyIn [.net] s (pump n s die site) := by
  induction n generalizing s with
  | zero => exact OnlyIn.refl _ _
  | succ n ih => exact (pumpStep_frame s die site).trans (ih _)

/-- A request sent changes the mull fabric alone. -/
theorem sendReq_frame (s : State) (src : Ep) (issuer job typ : Nat) (dst : Ep) (arg : BitVec 64) (data : List Word) : OnlyIn [.net] s (sendReq s src issuer job typ dst arg data) := by
  simp only [sendReq]
  exact (modNi_frame _ _ _ _).trans (pump_frame _ _ _ _)

theorem sendKettle_frame (s : State) (src : Ep) (issuer job rank kop : Nat) (rel : Bool) (operand : Nat) : OnlyIn [.net] s (sendKettle s src issuer job rank kop rel operand) := by
  simp only [sendKettle]
  split
  · split
    · exact sendReq_frame _ _ _ _ _ _ _ _
    · exact OnlyIn.refl _ _
  · exact OnlyIn.refl _ _

theorem siteSignal_frame (s : State) (die site issuer rank : Nat) (rel : Bool) : OnlyIn [.net] s (siteSignal s die site issuer rank rel) := sendKettle_frame _ _ _ _ _ _ _ _

theorem emitReplyArg_frame (s : State) (m : Msg) (typ status : Nat) (scode : Bool) (data : List Word) (arg : BitVec 64) : OnlyIn [.net, .tel] s (emitReplyArg s m typ status scode data arg) := by
  simp only [emitReplyArg]
  repeat' split
  · exact OnlyIn.refl _ _
  · intro p hp; cases p <;> simp_all [Part.same, telAdd]
  · intro p hp; cases p <;> simp_all [Part.same]

theorem emitReply_frame (s : State) (m : Msg) (typ status : Nat) (scode : Bool) (data : List Word) : OnlyIn [.net, .tel] s (emitReply s m typ status scode data) :=
  emitReplyArg_frame s m typ status scode data 0

/-- A final reply changes the mull fabric, and the count of refusals where it is one. -/
theorem reply_frame (s : State) (m : Msg) (typ status : Nat) (scode : Bool) (data : List Word) : OnlyIn [.net, .tel] s (reply s m typ status scode data) := by
  simp only [reply]
  exact ((modNi_frame _ _ _ _).mono (by intro p hp; cases p <;> simp_all)).trans (emitReply_frame _ _ _ _ _ _)

theorem ack_frame (s : State) (m : Msg) : OnlyIn [.net, .tel] s (ack s m) := reply_frame _ _ _ _ _ _
theorem answer_frame (s : State) (m : Msg) (data : List Word) : OnlyIn [.net, .tel] s (answer s m data) := reply_frame _ _ _ _ _ _
theorem errorEvent_frame (s : State) (m : Msg) (code : Nat) : OnlyIn [.net, .tel] s (errorEvent s m code) := reply_frame _ _ _ _ _ _
theorem errorStatus_frame (s : State) (m : Msg) (status : Nat) : OnlyIn [.net, .tel] s (errorStatus s m status) := reply_frame _ _ _ _ _ _
theorem refuse_frame (s : State) (m : Msg) (reason : Nat) : OnlyIn [.net, .tel] s (refuse s m reason) := reply_frame _ _ _ _ _ _

theorem hold_frame (s : State) (m : Msg) : OnlyIn [.net, .tel] s (hold s m) := by
  simp only [hold]
  exact ((modNi_frame _ _ _ _).mono (by intro p hp; cases p <;> simp_all)).trans (emitReply_frame _ _ _ _ _ _)

theorem hostWrite_frame (s : State) (a : Nat) (bs : List Byte) (use : WriteFor) : OnlyIn [.host] s (hostWrite s a bs use) := by
  intro p hp; cases p <;> simp_all [Part.same, hostWrite]

theorem hostRead_frame (s : State) (a n : Nat) (use : ReadFor) : OnlyIn [.host] s (hostRead s a n use) := by
  intro p hp; cases p <;> simp_all [Part.same, hostRead]

theorem takeFree_frame (s : State) : OnlyIn [.freeCtr] s (takeFree s).1 := by
  intro p hp; cases p <;> simp_all [Part.same, takeFree]

theorem storeWord_frame (s : State) (a : Nat) (w : Word) : OnlyIn [.mem, .flips] s (storeWord s a w) := by
  intro p hp; cases p <;> simp_all [Part.same, storeWord]

theorem storeWords_frame (s : State) (a : Nat) (ws : List Word) : OnlyIn [.mem, .flips] s (storeWords s a ws) := by
  induction ws generalizing s a with
  | nil => simp only [storeWords]; exact OnlyIn.refl _ _
  | cons w ws ih => simp only [storeWords]; exact (storeWord_frame s a w).trans (ih _ _)

theorem storeBytes_frame (s : State) (a : Nat) (bs : List Byte) : OnlyIn [.mem, .flips] s (storeBytes s a bs) := by
  intro p hp; cases p <;> simp_all [Part.same, storeBytes]

theorem clearBytes_frame (s : State) (a n : Nat) : OnlyIn [.mem, .flips] s (clearBytes s a n) := by
  intro p hp; cases p <;> simp_all [Part.same, clearBytes]

theorem decodeAt_frame (s : State) (a : Nat) : OnlyIn [.mem, .flips] s (decodeAt s a).1 := by
  intro p hp
  simp only [decodeAt]
  repeat' split
  all_goals (cases p <;> simp_all [Part.same])

/-- Bytes stored leave every byte outside them as it was. -/
theorem storeBytes_outside {s : State} (h : memWf s.mem = true) (a : Nat) (bs : List Byte) : outside a bs.length s (storeBytes s a bs) := by
  intro b hb
  simp only [storeBytes]
  exact memByte_memPutList_out h a bs hb

/-- Bytes stored read back. -/
theorem storeBytes_get {s : State} (h : memWf s.mem = true) (a : Nat) (bs : List Byte) : memGetList (storeBytes s a bs).mem a bs.length = bs := by
  simp only [storeBytes]
  exact memGetList_memPutList h a bs

theorem setMt_frame (s : State) (die site : Nat) (t : MTile) : OnlyIn [.mTiles] s (setMt s die site t) := by
  intro p hp; cases p <;> simp_all [Part.same, setMt]
theorem setVt_frame (s : State) (die site : Nat) (t : VTile) : OnlyIn [.vTiles] s (setVt s die site t) := by
  intro p hp; cases p <;> simp_all [Part.same, setVt]
theorem setFt_frame (s : State) (die site : Nat) (t : FTile) : OnlyIn [.fTiles] s (setFt s die site t) := by
  intro p hp; cases p <;> simp_all [Part.same, setFt]
theorem setSp_frame (s : State) (die site : Nat) (t : STile) : OnlyIn [.sTiles] s (setSp s die site t) := by
  intro p hp; cases p <;> simp_all [Part.same, setSp]
theorem setCore_frame (s : State) (die core : Nat) (c : Core) : OnlyIn [.cores] s (setCore s die core c) := by
  intro p hp; cases p <;> simp_all [Part.same, setCore]
theorem setSeq_frame (s : State) (die : Nat) (u : SeqUnit) : OnlyIn [.seqs] s (setSeq s die u) := by
  intro p hp; cases p <;> simp_all [Part.same, setSeq]
theorem setPage_frame (s : State) (key : Nat) (p : Page) : OnlyIn [.pages] s (setPage s key p) := by
  intro p hp; cases p <;> simp_all [Part.same, setPage]

@[simp] theorem mtOf_setMt_same (s : State) (die site : Nat) (t : MTile) : mtOf (setMt s die site t) die site = t := by simp [mtOf, setMt]
@[simp] theorem vtOf_setVt_same (s : State) (die site : Nat) (t : VTile) : vtOf (setVt s die site t) die site = t := by simp [vtOf, setVt]
@[simp] theorem spOf_setSp_same (s : State) (die site : Nat) (t : STile) : spOf (setSp s die site t) die site = t := by simp [spOf, setSp]
@[simp] theorem coreOf_setCore_same (s : State) (die core : Nat) (c : Core) : coreOf (setCore s die core c) die core = c := by simp [coreOf, setCore]
@[simp] theorem pageOf_setPage_same (s : State) (key : Nat) (p : Page) : pageOf (setPage s key p) key = p := by simp [pageOf, setPage]

theorem flushReplies_frame (s : State) (q : Nat) : OnlyIn [.queues] s (flushReplies s q) := by
  simp only [flushReplies]; exact modQ_frame _ _ _

theorem modCmd_frame (s : State) (q seq : Nat) (f : HCmd → HCmd) : OnlyIn [.queues] s (modCmd s q seq f) := by
  simp only [modCmd]; exact modQ_frame _ _ _

/-- A command's reply changes the queues alone. -/
theorem finishCmd_frame (s : State) (q seq status detail result : Nat) : OnlyIn [.queues] s (finishCmd s q seq status detail result) := by
  simp only [finishCmd]
  repeat' split
  · exact OnlyIn.refl _ _
  · exact OnlyIn.refl _ _
  · exact (modCmd_frame _ _ _ _).trans (flushReplies_frame _ _)

theorem postNotice_frame (s : State) (q status detail : Nat) : OnlyIn [.queues] s (postNotice s q status detail) := by
  simp only [postNotice]; exact modQ_frame _ _ _

end Sys2Proof.Machine
end

