-- ==== Sys2Proof/Tests/Slice0.lean ====
section
/-! SUPPORT. Sys2Proof/Tests/Slice0.lean: small tests of single steps, ill-formed commands, and witnesses of the statements' hypotheses. -/

namespace Sys2Proof.Machine

set_option Elab.async false

/-- The package in service: the start done, the link up, job 5 ACTIVE with ranks to a kettle, a stream engine, a tile and an S-tile of die 41 and to a core, region 1 of die 41 running, and nothing else. -/
def wEntry (die site port index : Nat) : Nat := 2 ^ 63 + die * 2 ^ 48 + site * 2 ^ 38 + port * 2 ^ 34 + index
def wJob : Job :=
  { jobInitial with st := .active, ranks := 8, windows := [(0, hostAddr 0x1000000, 0x1000000, 3)]
                    rankTable := [(0, wEntry 41 0x3FF portKettle 0), (1, wEntry 41 49 portStream 0), (2, wEntry 41 48 portTile 0), (3, wEntry 41 49 portTile 0), (4, wEntry 41 0x3FF portCore 0)] }
def wRegion : Region := { job := 5, bounds := .columns 41 0 7, st := .running, sig := none, wasRunning := false, scanAreas := [], scan := none, startAt := none, timed := none }
def wUp : State :=
  { State.reset with
    now := 1000, goodDies := [41], goodFar := [0], kettles := [(41, { kettleUnitInitial with kettles := [(0, { kettleInitial with owner := some 5, value := 3 })] })]
    dies := [(41, { dieInitial with goodCh := upTo 24 }), (0x60, { dieInitial with far := [(0, { st := .good, vendor := 1, refreshRate := 0 })] })]
    link := { State.reset.link with up := true, width := 16, rate := 128 }, regions := [(1, wRegion)], jobs := [(0, { jobInitial with st := .active }), (5, wJob)]
    boot := { State.reset.boot with due := none, watchdog := false, dmode := 1, phase := 9 } }

/-- A command of a job by its opcode, flags and parameters, as it stands once started. -/
def wCmd (op job flags params : Nat) : HCmd :=
  { seq := 7, raw := BitVec.ofNat 512 (op + flags * 2 ^ 16 + 7 * 2 ^ 32 + job * 2 ^ 64 + params * 2 ^ 128), params := [], stage := .started, reply := none, msg := none }

/-- A state whose queue q holds one command. -/
def wIn (s : State) (q : Nat) (c : HCmd) : State := { s with queues := [(q, { queueInitial with enable := true, qstate := 1, cmds := [c] })] }

/-- A request of H0's HOST port, or of another endpoint. -/
def wMsg (typ job : Nat) (dst : Ep) (arg : Nat) (data : List Word) : Msg :=
  { typ := typ, dst := dst, src := hostEp 64, issuer := 64, msgId := 3, seq := 0, attempt := 0, job := job, status := 0, arg := BitVec.ofNat 64 arg, dep := false, cfgm := false, scode := false, data := data }

/-- An event. -/
def wEv (code cls job : Nat) : Ev :=
  { code := code, cls := cls, job := job, die := 41, ukind := 2, index := 0, time := 900, detail := 0, region := 0, ext := none, defers := false }

/-- A completion entry. -/
def wReply (seq : Nat) (notice replayed : Bool) : HEntry :=
  { notice := notice, seq := seq, status := 0, opcode := 5, job := 5, detail := 0, result := 0, time := 10, irq := false, replayed := replayed, unnumbered := false }

theorem siteIs_of_isTile (die site : Nat) (kinds : List SiteKind) (h : isTile die site kinds = true) : SiteIs die site kinds := by
  unfold isTile at h
  split at h
  · next k hk => simp only [Bool.and_eq_true] at h; exact ⟨h.1, k, hk, h.2⟩
  · simp at h

theorem siteIs_iff (die site : Nat) (kinds : List SiteKind) : SiteIs die site kinds ↔ isTile die site kinds = true := by
  refine ⟨?_, siteIs_of_isTile die site kinds⟩
  rintro ⟨h, k, hk, hc⟩
  simp only [isTile, hk, h, hc, Bool.and_self]

/-- Parameter bytes: values placed at byte offsets. -/
def wP (l : List (Nat × Nat)) : Nat := l.foldl (fun n e => n + e.2 * 2 ^ (8 * e.1)) 0

/-- A near page of die 41 and a far page owned by job 5 and visible to the host. -/
def wOwned : Page := { st := .owned 5, hostvis := true, uncorr := false, zeroing := false, dirty := false }
def wDram : State := { wUp with pages := [(41 * 2 ^ 15 + 512, wOwned), (2 ^ 22, wOwned)], decoders := [(0, { base := 2 ^ 40, committed := true, error := false })] }
def wNear : Nat := nearAddr 41 (2 ^ 30)

/-- A signature of region 1, and a stream of job 5's task 1 with no request outstanding. -/
def wSig : Sig :=
  { region := 1, bounds := .columns 41 0 7, frames := [], ranks := [], kettleInit := [], gates := [], mflags := 1, seqDie := 41, timedBound := 0, assigns := [], programs := [], cmem := [], digest := [], version := 1, spine := [] }
def wStrm (desc : Nat) : Strm :=
  { desc := BitVec.ofNat 1280 desc, job := 5, owner := none, serial := 0, phase := .running, passesDone := 0, issued := 0, pos := 0, staged := [], done := [], outst := [], credited := 0, leaf := none, genSeen := none }
def wJobIn (st : JState) (regions : Tab Region) (q : Nat) (c : HCmd) : State := { wIn wUp q c with regions := regions, jobs := [(0, { jobInitial with st := .active }), (5, { wJob with st := st })] }
def wSt (st : RState) : Tab Region := [(1, { wRegion with st := st })]

/-- A program of region 1 in core 0 of die 41, with all of cluster memory as its window. -/
def wProgram : BitVec 1024 := BitVec.ofNat 1024 (wP [(1, 1), (36, 23), (37, 7)])
def wServeSig : Sig := { wSig with mflags := 2, assigns := [(41, 1)], programs := [(41, 0, wProgram)] }
/-- An interface, an outstanding request, and an arrived message's buffer. -/
def wNi (die site : Nat) (n : Ni) : State := { wUp with net := { wUp.net with nis := [(siteKey die site, n)] } }
def wOut (m : Msg) (st : OutState) (since : Option Nat) : Outst := { msg := m, first := 0, partedSince := since, st := st, limit := 1000, serial := 0 }
def wBuf (m : Msg) (st : RxStage) (have1 : Bool) : RxBuf := { msg := m, have0 := true, have1 := have1, count := 2, first := 0, stage := st }

/-! Ill-formed commands, one for each check of Instr.wf, and the last well-formed value beside it. -/

theorem test_ill_formed_units : Instr.wf (.coreRailFailure 100) = false ∧ Instr.wf (.coreRailFailure 99) = true ∧ Instr.wf (.refresh 95 24) = false ∧ Instr.wf (.refresh 96 31) = true
    ∧ Instr.wf (.seqBuild 96) = false ∧ Instr.wf (.farChannelLost 95 0) = false ∧ Instr.wf (.farChannelLost 99 32) = false ∧ Instr.wf (.nearChannelLost 95 24) = false
    ∧ Instr.wf (.mmaComplete 0 480 0) = false ∧ Instr.wf (.gatherStall 0 30) = (isSp (siteKind 30)) ∧ Instr.wf (.forkTake 95 479 2) = false ∧ Instr.wf (.mergeAdd 0 0 3 4) = false
    ∧ Instr.wf (.packetEjection 96 0) = false ∧ Instr.wf (.packetEjection 96 0x3FF) = true ∧ Instr.wf (.coreHalt 96 16) = false ∧ Instr.wf (.coreHalt 96 15) = true
    ∧ Instr.wf (.eventArrival 100) = false ∧ Instr.wf (.eventArrival h0Events) = true ∧ Instr.wf (.edgeFrameReceive 41 49 true []) = false ∧ Instr.wf (.mullPacketRoute 96 0 0 0 0 []) = false := by
  decide +kernel

theorem test_ill_formed_operands : Instr.wf (.sqTail 65 0) = false ∧ Instr.wf (.cqHead 64 (2 ^ 32)) = false ∧ Instr.wf (.deviceInfo 64 (2 ^ 32)) = false ∧ Instr.wf (.registerWrite 0 3 0) = false
    ∧ Instr.wf (.registerWrite 0 8 (2 ^ 64)) = false ∧ Instr.wf (.hstQReplay 0 0 2) = false ∧ Instr.wf (.hdmDecoderCommit 2 0 0) = false ∧ Instr.wf (.hdmRead (2 ^ 52) []) = false
    ∧ Instr.wf (.hdmWrite 0 (2 ^ 64) 0) = false ∧ Instr.wf (.hdmRead 0 [(0, 2 ^ 288)]) = false ∧ Instr.wf (.bankGrant 0 1 16 []) = false ∧ Instr.wf (.bankGrant 41 49 0 [(2 ^ 64 + 4096, 1)]) = false
    ∧ Instr.wf (.bankGrant 41 49 0 [(2 ^ 64 + 4095, 2 ^ 71)]) = true ∧ Instr.wf (.streamReply 41 49 8) = false ∧ Instr.wf (.streamReply 41 49 7) = true ∧ Instr.wf (.ktlSignal 64 0 0) = false
    ∧ Instr.wf (.ktlReset 5 65536 0) = false ∧ Instr.wf (.regionStart 65536) = false ∧ Instr.wf (.captureDelivery 64) = false ∧ Instr.wf (.cxlReset 3) = false ∧ Instr.wf (.pwrLimitWrite (2 ^ 64) true) = false
    ∧ Instr.wf (.messageResend 41 49 65536) = false ∧ Instr.wf (.eventRaise 41 (wEv 1 3 5)) = false ∧ Instr.wf (.eventRaise 41 (wEv 65535 2 5)) = true ∧ Instr.wf (.fcallBeat 0 0 2 0 []) = false
    ∧ Instr.wf (.grainSlotForward 0 0 0 0 (2 ^ 288)) = false ∧ Instr.wf (.fenceComplete { die := 100, site := 0, port := 0, index := 0 }) = false
    ∧ Instr.wf (.read (wMsg 256 5 (tileEp 41 49 0) 0 []) []) = false ∧ Instr.wf (.read (wMsg 1 64 (tileEp 41 49 0) 0 []) []) = false ∧ Instr.wf (.read (wMsg 1 5 (tileEp 41 480 0) 0 []) []) = false
    ∧ Instr.wf (.read (wMsg 1 5 (tileEp 41 49 0) 0 (List.replicate 33 0)) []) = false ∧ Instr.wf (.read (wMsg 1 5 (tileEp 41 49 0) 0 []) []) = true := by
  decide +kernel

theorem test_reset_queue_is_empty : State.reset.pending = [] := rfl

/-! Witnesses: for each statement, states and operands that meet the hypotheses of each of its clauses. -/

theorem test_met_StepTakesTheFrontCommand : ({ State.reset with pending := [.linkDown, .powerOff] } : State).pending = .linkDown :: [.powerOff] := rfl

theorem test_met_AnEmptyQueueOnlyCountsTime : State.reset.pending = [] := rfl

theorem test_met_OnlyAbsentUnitsStop : Instr.wf (.coreInstruction 99 15 []) = true := by decide +kernel

theorem test_met_EveryStepKeepsTheMemoriesCanonical : State.reset.memoryOk ∧ step State.reset = .next { State.reset with now := 1 } := ⟨by unfold State.memoryOk; decide +kernel, rfl⟩

theorem test_met_EveryStepTakesOneCommand : step { State.reset with pending := [.linkDown] } = .next State.reset := rfl

/-- Die 95 lost, nothing else. -/
def wLost : State := { wUp with dies := [(95, { dieInitial with fenced := true, dead := some 3 })] }

theorem test_met_FatalAndDieFailuresAreHeld : (wUp.boot.powered = true ∧ HearsEvents wUp 0x60 ∧ isDie 99 = true ∧ (dieOf wUp 99).fenced = false)
    ∧ ((∀ d, (dieOf State.reset d).dead = none) ∧ (∀ e ∈ [(0, 0), (99, 2000)], isDie e.1 = true ∧ (dieOf State.reset e.1).fenced = false ∧ e.2 ≤ 2000))
    ∧ (isCompute 95 = true ∧ (dieOf wLost 95).dead = some 3 ∧ (∀ d, d ≠ 95 → (dieOf wLost d).dead = none) ∧ dieUsers wLost 95 = [] ∧ (eventsAt wLost h0Events).length < 64) := by
  refine ⟨by unfold HearsEvents; decide +kernel, ⟨fun _ => rfl, by decide +kernel⟩, by decide +kernel, by decide +kernel, ?_, by decide +kernel, by decide +kernel⟩
  intro d hd
  simp [dieOf, wLost, Tab.get, Tab.find?, dieInitial, Ne.symm hd]

/-- A die in a thermal state. -/
def wTherm (n : Nat) : State := { wUp with dies := [(41, { dieInitial with tstate := n, capThermal := 4, capPower := 16 })] }

theorem test_met_TemperatureCapsTheIssueLevel : (wUp.boot.powered = true ∧ isDie 41 = true ∧ (∀ n ∈ [0, 1, 2], (dieOf (wTherm n) 41).fenced = false ∧ (dieOf (wTherm n) 41).tstate = n))
    ∧ (maxOf [115, 0, 0, 0, 0, 0, 0, 0] = 115 ∧ maxOf [0, 0, 0, 114, 0, 0, 0, 99] = 114 ∧ maxOf [0, 0, 0, 0, 0, 0, 0, 95] < 115 ∧ ([115, 0, 0, 0, 0, 0, 0, 0] : List Nat).length = 8)
    ∧ ((dieOf wUp 0x60).fenced = false ∧ (dieOf wUp 0x60).tstate ≠ 2) ∧ (isCompute 41 = true ∧ (dieOf (wTherm 1) 41).tstate < 2 ∧ 4 ≤ wUp.pwr.pcap ∧ wUp.pwr.pcap ≤ 16
      ∧ 4 ≤ (dieOf (wTherm 1) 41).capThermal ∧ (dieOf (wTherm 1) 41).capThermal ≤ 16 ∧ 4 ≤ (dieOf (wTherm 1) 41).capPower ∧ (dieOf (wTherm 1) 41).capPower ≤ 16) := by decide +kernel

theorem test_met_PowerRegistersAndPcapFollowTheirRules : (State.reset.boot.powered = true ∧ (∀ d, (dieOf State.reset d).dead = none) ∧ 4 ≤ State.reset.pwr.pcap ∧ State.reset.pwr.pcap ≤ 16 ∧ 0 < State.reset.pwr.limit)
    ∧ (State.reset.pwr.limit < 17001 ∧ 16489 * 100 < State.reset.pwr.limit * 97 ∧ State.reset.pwr.limit * 97 ≤ 16490 * 100) ∧ (17001 < 65536 ∧ 17000 < 2 ^ 15 ∧ 4000 < 2 ^ 15) :=
  ⟨⟨by decide +kernel, fun _ => rfl, by decide +kernel, by decide +kernel, by decide +kernel⟩, by decide +kernel, by decide +kernel⟩

theorem test_met_PowerOffKeepsOnlyTheFlash : wUp.memoryOk := by unfold State.memoryOk; decide +kernel

theorem test_met_MinimalStartsAndRestarts : (State.reset.boot.powered = true ∧ State.reset.boot.due = some false ∧ State.reset.boot.dueReply = none ∧ bootInForce State.reset.flash = none
      ∧ usedPositions State.reset.flash 0 64 1024 = [] ∧ usedPositions State.reset.flash 0x10000 64 1024 = [])
    ∧ (State.reset.boot.watchdog = true ∧ ({ State.reset with now := 30000000000 } : State).boot.watchdog = true ∧ State.reset.now < 30000000000 ∧ wUp.boot.watchdog = false)
    ∧ (∀ p ∈ [0x0000, 0x0001, 0x0100, 0x0101], Started (wIn wUp 64 (wCmd 0x0705 0 0 p)) 64 7 0x0705 (wCmd 0x0705 0 0 p) ∧ (wCmd 0x0705 0 0 p).p 0 1 < 2 ∧ (wCmd 0x0705 0 0 p).p 1 1 < 2)
    ∧ ((jobOf wUp 5).st ≠ .free ∧ ∀ j, 1 ≤ j → j ≤ 63 → (jobOf State.reset j).st = .free) := by
  refine ⟨by decide +kernel, by decide +kernel, ?_, by decide +kernel, ?_⟩
  · unfold Started; decide +kernel
  · intro j h _
    have : (0 : Nat) ≠ j := by omega
    simp [jobOf, State.reset, Tab.get, Tab.find?, jobInitial, this]

/-- A flash whose only boot record names slot 0 and has 2 failed attempts. -/
def wFlash : List Host.Cell := (putBoot [] (bootBody 0 2 1 (2 ^ 32 - 1))).1

theorem test_met_StartFromABootRecord : let s := { State.reset with flash := wFlash }
    s.boot.powered = true ∧ s.boot.due = some false ∧ s.boot.dueReply = none ∧ (bootInForce s.flash).isSome = true ∧ fld ((bootInForce s.flash).getD 0) 16 1 < 2 ∧ fld ((bootInForce s.flash).getD 0) 17 1 = 2 := by
  decide +kernel

/-- An FW_WRITE of the last 64 KiB of a slot, and of its largest amount. -/
def wFwData : State := { wIn wUp 64 (wCmd 0x0701 0 0 (wP [(8, 2 ^ 26 - 65536), (12, 65536)])) with boot := { wUp.boot with fw := some { q := 64, seq := 7, data := some (some [0]) } } }

/-- The length of the certificate chain depends on a free value, so no witness can fix it. -/
theorem test_met_FirmwareStatusAndAttestationAreServed :
    (∀ p ∈ [wP [(8, 2 ^ 26 - 65536), (12, 65536)], wP [(0, 2 ^ 52 - 2 ^ 24), (12, 2 ^ 24)]], let c := wCmd 0x0701 0 0 p
      Started (wIn wUp 64 c) 64 7 0x0701 c ∧ fwTurn (wIn wUp 64 c) 64 7 = true ∧ (wIn wUp 64 c).boot.fw = none ∧ c.p 16 1 = 0 ∧ c.p 17 7 = 0
      ∧ c.p 8 4 % 65536 = 0 ∧ 0 < c.p 12 4 ∧ c.p 12 4 % 65536 = 0 ∧ c.p 12 4 ≤ 2 ^ 24 ∧ c.p 8 4 + c.p 12 4 ≤ 2 ^ 26 ∧ c.p 0 8 % 64 = 0 ∧ c.p 0 8 + c.p 12 4 ≤ 2 ^ 52)
    ∧ (let c := wCmd 0x0701 0 0 (wP [(8, 2 ^ 26 - 65536), (12, 65536)]); Started wFwData 64 7 0x0701 c ∧ fwTurn wFwData 64 7 = true ∧ wFwData.boot.fw = some { q := 64, seq := 7, data := some (some [0]) } ∧ c.p 16 1 = 0)
    ∧ (∀ slot ∈ [0, 1], let c := wCmd 0x0702 0 0 slot; Started (wIn wUp 64 c) 64 7 0x0702 c ∧ fwTurn (wIn wUp 64 c) 64 7 = true ∧ c.p 0 1 < 2 ∧ (wIn wUp 64 c).boot.flashOk = true
      ∧ slotCheck (wIn wUp 64 c).flash (slotBase slot) true = some 2)
    ∧ (∀ op ∈ [0x0703, 0x0704], let c := wCmd op 0 0 (wP [(0, hostAddr (2 ^ 52 - 64)), (8, 65535)])
      Started (wIn wUp 64 c) 64 7 op c ∧ spaceOf (c.p 0 8) = 8 ∧ addrMalformed (c.p 0 8) = false ∧ c.p 0 8 % 64 = 0)
    ∧ wUp.boot.ident = false
    ∧ (spdmResponse 0x85 = none ∧ 3 ≤ ({ wUp.boot with spdm := 3, ident := true } : Boot).spdm) := by
  refine ⟨by unfold Started; decide +kernel, by unfold Started; decide +kernel, by unfold Started; decide +kernel, by unfold Started; decide +kernel, by decide +kernel, by decide +kernel⟩

theorem test_met_LinkStateChangesAreTaken : wUp.link.up = true
    ∧ (let s := { wUp with now := 10000000001, link := { wUp.link with up := false, downTime := 1, graceRuns := true } }
       s.link.up = false ∧ s.boot.dmode ≠ 0 ∧ s.pair.mirror = none ∧ s.now ≤ s.link.downTime + s.link.grace * 1000000000 ∧ HearsEvents s 0x60)
    ∧ (let s := { State.reset with now := 10000000002, link := { State.reset.link with downTime := 1, graceRuns := true } }
       s.link.graceRuns = true ∧ s.link.downTime + s.link.grace * 1000000000 < s.now ∧ HearsEvents s 0x60 ∧ ∀ j, 1 ≤ j → (jobOf s j).st = .free ∧ (jobOf s j).graceDue = false) := by
  refine ⟨rfl, by unfold HearsEvents; decide +kernel, by decide +kernel, by decide +kernel, by unfold HearsEvents; decide +kernel, ?_⟩
  intro j h
  have : (0 : Nat) ≠ j := by omega
  simp [jobOf, State.reset, Tab.get, Tab.find?, jobInitial, this]

theorem test_met_DeviceMemoryIsDecodedAndServed : wDram.memoryOk ∧ hdmAddress wDram (2 ^ 40 / 64 * 64) = some (2 ^ 59) ∧ (hdmPlace wDram (2 ^ 59)).isSome = true
    ∧ (∀ p ∈ hdmPlace wDram (2 ^ 59), p = .near 41 (2 ^ 30) 16 ∧ Tab.find? p.home wDram.flips = none ∧ Tab.find? (p.plus 32).home wDram.flips = none ∧ Tab.find? p.home wDram.biOld = none)
    ∧ hdmAddress wDram ((2 ^ 40 + 2 ^ 21 + 63) / 64 * 64) = some (2 ^ 59 + 2 ^ 21) ∧ hdmPlace wDram (2 ^ 59 + 2 ^ 21) = none ∧ HearsEvents wDram 0x60 := by
  unfold State.memoryOk HearsEvents; decide +kernel

/-- A write and a read of host memory that H0 has outstanding, the read for the command of queue 5. -/
def wHost : State :=
  { wIn wUp 5 { wCmd 0x0301 5 0 0 with stage := .reading } with
    host := { reads := [{ id := 4, addr := hostAddr 0x1000000, bytes := 2, use := .param 5 7, since := 0 }], writes := [{ id := 3, addr := hostAddr 0x1000000, bytes := [1, 2], use := .headstock, since := 0 }], nextId := 5 } }

theorem test_met_HostRequestsAndSnoopsEnd : wHost.memoryOk ∧ wHost.link.up = true
    ∧ (∀ w ∈ wHost.host.writes, wHost.host.writes.find? (fun x => x.id == w.id) = some w ∧ w.use = .headstock) ∧ wHost.host.writes.length = 1
    ∧ (∀ r ∈ wHost.host.reads, wHost.host.reads.find? (fun x => x.id == r.id) = some r ∧ r.use = .param 5 7 ∧ r.bytes = 2) ∧ wHost.host.reads.length = 1
    ∧ (((qOf wHost 5).cmd? 7).map HCmd.reply = some none) := by unfold State.memoryOk; decide +kernel

/-- Queue q with fields of its own. -/
def wQ (q : Nat) (h : HQueue) : State := { wUp with queues := [(q, h)] }

theorem test_met_QueueRegistersAreTaken :
    (∀ q ∈ [0, 5, 64], (qOf wUp q).enable = false ∧ (qOf wUp q).qstate ≠ 5 ∧ (q = 64 ∨ q = 0 ∨ (jobOf wUp q).st ≠ .free))
    ∧ (∀ cfg ∈ [12 * 2 ^ 16 + 12, 0], cfg / 2 ^ 16 % 16 < 13 ∧ cfg % 16 < 13) ∧ (13 ≤ (13 * 2 ^ 16) / 2 ^ 16 % 16 ∧ 13 ≤ 13 % 16)
    ∧ ((qOf wUp 63).enable = false ∧ (qOf wUp 63).qstate ≠ 5 ∧ (jobOf wUp 63).st = .free)
    ∧ (let s := wQ 64 { queueInitial with qstate := 5 }; (qOf s 64).enable = false ∧ (qOf s 64).qstate = 5 ∧ (qOf s 64).reading = false ∧ (qOf s 64).writing = [])
    ∧ (let s := wQ 64 { queueInitial with qstate := 5, reading := true }; (qOf s 64).qstate = 5 ∧ (qOf s 64).reading = true)
    ∧ (qOf (wQ 0 { queueInitial with enable := true }) 0).enable = true := by decide +kernel

/-- Queue 5 with a reply held, one being written, a replay armed. -/
def wHeld : HQueue := { queueInitial with enable := true, qstate := 1, held := [wReply 8 false false], sqLog2 := 0, cqLog2 := 0 }
def wWriting : State := { wQ 5 { wHeld with writing := [wReply 7 false false], cqTail := 15, kept := [] } with host := { reads := [], writes := [{ id := 3, addr := hostAddr 0, bytes := [], use := .cqEntry 5, since := 0 }], nextId := 4 } }

theorem test_met_RepliesAndReplayAreWritten :
    (∀ q ∈ [0, 5, 64], (qOf wUp q).enable = false ∧ (qOf wUp q).replay = none)
    ∧ (let s := wQ 5 { wHeld with enable := false, replay := some (0, 6), kept := [wReply 7 false false, wReply 1 true false] }
       (qOf s 5).enable = false ∧ (qOf s 5).qstate ≠ 5 ∧ (jobOf s 5).st ≠ .free ∧ (qOf s 5).replay = some (0, 6) ∧ seqAfter ((qOf s 5).oldest false) ((6 + 1) % 2 ^ 32) = false)
    ∧ (let s := wQ 5 wHeld; (qOf s 5).enable = true ∧ s.link.up = true ∧ (qOf s 5).held = [wReply 8 false false] ∧ (qOf s 5).writing = [] ∧ ((qOf s 5).cqTail + 1) % 2 ^ ((qOf s 5).cqLog2 + 4) ≠ (qOf s 5).cqHead)
    ∧ (let s := wQ 5 { wHeld with cqTail := 15 }; ((qOf s 5).cqTail + 1) % 2 ^ ((qOf s 5).cqLog2 + 4) = (qOf s 5).cqHead)
    ∧ (wWriting.link.up = true ∧ (qOf wWriting 5).writing = [wReply 7 false false] ∧ (∀ w ∈ wWriting.host.writes, w.use = .cqEntry 5) ∧ wWriting.host.writes.length = 1)
    ∧ ((rankEp wUp 5 0).map Ep.port = some portKettle ∧ (rankEp wUp 5 1).map Ep.port = some portStream ∧ rankEp wUp 5 5 = none ∧ ktlAdmits (jobOf wUp 5).st = true)
    ∧ (∀ n ∈ [1, 2 ^ 31 - 1, 2 ^ 32 - 1], n < 2 ^ 32 ∧ n ≠ 0 ∧ n ≠ 2 ^ 31) := by decide +kernel

theorem test_met_CommandsAreAcceptedAndStarted :
    (let h := { queueInitial with enable := true, qstate := 1, sqTail := 1 }; let s := wQ 64 h
     (qOf s 64).enable = true ∧ (qOf s 64).qstate = 1 ∧ h.entry = none ∧ h.reading = false ∧ h.sqHead ≠ h.sqTail ∧ h.cmds.length < 32 ∧ h.cqFull = false ∧ s.link.up = true)
    ∧ (∀ seq ∈ [0, 2 ^ 32 - 1, 1], let h := { queueInitial with enable := true, qstate := 1, entry := some (some (BitVec.ofNat 512 (seq * 2 ^ 32))) }
       h.entry = some (some (BitVec.ofNat 512 (seq * 2 ^ 32))) ∧ (fld (BitVec.ofNat 512 (seq * 2 ^ 32)).toNat 4 4 = (h.lastAccepted + 1) % 2 ^ 32 ↔ seq = 0)
         ∧ (seqAfter (fld (BitVec.ofNat 512 (seq * 2 ^ 32)).toNat 4 4) h.lastAccepted = false ↔ seq = 2 ^ 32 - 1))
    ∧ (∀ f ∈ [(0x0101, 0x0001, 0), (0x0001, 0x0001, 0), (0x0406, 0x0406, 0)], let c := { wCmd f.2.1 0 0 (wP [(0, hostAddr 0)]) with stage := .accepted }; (qOf (wIn wUp 64 c) 64).cmds = [c] ∧ c.reply = none)
    ∧ (let c := { wCmd 0x0F00 0 0 0 with stage := .accepted }; entryStatus (wIn wUp 64 c) 64 c = 0x0101)
    ∧ (let c := { wCmd 0x0001 0 0 (wP [(0, hostAddr 0)]) with stage := .accepted }; entryStatus (wIn wUp 64 c) 64 c = 0 ∧ c.pblock = false)
    ∧ (let c := { wCmd 0x0001 0 2 (wP [(8, 8)]) with stage := .accepted, raw := BitVec.ofNat 512 (1 + 2 * 2 ^ 16 + 7 * 2 ^ 32 + hostAddr 0 * 2 ^ 128 + 8 * 2 ^ 192) }
       entryStatus (wIn wUp 64 c) 64 c = 0 ∧ c.pblock = true ∧ (wIn wUp 64 c).link.up = true)
    ∧ (let c := { wCmd 0x0001 0 0 0 with stage := .ready }; c.opcode = 0x0001 ∧ c.fence = 0 ∧ c.stage = .ready)
    ∧ (let c := { wCmd 0x0406 0 0 0 with stage := .ready }; let s := { wIn wUp 64 c with ev := { wUp.ev with fatal := true } }; (qOf s 64).cmds = [c] ∧ c.opcode = 0x0406 ∧ s.ev.fatal = true) := by decide +kernel

def wNearEp : Ep := { die := 41, site := 361, port := portNear, index := 0 }
def wFarEp : Ep := { die := 0x60, site := blockSite, port := portFar, index := 0 }
def wFlip (f : Nat) : State := { wDram with flips := [(wNear, f)] }

theorem test_met_DramReadsAnswerStoredWords : wDram.memoryOk
    ∧ (∀ x ∈ [(wNearEp, wNear, 16), (wFarEp, farAddr (2 ^ 21 - 512), 16), (wNearEp, wNear, 1)], let m := wMsg 2 5 x.1 x.2.1 [BitVec.ofNat 256 x.2.2]
      Admitted wDram m ∧ m.cfgm = false ∧ m.typ = 2 ∧ memHeld wDram m = false ∧ memMalformed m = false ∧ m.dst.port ≠ portHost ∧ memCount m = x.2.2
        ∧ ∀ i, i < 16 → (match wordCheck wDram (m.arg.toNat + 32 * i) m.job with | .inr p => (Tab.find? p.home wDram.flips).isNone | .inl _ => false) = true)
    ∧ (∀ f ∈ [(1, some 0), (255 * 2 ^ 280, some 0), (1 + 2 ^ 8 + 2 ^ 16, none)], let m := wMsg 2 5 wNearEp wNear [1]
      Admitted (wFlip f.1) m ∧ memHeld (wFlip f.1) m = false ∧ memMalformed m = false ∧ wordCheck (wFlip f.1) m.arg.toNat m.job = .inr (.near 41 (2 ^ 30) 16) ∧ Tab.find? (Place.near 41 (2 ^ 30) 16).home (wFlip f.1).flips = some f.1
        ∧ decodePattern f.1 = (f.2.map Decoded.corrected).getD .uncorrectable) := by
  unfold State.memoryOk Admitted; decide +kernel

theorem test_met_DramWritesStoreAndMerge : wDram.memoryOk
    ∧ (let m := wMsg 3 5 wNearEp wNear (List.replicate 16 1)
      Admitted wDram m ∧ m.cfgm = false ∧ memHeld wDram m = false ∧ memMalformed m = false ∧ m.dst.port ≠ portHost ∧ memBytes m = 0
        ∧ ((upTo 16).map (fun i => Place.near 41 (2 ^ 30 + 32 * i) 16)).length = m.data.length
        ∧ ∀ i, i < 16 → wordCheck wDram (memAddr m + 32 * i) m.job = .inr (.near 41 (2 ^ 30 + 32 * i) 16))
    ∧ (∀ a ∈ [(wNear + 2 ^ 21, 0x0221), (wNear + 2 ^ 36 * 4, 0x0220)], let m := wMsg 3 5 wNearEp a.1 [1]
      Admitted wDram m ∧ memHeld wDram m = false ∧ memMalformed m = false ∧ memBytes m = 0 ∧ wordCheck wDram (memAddr m) m.job = .inl a.2 ∧ m.src.port ≠ portStream)
    ∧ (∀ x ∈ [(31, 1), (24, 8), (0, 4)], let m := wMsg 3 5 wNearEp (wNear + x.1 + x.2 * 2 ^ 52) [7]
      Admitted wDram m ∧ m.cfgm = false ∧ memHeld wDram m = false ∧ memMalformed m = false ∧ m.dst.port ≠ portHost ∧ memBytes m = x.2
        ∧ wordCheck wDram (memAddr m) m.job = .inr (.near 41 (2 ^ 30 + x.1) 16) ∧ Tab.find? ((Place.near 41 (2 ^ 30 + x.1) 16).home / 32 * 32) wDram.flips = none) := by
  unfold State.memoryOk Admitted; decide +kernel

/-- Die 41's near stack in a thermal state since a time. -/
def wStack (n : NearState) (since : Option Nat) (now : Nat) : State := { wDram with now := now, dies := [(41, { dieInitial with goodCh := upTo 24, nearState := n, holdSince := since }), (0x60, { dieInitial with far := [(0, { st := .good, vendor := 1, refreshRate := 0 })] })] }

theorem test_met_ChannelsWarmAreLostAndAreScrubbed : isCompute 41 = true
    ∧ (∀ n ∈ [NearState.normal, .double, .throttle, .hold], (dieOf (wStack n none 1000) 41).nearState = n ∧ HearsEvents (wStack n none 1000) 41 ∧ (dieOf (wStack n none 1000) 41).holdSince = none)
    ∧ (∀ now ∈ [50000007, 50000006], let s := wStack .hold (some 7) now
      (dieOf s 41).holdSince = some 7 ∧ (dieOf s 41).nearState = .hold ∧ (dieOf s 41).fenced = false ∧ (7 + 50000000 ≤ s.now ↔ now = 50000007))
    ∧ (∀ ch ∈ [0, 23], ch < 24 ∧ (dieOf wDram 41).goodCh.contains ch = true ∧ (dieOf wDram 41).lostCh.contains ch = false)
    ∧ (isHub 0x60 = true ∧ (Tab.find? 0 (dieOf wDram 0x60).far).map FarCh.st = some .good)
    ∧ addrMalformed wNear = false ∧ placeOf wDram wNear = .near 41 (2 ^ 30) 16 ∧ wDram.memoryOk ∧ Tab.find? (nearAddr 41 (2 ^ 30 / 32 * 32)) wDram.flips = none
    ∧ (Tab.find? (nearAddr 41 (2 ^ 30 / 32 * 32)) (wFlip (2 ^ 32)).flips = some (2 ^ 32) ∧ decodePattern (2 ^ 32) = .corrected 0) := by
  unfold State.memoryOk HearsEvents; decide +kernel

/-- Events that wait at a die block; a count of one key in a period. -/
def wAt (die : Nat) (l : List Ev) : State := { wUp with ev := { wUp.ev with dies := [(die, { waiting := l, dropped := 0 })] } }
def wCount (now period count : Nat) : State :=
  { wAt 0x60 [wEv 0x0203 0 5] with now := now, ev := { (wAt 0x60 [wEv 0x0203 0 5]).ev with coalesce := [{ code := 0x0203, die := 41, ukind := 2, index := 0, period := period, count := count, last := wEv 0x0203 0 5 }] } }

theorem test_met_EventsAreHeldNumberedAndRecorded :
    (∀ n ∈ [63, 64], ∀ e ∈ [wEv 0x0203 0 5, wEv 0x0302 1 1, wEv 0x0302 1 63, wEv 0x0302 1 0, wEv 0x0302 1 64, wEv 0x0001 2 0], let s := wAt 41 (List.replicate n e)
      isDie 41 = true ∧ e.code ≠ 0 ∧ (dieOf s 41).fenced = false ∧ (eventsAt s 41).length = n)
    ∧ (∀ e ∈ [wEv 0x0203 0 5, { wEv 0x0201 1 5 with defers := true }, wEv 0x0302 1 5, wEv 0x0001 2 0], let s := { wAt 0x60 [e] with regions := [] }
      eventsAt s 0x60 = [e] ∧ e.ukind ≠ 1 ∧ e.ext = none ∧ s.ev.held = [] ∧ s.evtRing.enable = false ∧ s.ev.firstFatal = 0
        ∧ s.ev.coalesce.any (fun c => c.matches e (periodOf s.now)) = false ∧ (jobOf s 5).st = .active)
    ∧ (wCount 1999999 1000000 1).ev.coalesce.any (fun c => c.matches (wEv 0x0203 0 5) (periodOf (wCount 1999999 1000000 1).now)) = true
    ∧ (isDie 41 = true ∧ wUp.net.tableFenced.contains 41 = false ∧ (dieDistance wUp 41 0x60).isSome = true)
    ∧ (∀ x ∈ [(1999999, 1), (2000000, 1), (2000000, 0)], let s := wCount x.1 1000000 x.2
      s.ev.coalesce.length = 1 ∧ s.ev.held = [] ∧ s.evtRing.enable = false ∧ (∀ c ∈ s.ev.coalesce, c.last.ext = none ∧ c.count = x.2 ∧ (c.period < periodOf s.now ↔ x.1 = 2000000))) := by decide +kernel

theorem test_met_RegisterWritesAreTaken : wUp.ev.held = []
    ∧ (∀ v ∈ [2 ^ 63, 2 ^ 63 + 12], v % 16 ≤ 12 ∧ bit v 63 = true ∧ wUp.evtRing.enable = false) ∧ (12 % 16 ≤ 12 ∧ bit 12 63 = false ∧ ({ wUp with evtRing := { wUp.evtRing with enable := true } } : State).evtRing.enable = true)
    ∧ 12 < 13 % 16 ∧ 65535 < 65536 ∧ (5 ≠ 4 ∧ 5 ≠ 8) ∧ 4 % 8 ≠ 0 ∧ (2 ^ 64 - 1 < 2 ^ 64 ∧ 2 ^ 32 - 1 < 2 ^ 32 ∧ wUp.evtRing.base < 2 ^ 52) := by decide +kernel

/-- A load that stages frames, die 41 enrolled; the configuration port of a die block. -/
def wLoad : Load :=
  { q := 64, cseq := 7, job := 5, id := 3, addr := hostAddr 0x1000000, size := 65536, dryrun := false, phase := .check, image := [], readTo := 65536, version := 1, expectEpoch := 0, sigs := [], resent := [], aborted := false
    parts := [], rollback := false, written := false }
def wStaging : State := { wUp with cfg := { wUp.cfg with load := some wLoad, dies := [(41, { enrolled := true, frames := 65535, fsum := 0, taken := [] })] } }
def wCfg (die : Nat) : Ep := { die := die, site := blockSite, port := portConfig, index := 0 }

theorem test_met_RoutesAndConfigurationAreServed :
    (isCompute 41 = true ∧ 479 < 480 ∧ wUp.net.holes.contains (siteKey 41 479) = false ∧ (dieOf wUp 41).fenced = false ∧ (eventsAt wUp 41).length + (grainJobs (grOf wUp 41 479)).length + 3 < 64)
    ∧ ({ wUp.net with rewriteDue := some 5 } : Net).rewriteDue = some 5
    ∧ (∀ x ∈ [(tileEp 41 49 0, 0x208), (tileEp 41 blockSite 0, 0x208)], ∀ w ∈ [0, 1], let m := wMsg 0x0A 0 (if x.1.site = blockSite then wCfg 41 else x.1) (x.2 + 8 * 2 ^ 32 + w * 2 ^ 40) [BitVec.ofNat 256 (2 ^ 63)]
      Admitted wUp m ∧ m.cfgm = false ∧ m.dst.port ≠ portHost ∧ winExists m.dst.die m.dst.site = true ∧ bits m.arg.toNat 39 32 = 8 ∧ m.arg.toNat % 2 ^ 32 % 8 = 0 ∧ (bit m.arg.toNat 40 = true ↔ w = 1) ∧ bit (m.data.headD 0).toNat 63 = true)
    ∧ (∀ d ∈ [41, 0x7F], let m := wMsg 9 0 (wCfg 41) (d + 23 * 2 ^ 8 + 65535 * 2 ^ 16 + 3 * 2 ^ 32) (List.replicate 32 0)
      Admitted wStaging m ∧ m.cfgm = false ∧ m.dst.port = portConfig ∧ (stageOf wStaging 41).enrolled = true ∧ wStaging.cfg.load.isSome = true ∧ bits m.arg.toNat 47 32 = loadTag wStaging ∧ fld m.arg.toNat 0 1 = d)
    ∧ (stageOf wUp 41).enrolled = false
    ∧ (let s := { wUp with regions := [], jobs := [(5, wJob)] }; s.regions = [] ∧ s.jobs = [(5, wJob)] ∧ wJob.st = .active ∧ wJob.activeFrom ≤ s.now) := by
  unfold Admitted; decide +kernel

theorem test_met_RecordCommandsWriteTheirRecords :
    (∀ q ∈ [5, 64], ∀ x ∈ [(0x0001, 64), (0x0103, 64)], let c := wCmd x.1 5 0 (wP [(0, hostAddr (0x2000000 - x.2))]); Started (wIn wUp q c) q 7 x.1 c ∧ RecordAt (wIn wUp q c) q (c.p 0 8) x.2)
    ∧ (let c := wCmd 0x0002 5 0 (wP [(0, hostAddr 0x1000000), (8, 18752)]); Started (wIn wUp 5 c) 5 7 0x0002 c ∧ 18752 ≤ c.p 8 4 ∧ RecordAt (wIn wUp 5 c) 5 (c.p 0 8) 18752)
    ∧ (let c := wCmd 0x0002 5 0 (wP [(8, 18751)]); Started (wIn wUp 5 c) 5 7 0x0002 c ∧ c.p 8 4 < 18752)
    ∧ (let c := wCmd 0x020B 5 0 (wP [(0, hostAddr 0x1000000)]); Started (wIn wUp 5 c) 5 7 0x020B c ∧ RecordAt (wIn wUp 5 c) 5 (c.p 0 8) (80 + 2 * (jobRegions (wIn wUp 5 c) c.job).length))
    ∧ (let c := wCmd 0x0405 5 0 (wP [(2, 4096), (8, hostAddr 0x1000000)]); let s := wIn wUp 5 c
       Started s 5 7 0x0405 c ∧ c.p 2 2 ≤ 4096 ∧ c.p 4 4 = 0 ∧ ∃ e, rankEp s c.job (c.p 0 2) = some e ∧ e.port = portKettle ∧ ((ktOf s e.die).kettle e.index).owner = some c.job ∧ (dieOf s e.die).fenced = false
         ∧ RecordAt s 5 (c.p 8 8) (inspectBytes s c.job e (c.p 2 2)).length) := by
  unfold Started RecordAt
  refine ⟨by decide +kernel, by decide +kernel, by decide +kernel, by decide +kernel, by decide +kernel, by decide +kernel, by decide +kernel, { die := 41, site := 0x3FF, port := portKettle, index := 0 }, by decide +kernel, rfl, by decide +kernel, by decide +kernel, by decide +kernel⟩

/-- Job 5 in a state, with regions; a capture of n bytes. -/
def wCapture (n : Nat) (q : Nat) (c : HCmd) : State := { wIn wUp q c with regions := [], jobs := [(5, { wJob with st := .captured, captureData := List.replicate n 0, captureAddr := hostAddr 0x1000000 })] }

theorem test_met_WindowsAndRingsAreSet :
    (∀ p ∈ [(wP [(1, 3), (8, 0x1000000), (16, 0x1000000)], true), (wP [(1, 3), (8, 0x1001000), (16, 0x1000000)], false), (wP [(0, 15), (8, 2 ^ 52 - 4096), (16, 4096)], true), (wP [], false), (wP [(0, 15)], true)],
      let c := wCmd 0x0003 5 0 p.1; let s := wIn wUp 64 c
      Started s 64 7 0x0003 c ∧ c.p 0 1 < 16 ∧ c.p 1 1 < 4 ∧ c.p 2 6 = 0 ∧ c.job ≠ 0 ∧ c.p 8 8 % 4096 = 0 ∧ c.p 16 8 % 4096 = 0 ∧ c.p 8 8 + c.p 16 8 ≤ 2 ^ 52 ∧ (jobOf s c.job).st = .active
        ∧ windowWidens (Tab.find? (c.p 0 1) (jobOf s c.job).windows) (hostAddr (c.p 8 8)) (c.p 16 8) (c.p 1 1) = p.2)
    ∧ (∀ p ∈ [wP [(0, hostAddr 64), (8, 1), (10, 2047)], wP [(0, hostAddr 0), (8, 256), (10, 0xFFFF)]], let c := wCmd 0x0501 0 0 p
      Started (wIn wUp 64 c) 64 7 0x0501 c ∧ 1 ≤ c.p 8 2 ∧ c.p 8 2 ≤ 256 ∧ (c.p 10 2 < 2048 ∨ c.p 10 2 = 0xFFFF) ∧ c.p 0 8 % 64 = 0 ∧ spaceOf (c.p 0 8) = 8 ∧ addrMalformed (c.p 0 8) = false)
    ∧ (∀ n ∈ [0, 257], let c := wCmd 0x0501 0 0 (wP [(8, n)]); Started (wIn wUp 64 c) 64 7 0x0501 c ∧ (c.p 8 2 = 0 ∨ 256 < c.p 8 2))
    ∧ (∀ op ∈ [0x0502, 0x0406], let c := wCmd op 0 0 0; Started (wIn wUp 64 c) 64 7 op c)
    ∧ (let c := { wCmd 0x0406 0 0 0 with stage := .ready }; (qOf (wIn wUp 64 c) 64).cmd? 7 = some c ∧ c.stage = .ready) := by
  unfold Started; decide +kernel

theorem test_met_JobsAreCreatedAndEnded :
    (∀ j ∈ [63, 5], ∀ p ∈ [wP [(0, 1)], wP [(0, 65536), (4, 7), (8, hostAddr (2 ^ 52 - 2 ^ 40)), (16, 2 ^ 40)], wP [(0, 8), (4, 1), (8, hostAddr 64), (16, 4096)]], let c := wCmd 0x0201 j 0 p
      Started (wIn wUp 64 c) 64 7 0x0201 c ∧ 1 ≤ c.job ∧ c.job ≤ 63 ∧ 1 ≤ c.p 0 4 ∧ c.p 0 4 ≤ 65536 ∧ c.p 4 1 < 8 ∧ c.p 5 3 = 0 ∧ (bit (c.p 4 1) 1 = true → bit (c.p 4 1) 0 = true)
        ∧ (bit (c.p 4 1) 0 = false → c.p 8 8 = 0 ∧ c.p 16 8 = 0)
        ∧ (bit (c.p 4 1) 0 = true → c.p 16 8 % 4096 = 0 ∧ 4096 ≤ c.p 16 8 ∧ c.p 16 8 ≤ 2 ^ 40 ∧ c.p 8 8 % 64 = 0 ∧ spaceOf (c.p 8 8) = 8 ∧ addrMalformed (c.p 8 8) = false ∧ addrMalformed (c.p 8 8 + c.p 16 8 - 1) = false)
        ∧ ((jobOf (wIn wUp 64 c) c.job).st = .free ↔ j = 63))
    ∧ (∀ st ∈ [JState.active, .free], let c := wCmd 0x0202 5 0 0; let s := wJobIn st [] 64 c
      Started s 64 7 0x0202 c ∧ c.stage = .started ∧ 1 ≤ c.job ∧ c.job ≤ 63 ∧ s.pair.mirror = none ∧ s.cfg.load = none ∧ (jobOf s c.job).st = st ∧ jobRegions s c.job = [] ∧ (jobOf s c.job).cmd = none
        ∧ releasesDue s (fun _ job => job == c.job) = false)
    ∧ (let c := wCmd 0x0203 5 0 0; let s := wIn wUp 64 c; Started s 64 7 0x0203 c ∧ c.stage = .started ∧ (jobOf s c.job).st = .active ∧ (∀ e ∈ s.regions, e.2.job = c.job → e.2.st ≠ .parted) ∧ s.pair.mirror = none ∧ s.cfg.load = none)
    ∧ (let c := { wCmd 0x0203 5 0 0 with stage := .working }; let s := wJobIn .suspending [] 64 c; Started s 64 7 0x0203 c ∧ c.stage = .working ∧ (jobOf s c.job).st = .suspending ∧ jobRegions s c.job = [])
    ∧ (let c := wCmd 0x0203 63 0 0; Started (wIn wUp 64 c) 64 7 0x0203 c ∧ (jobOf (wIn wUp 64 c) c.job).st = .free)
    ∧ (∀ rs ∈ [[], wSt .suspended], let c := wCmd 0x0204 5 0 0; let s := wJobIn .suspended rs 64 c; Started s 64 7 0x0204 c ∧ (jobOf s c.job).st = .suspended ∧ resumeRefusal s c.job = none ∧ (jobRegions s c.job = [] ↔ rs = []))
    ∧ (∀ rs ∈ [[], wSt .running], let c := { wCmd 0x0204 5 0 0 with stage := .working }; let s := wJobIn .resuming rs 64 c; Started s 64 7 0x0204 c ∧ c.stage = .working ∧ (jobOf s c.job).st = .resuming ∧ resumed s c.job = true) := by
  unfold Started
  refine ⟨by decide +kernel, by decide +kernel, by decide +kernel, by decide +kernel, by decide +kernel, by decide +kernel, by decide +kernel⟩

theorem test_met_CapturesAndRequestCommandsAreServed :
    (∀ n ∈ [64, 65], let c := wCmd 0x020C 5 0 0; let s := wCapture n 64 c
      (jobOf s 5).st = .captured ∧ s.link.up = true ∧ s.host.writes = [] ∧ ((jobOf s 5).captureData.length ≤ 64 ↔ n = 64) ∧ Started s 64 7 0x020C c ∧ c.job ≠ 0)
    ∧ ((jobOf wUp 5).st ≠ .captured ∧ (let c := wCmd 0x020C 5 0 0; Started (wIn wUp 64 c) 64 7 0x020C c ∧ (jobOf (wIn wUp 64 c) c.job).st ≠ .captured))
    ∧ (∀ x ∈ [(0x0401, 1, 1), (0x0401, 0, 2 ^ 32 - 1), (0x0402, 0, 0), (0x0402, 0, 2 ^ 31 - 1), (0x0403, 0, 1), (0x0404, 0, 2 ^ 31 - 1)], let c := wCmd x.1 5 0 (wP [(2, x.2.1), (4, x.2.2)]); let s := wIn wUp 5 c
      c.stage = .started ∧ IdFree s (hostEp 5) ∧ Started s 5 7 x.1 c ∧ (rankEp s c.job (c.p 0 2)).map Ep.port = some portKettle ∧ c.p 3 1 = 0 ∧ c.p 2 1 = x.2.1 ∧ c.p 4 4 = x.2.2)
    ∧ (let c := { wCmd 0x0301 5 2 0 with params := leBytes 192 1 }; let s := wIn wUp 5 c; Started s 5 7 0x0301 c ∧ IdFree s (hostEp 5) ∧ c.p 2 30 = 0 ∧ (rankEp s c.job (c.p 0 2)).map Ep.port = some portStream)
    ∧ (∀ op ∈ [0x0401, 0x0301], let c := wCmd op 5 0 (wP [(0, 5)]); let s := wIn wUp 5 c; Started s 5 7 op c ∧ rankEp s c.job (c.p 0 2) = none ∧ c.p 2 1 ≤ 1 ∧ c.p 3 1 = 0 ∧ c.p 2 30 = 0) := by
  unfold Started IdFree
  refine ⟨by decide +kernel, by decide +kernel, by decide +kernel, by decide +kernel, by decide +kernel⟩

theorem test_met_RegionsAndPagesAreAllocated_1 :
    (∀ x ∈ [(wP [(1, 41), (2, 8), (3, 23)], true), (wP [(1, 41), (2, 7), (3, 7)], false)], let c := wCmd 0x0205 5 0 x.1; let s := wIn wUp 64 c
      Started s 64 7 0x0205 c ∧ allocAdmits s 64 c = true ∧ (jobOf s c.job).st = .active
        ∧ ∃ b ∈ [Bounds.columns 41 8 23, .columns 41 7 7], allocBounds c = some b ∧ (b.usable s).isEmpty = false ∧ boundsFree s b = x.2)
    ∧ (let b : Bounds := .columns 41 8 23; (b.usable wUp).all (rankStoreFits wUp 5) = true ∧ freeRegion wUp = some 2)
    ∧ (∀ st ∈ [RState.suspended, .blank, .running, .parted, .faulted], let c := wCmd 0x0206 5 0 (wP [(0, 1)]); let s := { wIn wUp 64 c with regions := wSt st }
      Started s 64 7 0x0206 c ∧ c.stage = .started ∧ (Tab.find? (c.p 0 2) s.regions).map Region.st = some st ∧ (Tab.find? (c.p 0 2) s.regions).map Region.job = some c.job ∧ allocAdmits s 64 c = true ∧ (jobOf s c.job).st = .active) := by
  unfold Started; refine ⟨by decide +kernel, by decide +kernel, by decide +kernel⟩

theorem test_met_RegionsAndPagesAreAllocated_2 : (scanAreasFor wUp (.columns 41 8 23)).isSome = true := by decide +kernel

/-- A job with one allocation; a far-only package; a page being zeroed. -/
def wAlloc : Alloc := { base := wNear, space := 0, die := 41, pages := 1 }
def wHolding (q : Nat) (c : HCmd) : State := { wIn wDram q c with jobs := [(5, { wJob with allocs := [wAlloc] })] }
def wZeroing (z u : Bool) : State := { wDram with pages := [(41 * 2 ^ 15 + 512, { wOwned with st := .system, zeroing := z, uncorr := u })] }

theorem findRun_of_none_free (free : Nat → Bool) (count : Nat) (h : ∀ p, free p = false) : ∀ f pos run, findRun free count f pos run = none := by
  intro f
  induction f with
  | zero => intros; rfl
  | succ n ih => intro pos run; simp [findRun, h, ih]

theorem findAlloc_of_no_die (s : State) (die pages : Nat) (h : s.goodDies = []) : findAlloc s 1 die pages = none := by
  have e : ∀ l : List Nat, l = [] → (findRun (fun p => decide (512 ≤ p) && decide (0 < l.length) && decide ((p - 511) * 512 ≤ ilGranules s) && l.all (fun d => pageFree s (d * 2 ^ 15 + p))) pages 32768 0 0) = none := by
    intro l hl
    subst hl
    exact findRun_of_none_free _ _ (by intro p; simp) _ _ _
  simp only [findAlloc]
  rw [e _ h]
  rfl

theorem test_met_RegionsAndPagesAreAllocated_3 :
    (∀ x ∈ [(wP [(0, 0), (1, 41), (4, 1)], true), (wP [(0, 1), (4, 2097152)], false)], let c := wCmd 0x0207 5 0 x.1; let s := { wIn wDram 64 c with goodDies := if x.2 then [41] else [] }
      Started s 64 7 0x0207 c ∧ c.p 0 1 ≤ 2 ∧ (c.p 0 1 = 0 → isCompute (c.p 1 1) = true ∧ (dieOf s (c.p 1 1)).fenced = false) ∧ (c.p 0 1 ≠ 0 → c.p 1 1 = 0) ∧ c.p 2 1 ≤ 1 ∧ c.p 3 1 = 0 ∧ 1 ≤ c.p 4 4 ∧ c.p 4 4 ≤ 2097152
        ∧ allocAdmits s 64 c = true ∧ (jobOf s c.job).st = .active)
    ∧ (findAlloc wDram 0 41 1).isSome = true ∧ findAlloc { wDram with goodDies := [] } 1 0 2097152 = none
    ∧ (∀ x ∈ [(wNear, true), (wNear + 2 ^ 21, false)], let c := wCmd 0x0208 5 0 (wP [(0, x.1)]); let s := wHolding 64 c
      Started s 64 7 0x0208 c ∧ allocAdmits s 64 c = true ∧ (jobOf s c.job).st = .active ∧ (jobOf s c.job).allocs.find? (fun a => a.base == c.p 0 8) = (if x.2 then some wAlloc else none) ∧ streamUses s c.job wAlloc.base (wAlloc.bytes s) = false)
    ∧ (∀ z ∈ [true, false], ∀ u ∈ [true, false], (wZeroing z u).memoryOk ∧ (pageOf (wZeroing z u) (41 * 2 ^ 15 + 512)).zeroing = z) := by
  unfold Started State.memoryOk; refine ⟨by decide +kernel, by decide +kernel, ?_, by decide +kernel, by decide +kernel⟩
  exact findAlloc_of_no_die _ _ _ rfl

theorem test_met_KettlesTasksAndTimedRegions :
    (∀ x ∈ [(1, 1), (1024, 0)], let c := wCmd 0x0209 5 0 (wP [(0, if x.2 = 1 then 41 else 99), (2, x.1)]); let s := wIn wUp 64 c
      Started s 64 7 0x0209 c ∧ isDie (c.p 0 1) = true ∧ c.p 1 1 = 0 ∧ 1 ≤ c.p 2 2 ∧ c.p 2 2 ≤ 8192 ∧ allocAdmits s 64 c = true ∧ (jobOf s c.job).st = .active ∧ (dieOf s (c.p 0 1)).fenced = false
        ∧ findRun (fun k => ((ktOf s (c.p 0 1)).kettle k).owner.isNone) (c.p 2 2) (kettleCount (c.p 0 1)) 0 0 = some x.2)
    ∧ (let c := wCmd 0x020A 5 0 (wP [(0, 41), (4, 1)]); let s := wIn wUp 64 c
       Started s 64 7 0x020A c ∧ isDie (c.p 0 1) = true ∧ c.p 1 1 = 0 ∧ 1 ≤ c.p 4 2 ∧ c.p 2 2 + c.p 4 2 ≤ kettleCount (c.p 0 1) ∧ allocAdmits s 64 c = true ∧ (jobOf s c.job).st = .active
        ∧ (∀ k, k < c.p 2 2 + c.p 4 2 → c.p 2 2 ≤ k → ((ktOf s (c.p 0 1)).kettle k).owner = some c.job) ∧ (ktOf s (c.p 0 1)).waiters = [])
    ∧ (let w : Waiter := { slot := 0, kettle := 0, observe := false, demand := 9, src := coreEp 41 0, issuer := 0, job := 5, opnum := 0, time := 0 }
       let s := { wUp with kettles := [(41, { kettleUnitInitial with kettles := [(0, { kettleInitial with owner := some 5 })], waiters := [w] })] }
       ((ktOf s 41).kettle 0).owner = some 5 ∧ ∃ w ∈ (ktOf s 41).waiters, 0 ≤ w.kettle ∧ w.kettle < 0 + 1)
    ∧ (∀ task ∈ [0, 65535], let c := wCmd 0x0302 5 0 task; Started (wIn wUp 5 c) 5 7 0x0302 c ∧ (c.p 0 2 = 0 ↔ task = 0) ∧ (wIn wUp 5 c).engines = [])
    ∧ (let s := { wUp with engines := [(siteKey 41 49, { engineInitial with slots := [(0, { wStrm (2 ^ 64) with outst := [{ id := 1, first := 0, count := 1, rev := false }] })] })] }; taskGone (cancelTask s 5 1) 5 1 = false)
    ∧ (let c := wCmd 0x0214 5 0 (wP [(0, 1), (6, 1), (8, hostAddr 0x1FFFFE0)]); let s := { wIn wUp 5 c with regions := [(1, { wRegion with sig := some wSig })] }
       Started s 5 7 0x0214 c ∧ Tab.find? (c.p 0 2) s.regions = some { wRegion with sig := some wSig } ∧ c.p 6 2 ≠ 0 ∧ wRegion.job = c.job ∧ (jobOf s c.job).st = .active ∧ bit wSig.mflags 0 = true
        ∧ kettleRank s c.job (c.p 2 2) = none ∧ kettleRank s c.job (c.p 4 2) = none ∧ slotsReach s c.job (c.p 8 8) (c.p 6 2) 32 = none) := by
  unfold Started; refine ⟨by decide +kernel, by decide +kernel, by decide +kernel, by decide +kernel, by decide +kernel, by decide +kernel⟩

/-- A load of job 5 whose command waits on queue 64, in a phase; the spine's checks rest on free values, so no witness can fix their success. -/
def wLoading (l : Load) : State := { wIn wUp 64 { wCmd 0x0101 5 0 0 with stage := .working } with cfg := { wUp.cfg with load := some l } }
def wLoad0 : Load :=
  { q := 64, cseq := 7, job := 5, id := 3, addr := hostAddr 0x1000000, size := 65536, dryrun := false, phase := .check, image := [], readTo := 65536, version := 1, expectEpoch := 0, sigs := [], resent := [], aborted := false
    parts := [], rollback := false, written := false }

theorem test_met_LoadsBeginAndPassTheirPhases :
    (∀ x ∈ [(hostAddr 0x1FFFEE0, 288, 5), (hostAddr 0x1FFFEE1, 288, 5), (hostAddr 0, 2 ^ 34, 0)], let c := wCmd 0x0101 x.2.2 0 (wP [(0, x.1), (8, x.2.1), (16, 1)]); let s := wIn wUp 64 c
      c.stage = .started ∧ Started s 64 7 0x0101 c ∧ 288 ≤ c.p 8 8 ∧ c.p 8 8 ≤ 2 ^ 34 ∧ c.p 16 4 ≤ 1 ∧ c.p 20 4 = 0 ∧ (c.p 0 8 % 32 ≠ 0 ↔ x.1 = hostAddr 0x1FFFEE1)
        ∧ addrMalformed (c.p 0 8) = false ∧ addrMalformed (c.p 0 8 + c.p 8 8 - 1) = false ∧ spaceOf (c.p 0 8 + c.p 8 8 - 1) = spaceOf (c.p 0 8) ∧ spaceOf (c.p 0 8) = 8
        ∧ (c.p 0 8 % 32 = 0 → windowHolds s c.job (c.p 0 8) (c.p 8 8) false = true) ∧ (jobOf s c.job).st = .active)
    ∧ (spaceOf wNear ≤ 2 ∧ rangeOwned wDram 5 wNear 8192 = true)
    ∧ (∀ x ∈ [(none, 0), (some 0, 1), (some 0, 0)], let c := wCmd 0x0102 0 0 (wP [(0, x.2)]); let s := { wIn wUp 64 c with cfg := { wUp.cfg with prevEpoch := x.1, prevSigs := [(1, none)] } }
      Started s 64 7 0x0102 c ∧ (s.cfg.prevEpoch = none ↔ x.1 = none) ∧ (c.p 0 8 = s.cfg.epoch ↔ x.2 = 0) ∧ (∀ e ∈ s.cfg.prevSigs, ∀ r ∈ s.regions, e.1 = r.1 → r.2.st ≠ .suspended ∧ r.2.st ≠ .parted))
    ∧ (∀ l ∈ [{ wLoad0 with phase := .verify }, { wLoad0 with phase := .verify, readTo := 0 }, { wLoad0 with phase := .stage }, wLoad0, { wLoad0 with dryrun := true }], let s := wLoading l
      s.cfg.load = some l ∧ l.aborted = false ∧ l.q ≤ 64 ∧ ((qOf s l.q).cmd? l.cseq).map HCmd.reply = some none)
    ∧ (let l := { wLoad0 with phase := .verify }; spineCheck (wLoading l) l.job l.size (l.bytes 0 64) = some 0x0701) ∧ (spaceOf wLoad0.addr = 8 ∧ (wLoading wLoad0).host.reads = [])
    ∧ (let l := { wLoad0 with phase := .stage }; parseSigs (wLoading l) l (spineSigs l) = .inr [] ∧ l.size ≤ l.readTo)
    ∧ (framesMoving (wLoading wLoad0) = false ∧ loadDies (wLoading wLoad0) wLoad0.sigs = [] ∧ checkParts (wLoading wLoad0) wLoad0.given = none)
    ∧ (let l := { wLoad0 with resent := [41], sigs := [wSig], parts := [(1, some wSig)] }; let s := { wLoading l with cfg := { wUp.cfg with load := some l, dies := [(41, { enrolled := true, frames := 1, fsum := 0, taken := [] })] } }
       framesMoving s = false ∧ (∃ d ∈ l.resent, (dieOf s d).fenced = false ∧ delivered s l.sigs d = false) ∧ checkParts { s with dies := [(41, { dieInitial with badCores := [31] })] } [{ region := 1, job := 5, sig := { wSig with assigns := [(0x7F, 2 ^ 31)] } }] = some 0x0704) := by
  unfold Started; refine ⟨by decide +kernel, by decide +kernel, by decide +kernel, by decide +kernel, by decide +kernel, by decide +kernel, by decide +kernel, by decide +kernel, by decide +kernel⟩

theorem test_met_CommitsAndStartsWriteTheirRegions :
    (∀ l ∈ [{ wLoad0 with phase := .commit, aborted := true }, { wLoad0 with phase := .commit }], let s := wLoading l
      s.cfg.load = some l ∧ commitCheck s l = (if l.aborted then some 0x0705 else none) ∧ l.q ≤ 64 ∧ ((qOf s l.q).cmd? l.cseq).map HCmd.reply = some none)
    ∧ (let l := { wLoad0 with phase := .parting, parts := [(1, none)] }; let s := { wLoading l with regions := wSt .parted }
       l.written = false ∧ (l.parts.map (·.1)).Nodup ∧ (∀ p ∈ l.parts, (Tab.find? p.1 s.regions).isSome = true) ∧ (partStep s (l.parts.map (·.1)) false).2 = true)
    ∧ (∀ b ∈ [true, false], let l := { wLoad0 with phase := .parting, written := true, parts := [(1, none)] }
       let s := { wLoading l with regions := wSt .parted, net := if b then wUp.net else { wUp.net with nis := [(siteKey 0x60 blockSite, { niInitial with out := [wOut { wMsg 4 5 (kettleEp 41 0) 0 [] with src := configEp 0x60 } .sent none] })] } }
       s.cfg.load = some l ∧ initsDone s = b ∧ ∀ r ∈ Tab.find? 1 s.regions, r.st = .parted ∧ r.startAt = none)
    ∧ (∀ x ∈ [(1001, none), (1000, none), (1000, some wSig)], let r := { wRegion with st := .parted, startAt := some x.1, sig := x.2 }; let s := { wUp with regions := [(1, r)] }
      Tab.find? 1 s.regions = some r ∧ r.startAt = some x.1 ∧ r.st = .parted ∧ r.scan = none ∧ s.cfg.load = none ∧ (s.now < x.1 ↔ x.1 = 1001)) := by
  refine ⟨by decide +kernel, by decide +kernel, by decide +kernel, by decide +kernel⟩

/-- Die 41's sequence-table unit, served by region 1, with pages for one slot and a fetch window. -/
def wServing (u : SeqUnit) (q : Nat) (c : HCmd) : State :=
  { wIn wDram q c with regions := [(1, { wRegion with sig := some wServeSig })], seqs := [(41, { u with region := 1 })]
                       sTiles := [(siteKey 41 49, { sTileInitial with ranges := [{ kind := 1, readers := 1, init := 0, base := 0, count := 32 }] })] }
def wServeCfg : SeqUnit := { seqUnitInitial with cfg := some (BitVec.ofNat 512 (wP [(6, 1), (24, 2 ^ 21), (34, 9)])) }
def wServeBlob : Nat := wP [(0, 1), (6, 1), (8, 1), (16, wNear), (24, 2 ^ 21), (32, 1), (34, 9), (38, 1), (44, 32)]

theorem test_met_TheModelRegistryIsServed_1 :
    (∀ x ∈ [(hostAddr 0x1FFFFE0, 32, none), (wNear, 2 ^ 21, none), (wNear, 32, some { source := 0, bytes := 32, pin := false })], let c := wCmd 0x0211 5 0 (wP [(0, 1), (2, 255), (3, 1), (8, x.1), (16, x.2.1)])
      let s := wServing { wServeCfg with models := match x.2.2 with | some m => [(255, m)] | none => [] } 5 c
      servingDie s c.job (c.p 0 2) = .inr 41 ∧ Started s 5 7 0x0211 c ∧ c.p 3 1 ≤ 1 ∧ c.p 4 4 = 0 ∧ 32 ≤ c.p 16 8 ∧ c.p 16 8 % 32 = 0 ∧ (seqOf s 41).cfg.isSome = true ∧ bit (servedBy s (seqOf s 41)).2 2 = false ∧ c.p 2 1 ≠ 0
        ∧ c.p 16 8 ≤ (seqOf s 41).c 24 8 ∧ c.p 8 8 % 32 = 0 ∧ addrMalformed (c.p 8 8) = false ∧ addrMalformed (c.p 8 8 + c.p 16 8 - 1) = false ∧ spaceOf (c.p 8 8 + c.p 16 8 - 1) = spaceOf (c.p 8 8)
        ∧ ((spaceOf (c.p 8 8) = 8 ∧ windowHolds s c.job (c.p 8 8) (c.p 16 8) false = true) ∨ (spaceOf (c.p 8 8) ≤ 2 ∧ rangeOwned s c.job (c.p 8 8) (c.p 16 8) = true)) ∧ Tab.find? (c.p 2 1) (seqOf s 41).models = x.2.2)
    ∧ (∀ x ∈ [(0x0213, 0), (0x0213, 1), (0x0212, 0)], let c := wCmd x.1 5 0 (wP [(0, 1), (2, 255), (3, x.2)]); let s := wServing { wServeCfg with models := [(255, { source := 0, bytes := 32, pin := false })] } 5 c
      servingDie s c.job (c.p 0 2) = .inr 41 ∧ Started s 5 7 x.1 c ∧ c.p 3 1 ≤ 1 ∧ (Tab.find? (c.p 2 1) (seqOf s 41).models).isSome = true ∧ bit (servedBy s (seqOf s 41)).2 2 = false ∧ (seqOf s 41).slotOf (c.p 2 1) = none
        ∧ (seqOf s 41).table = [] ∧ (seqOf s 41).fetch = none) := by
  unfold Started; refine ⟨by decide +kernel, by decide +kernel⟩

theorem test_met_TheModelRegistryIsServed_2 :
    (∀ tab ∈ [[], [(0, (1 : BitVec 512))]], let c := { wCmd 0x0210 5 2 0 with params := leBytes 64 wServeBlob }; let s := wServing { seqUnitInitial with table := tab } 5 c
      servingDie s c.job (c.p 0 2) = .inr 41 ∧ Started s 5 7 0x0210 c ∧ 1 ≤ c.p 6 2 ∧ c.p 6 2 ≤ 4096 ∧ 1 ≤ c.p 8 4 ∧ c.p 8 4 ≤ 2 ^ 24 ∧ c.p 24 8 ≠ 0 ∧ c.p 24 8 % 2 ^ 21 = 0 ∧ 1 ≤ c.p 32 1 ∧ c.p 32 1 ≤ 32 ∧ c.p 33 1 = 0 ∧ c.p 34 2 ≠ 0
        ∧ 32 ≤ c.p 44 4 ∧ c.p 44 4 ≤ 65536 ∧ c.p 48 16 = 0)
    ∧ (let c := { wCmd 0x0210 5 2 0 with params := leBytes 64 wServeBlob }; let s := wServing seqUnitInitial 5 c
      c.p 12 4 % 32 = 0 ∧ inWindow (jobWindows s 41 0xFFFF c.job) (c.p 12 4) (64 * (c.p 6 2 + 1)) 2 = true ∧ c.p 16 8 % 2 ^ 21 = 0 ∧ addrMalformed (c.p 16 8) = false ∧ spaceOf (c.p 16 8) ≤ 1
        ∧ rangeOwned s c.job (c.p 16 8) (c.p 32 1 * c.p 24 8) = true ∧ kettleRank s c.job (c.p 2 2) = none ∧ kettleRank s c.job (c.p 4 2) = none ∧ kettleRank s c.job (c.p 36 2) = none
        ∧ fetchSite s c.job (c.p 0 2) (c.p 38 2) = some (41, 49) ∧ fetchWindowOk s 41 49 (c.p 40 4) (c.p 44 4) = true ∧ seqSending s 41 = false)
    ∧ (∀ x ∈ [(false, false), (false, true), (true, false)], let s := wServing { wServeCfg with waiting := x.1, released := x.2 } 5 (wCmd 0 0 0 0)
      isDie 41 = true ∧ servedRuns s (seqOf s 41) = true ∧ (seqOf s 41).cfg.isSome = true ∧ (seqOf s 41).waiting = x.1 ∧ (seqOf s 41).released = x.2 ∧ s.memoryOk)
    ∧ (∀ left ∈ [true, false], let s := { wServing { wServeCfg with fetch := some { handle := 255, slot := 0, step := 1 } } 5 (wCmd 0 0 0 0) with engines := if left then [(siteKey 41 49, { engineInitial with queue := [wStrm (9 * 2 ^ 64)] })] else [] }
      servedRuns s (seqOf s 41) = true ∧ (seqOf s 41).fetch = some { handle := 255, slot := 0, step := 1 } ∧ taskLeft s (servedBy s (seqOf s 41)).1 ((seqOf s 41).c 34 2) = left) := by
  unfold Started State.memoryOk; refine ⟨by decide +kernel, by decide +kernel, by decide +kernel, by decide +kernel⟩

/-- A pair with a mirror of job 5, whose allocation and area are pages 512 and 513 of die 41. -/
def wMirror : Mirror :=
  { job := 5, ring := hostAddr 0, slots := 2, consumedAddr := 0x1000000, area := wNear + 2 ^ 21, bases := [wNear], mseq := 3, ckpt := 1, consumed := 0, queue := [], sub := 0, waitFrom := none, stalled := false, stopping := false, ckptOpen := none }
def wPair (role : Nat) (m : Option Mirror) (q : Nat) (c : HCmd) : State :=
  { wIn wDram q c with jobs := [(0, { jobInitial with st := .active }), (5, { wJob with allocs := [wAlloc] })], pages := [(41 * 2 ^ 15 + 512, wOwned), (41 * 2 ^ 15 + 513, wOwned)], regions := []
                       pair := { wUp.pair with role := role, pairId := 6, mirror := m } }
/-- A record header with a number, its check value right or wrong. -/
def wRecord (mtype mseq crc : Nat) : List Byte :=
  let h := leBytes 56 (wP [(0, 0x4D524B48), (4, mtype), (5, 5), (8, mseq), (16, 6)])
  h ++ leBytes 4 (crc32 h + crc) ++ leBytes 4 0

theorem test_met_MirrorsAndCheckpointsAreKept_1 :
    (∀ x ∈ [(0, 0, none), (2, 2 ^ 64 - 1, none), (1, 1, some wMirror), (3, 1, none), (1, 0, none)], let c := wCmd 0x0601 0 0 (wP [(0, x.1), (8, x.2.1)]); let s := wPair 0 x.2.2 64 c
      Started s 64 7 0x0601 c ∧ c.p 1 7 = 0 ∧ s.pair.mirror = x.2.2 ∧ (c.p 0 1 ≤ 2 ∧ (c.p 0 1 ≠ 0 → c.p 8 8 ≠ 0) ∨ 2 < c.p 0 1 ∨ (c.p 0 1 ≠ 0 ∧ c.p 8 8 = 0)))
    ∧ (∀ role ∈ [0, 1], let c := wCmd 0x0602 5 0 (wP [(0, hostAddr 64), (8, 65536), (16, hostAddr 0), (24, wNear + 2 ^ 21), (32, 1), (40, wNear)]); let s := wPair role none 5 c
      Started s 5 7 0x0602 c ∧ 1 ≤ c.job ∧ c.job ≤ 63 ∧ 2 ≤ c.p 8 4 ∧ c.p 8 4 ≤ 65536 ∧ c.p 12 4 = 0 ∧ 1 ≤ c.p 32 2 ∧ c.p 32 2 ≤ 16 ∧ c.p 34 6 = 0 ∧ c.p 0 8 % 64 = 0 ∧ c.p 16 8 % 64 = 0 ∧ spaceOf (c.p 24 8) = 0 ∧ c.p 24 8 % 2 ^ 21 = 0
        ∧ addrMalformed (c.p 24 8) = false ∧ s.pair.mirror = none ∧ s.pair.role = role)
    ∧ (let c := wCmd 0x0602 5 0 (wP [(24, wNear + 2 ^ 21), (32, 1), (40, wNear)]); let s := wPair 1 none 5 c; let bases := (upTo (c.p 32 2)).map (fun k => c.p (40 + 8 * k) 8)
       (jobOf s c.job).st = .active ∧ s.regions = [] ∧ (∀ b ∈ bases, (allocAt s c.job b).isSome = true) ∧ bases = [wNear] ∧ (∀ p ∈ areaKeys (c.p 24 8) (mirrorKeys s c.job bases), pageAdmits (pageOf s p.2) c.job = true))
    ∧ (∀ x ∈ [(1, none), (2, some wMirror), (1, some wMirror)], let c := wCmd 0x0603 0 0 0; let s := wPair x.1 x.2 64 c; Started s 64 7 0x0603 c ∧ c.stage = .started ∧ s.pair.mirror = x.2 ∧ s.pair.role = x.1 ∧ wMirror.stopping = false ∧ s.pair.run = none)
    ∧ (∀ x ∈ [(100000001, false), (100000000, false), (100000001, true)], let m := { wMirror with waitFrom := some 1, stalled := x.2 }; let s := { wPair 1 (some m) 64 (wCmd 0 0 0 0) with now := x.1 }
      s.pair.mirror = some m ∧ m.waitFrom = some 1 ∧ s.pair.role = 1 ∧ HearsEvents s 0x7F ∧ (1 + 100000000 ≤ s.now ↔ x.1 = 100000001)) := by
  unfold Started HearsEvents; refine ⟨by decide +kernel, by decide +kernel, by decide +kernel, by decide +kernel, by decide +kernel⟩

theorem test_met_MirrorsAndCheckpointsAreKept_2 :
    (∀ x ∈ [none, some wMirror], let c := wCmd 0x0604 0 0 0; let s := wPair 1 x 64 c; Started s 64 7 0x0604 c ∧ c.stage = .started ∧ s.pair.mirror = x ∧ s.pair.run = none ∧ s.pair.role = 1 ∧ (jobOf s wMirror.job).st = .active ∧ 64 ≠ wMirror.job
      ∧ (qOf s wMirror.job).cmds = [] ∧ (qOf s wMirror.job).held = [] ∧ (qOf s wMirror.job).writing = [] ∧ jobRegions s wMirror.job = [])
    ∧ (∀ x ∈ [(2, 3, 0), (1, 3, 0), (2, 4, 0), (2, 3, 1)], let s := wPair x.1 (some wMirror) 64 (wCmd 0 0 0 0); let h := leNat ((wRecord 6 x.2.1 x.2.2).take 64)
      s.pair.mirror = some wMirror ∧ s.link.up = true ∧ s.pair.role = x.1
        ∧ ((fld h 0 4 = 0x4D524B48 ∧ fld h 60 4 = 0 ∧ fld h 8 8 = wMirror.mseq ∧ fld h 56 4 = crc32 ((wRecord 6 x.2.1 x.2.2).take 56)) ↔ x.2 = (3, 0)))
    ∧ (∀ x ∈ [(2, JState.suspended, CmdStage.started), (1, .suspended, .started), (1, .resuming, .working)], let c := { wCmd 0x0605 0 0 0 with stage := x.2.2 }; let s0 := wPair x.1 none 64 c
      let s := { s0 with pair := { s0.pair with committed := some (5, 1, 7) }, jobs := [(5, { wJob with st := x.2.1 })] }
      Started s 64 7 0x0605 c ∧ s.pair.committed = some (5, 1, 7) ∧ s.pair.role = x.1 ∧ (jobOf s 5).st = x.2.1 ∧ resumeRefusal s 5 = none ∧ resumed s 5 = true) := by
  unfold Started; refine ⟨by decide +kernel, by decide +kernel, by decide +kernel⟩

/-- A packet at a router of die 41 for a tile. -/
def wPacket (site dst flip : Nat) : Packet :=
  { msg := wMsg 1 5 (tileEp 41 dst 0) 0 [], index := 0, count := 1, len := 0, die := 41, site := site, port := 0, vc := 0, exit := none, headerFlip := flip, dataFlips := [] }

theorem test_met_RoutersMovePacketsToNeighbours :
    ∀ x ∈ [(49, 49, 1 + 2 ^ 8 + 2 ^ 16, []), (49, 49, 1, []), (479, 49, 0, [siteKey 41 49]), (479, 49, 0, [])], let p := wPacket x.1 x.2.1 x.2.2.1; let s := { wUp with net := { wUp.net with packets := [p], tableHoles := x.2.2.2 } }
      isCompute 41 = true ∧ x.1 < 480 ∧ (dieOf s 41).fenced = false ∧ s.net.holes.contains (siteKey 41 x.1) = false ∧ headPacket s 41 x.1 0 0 = some p ∧ p.msg.cfgm = false
        ∧ (decodePattern (p.headerFlip ^^^ 0) = .uncorrectable ↔ x.2.2.1 = 1 + 2 ^ 8 + 2 ^ 16) ∧ (routerOf p.msg.dst = x.1 ↔ x.1 = 49)
        ∧ (s.net.tableHoles.contains (siteKey p.msg.dst.die (routerOf p.msg.dst)) || s.net.tableFenced.contains p.msg.dst.die) = !x.2.2.2.isEmpty := by decide +kernel

theorem test_met_InterfacesKeepFlowsAndTimers_1 :
    (∀ x ∈ [(0x81, 0, [], false), (1, 7, [], false), (1, 8, [], false), (1, 0, [], true), (1, 0, [1 + 2 ^ 8 + 2 ^ 16], false)],
      let p := { wPacket 49 49 0 with dataFlips := x.2.2.1, msg := wMsg x.1 5 (tileEp 41 49 0) 0 [1] }
      let s0 := wNi 41 49 { niInitial with eject := [p], rx := (upTo x.2.1).map (fun k => wBuf { wMsg 1 5 (tileEp 41 49 0) 0 [] with msgId := 10 + k } .delivered true) }
      let s := { s0 with regions := if x.2.2.2 then wSt .parted else s0.regions }
      (niOf s 41 49).eject = [p] ∧ p.msg.cfgm = false ∧ p.msg.dst.die = 41 ∧ p.msg.dst.site = 49 ∧ (isRequest p.msg = true ↔ x.1 = 1) ∧ siteParted s 41 49 = x.2.2.2 ∧ p.msg.dst.port ≠ portNear
        ∧ (∀ b ∈ (niOf s 41 49).rx, sameMsg b.msg p.msg = false) ∧ rxUsed (niOf s 41 49) p.msg.dst = x.2.1 ∧ rxRoom p.msg.dst = 8 ∧ (dataDecode p.dataFlips).1 = x.2.2.1.isEmpty)
    ∧ (∀ x ∈ [(false, none), (false, some 9), (true, some 65535), (true, some 0), (true, none)],
      let m := { wMsg 1 5 (tileEp 41 49 0) 0 [] with dep := x.1, seq := 0 }; let b := wBuf m .partialMsg true
      let s := wNi 41 49 { niInitial with rx := [b], flows := match x.2 with | some l => [{ src := m.src, issuer := m.issuer, dst := m.dst, last := l, time := 0 }] | none => [] }
      isDie 41 = true ∧ completeBuf s 41 49 m.src m.issuer m.msgId = some b ∧ b.msg.dst.die = 41 ∧ b.msg.dst.site = 49 ∧ b.msg.cfgm = false
        ∧ ((niOf s 41 49).flows.find? (fun f => f.src == m.src && f.issuer == m.issuer && f.dst == m.dst)).map Flow.last = x.2) := by
  refine ⟨by decide +kernel, by decide +kernel⟩

theorem test_met_InterfacesKeepFlowsAndTimers_2 :
    ∀ x ∈ [(RxStage.partialMsg, 100000), (.partialMsg, 99999), (.waitOrder, 100000), (.waitOrder, 99999)], let m := wMsg 1 5 (tileEp 41 49 0) 0 []; let b := wBuf m x.1 false; let s := { wNi 41 49 { niInitial with rx := [b] } with now := x.2 }
      isDie 41 = true ∧ (niOf s 41 49).rx.find? (fun b => b.msg.src == m.src && b.msg.issuer == m.issuer && b.msg.msgId == m.msgId) = some b ∧ b.msg.dst.die = 41 ∧ b.msg.dst.site = 49 ∧ b.msg.cfgm = false ∧ b.stage = x.1
        ∧ (b.have1 = false ∧ b.count ≠ 1) ∧ (b.first + 100000 ≤ s.now ↔ x.2 = 100000) := by decide +kernel

/-- An interface of die 41's site 49 with one request to a kettle, in a state, at a time. -/
def wReq (typ op : Nat) (st : OutState) (since : Option Nat) : Outst := wOut { wMsg typ 5 (kettleEp 41 0) (op + 2 ^ 32) [] with src := tileEp 41 49 0 } st since
def wSource (o : Outst) (now : Nat) : State := { wNi 41 49 { niInitial with out := [o] } with now := now }

theorem test_met_RequestTimersAndTelemetry_1 :
    (∀ x ∈ [(OutState.refused 1 1, none, 2001), (.refused 1 1, none, 2000), (.refused 2 1, none, 2), (.refused 3 1, some 0, 1000001), (.refused 3 1, some 0, 1000000), (.sent, none, 999), (.sent, none, 1000), (.refused 1 1, none, 1000)],
      let o := wReq 4 2 x.1 x.2.1; let s := wSource o x.2.2
      isDie 41 = true ∧ outOf s 41 49 3 = some o ∧ o.msg.msgId = 3 ∧ o.st = x.1 ∧ o.partedSince = x.2.1 ∧ sourceReply s o.msg = none ∧ (niOf s 41 49).out.head? = some o ∧ o.msg.src.site ≠ blockSite ∧ o.msg.src.port ≠ portStream
        ∧ (overdue s o = true ↔ 1000 ≤ x.2.2) ∧ kopOf o.msg = 2 ∧ HearsEvents s o.msg.dst.die ∧ 1 ≤ o.msg.job ∧ o.msg.job ≤ 63)
    ∧ (let o := wReq 1 0 .sent none; let s := wSource o 1000; outOf s 41 49 3 = some o ∧ overdue s o = true ∧ o.msg.typ ≠ 4)
    ∧ (∀ x ∈ [(0x82, 1), (0x82, 2), (0x80, 0)], let o := wReq 1 0 .sent none; let m := { wMsg x.1 5 (tileEp 41 49 0) 0 [] with status := x.2 }; let s := wNi 41 49 { niInitial with out := [o], replies := [m] }
      outOf s 41 49 3 = some o ∧ m ∈ (niOf s 41 49).replies ∧ m.dst = o.msg.src ∧ m.dst.die = 41 ∧ m.dst.site = 49 ∧ m.msgId = 3 ∧ o.st = .sent ∧ m.status ≠ 3 ∧ m.dst.port ≠ portStream)
    ∧ (∀ b ∈ [true, false], let m := wMsg 1 5 (tileEp 41 49 0) 0 []; let s := wNi 41 49 { niInitial with rx := if b then [wBuf m .held true] else [] }; isDie m.dst.die = true ∧ (niOf s m.dst.die m.dst.site).rx.any (fun b => sameMsg b.msg m) = b) := by
  unfold HearsEvents; refine ⟨by decide +kernel, by decide +kernel, by decide +kernel, by decide +kernel⟩

theorem test_met_RequestTimersAndTelemetry_2 :
    (isDie 41 = true ∧ IdFree wUp { die := 41, site := 49, port := portTile, index := 0 })
    ∧ (let m := wMsg 0x0B 0 (configEp 0x60) 0 (List.replicate 5 7); Admitted wUp m ∧ m.cfgm = false ∧ m.dst.die = 0x60)
    ∧ (∀ x ∈ [(999999, none), (1000000, none), (1000000, some (hostAddr 0x1000000, 256))], let s := { wUp with now := x.1, net := { wUp.net with mapRing := x.2, mapSeq := 255 } }
      (s.net.mapPeriod + 1000000 ≤ s.now ↔ x.1 = 1000000) ∧ s.net.mapRing = x.2 ∧ s.net.mapWrap = false ∧ spaceOf (hostAddr 0x1000000 + 230528 * (255 % 256)) = 8 ∧ spaceOf (hostAddr 0x1000000 + 230528 * (255 % 256) + 8) = 8) := by
  unfold IdFree Admitted; refine ⟨by decide +kernel, by decide +kernel, by decide +kernel⟩

/-- Kettle 0 of die 41 with a value and the waiters given, and an operation on it. -/
def wKettle (v : Nat) (ws : List Waiter) : State := { wUp with kettles := [(41, { kettleUnitInitial with kettles := [(0, { kettleInitial with owner := some 5, value := v })], waiters := ws })] }
def wKop (op n : Nat) : Msg := wMsg 4 5 (kettleEp 41 0) (op + n * 2 ^ 32) []
def wWaiter (k demand : Nat) (observe : Bool) : Waiter := { slot := 0, kettle := k, observe := observe, demand := demand, src := coreEp 41 0, issuer := 0, job := 5, opnum := 0, time := 0 }

theorem test_met_KettlesAddAndReset :
    ∀ x ∈ [(1, 0, 2 ^ 31 - 1), (1, 1, 2 ^ 32 - 1), (1, 0, 2 ^ 32 - 1), (1, 2 ^ 31 - 1, 1), (1, 3, 0), (1, 3, 2 ^ 31), (4, 3, 0), (4, 3, 2 ^ 31 - 1), (4, 3, 2 ^ 31)], let m := wKop x.1 x.2.2; let s := wKettle x.2.1 []
      Admitted s m ∧ m.cfgm = false ∧ m.typ = 4 ∧ m.dst.port = portKettle ∧ m.dst.site = blockSite ∧ (ktOf s m.dst.die).waiters = [] ∧ (∀ e ∈ s.regions, e.2.timed = none) ∧ kopOf m = x.1 ∧ koperandOf m = x.2.2
        ∧ (((ktOf s m.dst.die).kettle m.dst.index).value : Int) + toSigned 32 (koperandOf m) = x.2.1 + (if x.2.2 < 2 ^ 31 then (x.2.2 : Int) else x.2.2 - 2 ^ 32) := by
  unfold Admitted; decide +kernel

theorem test_met_KettleWaitsAreMetAndReleased :
    (∀ op ∈ [2, 3], ∀ x ∈ [(7, 7, 0), (6, 7, 1), (6, 7, 4096)], let m := wKop op x.2.1; let s := wKettle x.1 (List.replicate x.2.2 (wWaiter 1 1 false))
      Admitted s m ∧ m.cfgm = false ∧ (∀ w ∈ (ktOf s m.dst.die).waiters.take 2, w.kettle ≠ m.dst.index) ∧ koperandOf m ≠ 0 ∧ koperandOf m < 2 ^ 31 ∧ kopOf m = op ∧ ((ktOf s m.dst.die).kettle m.dst.index).value = x.1
        ∧ (waiterRoom m.dst.die ≤ (ktOf s m.dst.die).waiters.length ↔ x.2.2 = 4096))
    ∧ (∀ o ∈ [true, false], ∀ v ∈ [6, 7], let m := wKop 4 v; let s := wKettle 0 [wWaiter 0 7 o]
      Admitted s m ∧ m.cfgm = false ∧ m.typ = 4 ∧ m.dst.port = portKettle ∧ m.dst.site = blockSite ∧ (ktOf s m.dst.die).waiters = [wWaiter 0 7 o] ∧ (wWaiter 0 7 o).kettle = m.dst.index ∧ IdFree s m.dst ∧ kopOf m = 4 ∧ koperandOf m = v) := by
  unfold Admitted IdFree; refine ⟨by decide +kernel, by decide +kernel⟩

/-- A task context of an M-tile or a V-tile that waits on a kettle. -/
def wMCtx : MCtx := { mCtxInitial with st := .blocked, wait := .sent }
def wVCtx : VCtx := { vCtxInitial with st := .blocked, wait := .sent }
def wTiles (m : MTile) (v : VTile) : State := { wUp with mTiles := [(siteKey 41 24, m)], vTiles := [(siteKey 41 5, v)] }

theorem test_met_WaitsAreWithdrawnAndReleased :
    (∀ b ∈ [true, false], let m := { wMsg 4 5 (kettleEp 41 0) (6 + 4 * 2 ^ 16) [] with src := configEp 0x60 }
      let s := { wKettle 0 [wWaiter 0 7 false] with net := if b then wUp.net else { wUp.net with nis := [(siteKey 41 blockSite, { niInitial with out := [wOut { wMsg 4 5 (tileEp 41 24 0) 5 [] with src := kettleEp 41 0 } .sent none] })] } }
      isDie m.dst.die = true ∧ m.cfgm = false ∧ m.typ = 4 ∧ m.dst.port = portKettle ∧ m.src.die = 0x60 ∧ m.src.site = blockSite ∧ kopOf m = 6 ∧ bits m.arg.toNat 23 16 ≤ 4 ∧ (ktOf s m.dst.die).withdrawing = [])
    ∧ (let m := { wMsg 4 5 (kettleEp 41 0) 6 [] with src := configEp 0x60 }
       withdrawSettled (wKettle 0 []) 41 m = true
         ∧ withdrawSettled { wUp with net := { wUp.net with nis := [(siteKey 41 blockSite, { niInitial with out := [wOut { wMsg 4 5 (tileEp 41 24 0) 5 [] with src := kettleEp 41 0 } .sent none] })] } } 41 m = false)
    ∧ (let m := { wKop 6 0 with src := coreEp 41 0 }; m.src.die ≠ 0x60 ∧ kopOf m = 6)
    ∧ (let s := wTiles { mTileInitial with ctxs := [mCtxInitial, mCtxInitial, mCtxInitial, wMCtx] } { vTileInitial with ctxs := [vCtxInitial, vCtxInitial, vCtxInitial, wVCtx] }
       ∀ k ∈ [24, 5], let m := wMsg 4 5 (tileEp 41 k 3) 5 []
        Admitted s m ∧ m.cfgm = false ∧ m.typ = 4 ∧ kopOf m = 5 ∧ m.dst.site ≠ blockSite ∧ m.dst.port = portTile
          ∧ (k = 24 → siteKind k = some .mTile ∧ ((mtOf s 41 k).ctx 3).st = .blocked ∧ ((mtOf s 41 k).ctx 3).wait = .sent ∧ 3 < (mtOf s 41 k).ctxs.length)
          ∧ (k = 5 → siteKind k = some .vTile ∧ ((vtOf s 41 k).ctx 3).st = .blocked ∧ ((vtOf s 41 k).ctx 3).wait = .sent ∧ 3 < (vtOf s 41 k).ctxs.length))
    ∧ (∀ x ∈ [(11, false), (10, false), (11, true)], let run : TimedRun := { k := 1, start := 0, thermal := false, missed := x.2 }; let d : Timed := { startKettle := 0, doneKettle := 0, slots := 1, reportAddr := 0, next := 2, runs := [run] }
      let r := { wRegion with sig := some { wSig with timedBound := 10 }, timed := some d }; let s := { wUp with now := x.1, regions := [(1, r)] }
      Tab.find? 1 s.regions = some r ∧ r.timed = some d ∧ d.runs = [run] ∧ HearsEvents s 0x7F ∧ (run.start + (r.sig.map Sig.timedBound).getD 0 < s.now ↔ x.1 = 11)) := by
  unfold Admitted HearsEvents; refine ⟨by decide +kernel, by decide +kernel, by decide +kernel, by decide +kernel, by decide +kernel⟩

/-- Descriptors as 512-bit numbers of fields at byte offsets; an ISSUED context with all blocks and segments. -/
def wD (l : List (Nat × Nat)) : BitVec 512 := BitVec.ofNat 512 (wP l)
def wIssued : BitVec 512 := wD [(0, 1), (1, 1), (3, 128), (5, 32), (7, 32), (16, 1)]
def wKwait : BitVec 512 := wD [(0, 7), (12, 2 ^ 31 - 1)]
def wIssue (die site n : Nat) (d : BitVec 512) : Msg := wMsg 5 5 (tileEp die site n) 0 [BitVec.ofNat 256 d.toNat, BitVec.ofNat 256 (d.toNat / 2 ^ 256)]
def wQueued (n : Nat) : State := wTiles { mTileInitial with ctxs := [mCtxInitial, mCtxInitial, mCtxInitial, { mCtxInitial with desc := wIssued, queue := List.replicate n wKwait }] } vTileInitial
/-- A LOAD of one near word for slot 0 of die 41's DP S-tile 49, and the tile with a range for it. -/
def wLoadDesc (base : Nat) : Nat := wP ([(0, 1), (8, 1), (10, 255), (16, 1), (20, 32), (24, 1), (32, base)] ++ (upTo 6).map (fun k => (76 + 16 * k, 1)))
def wDp : STile := { sTileInitial with ranges := [{ kind := 1, readers := 2, init := 0, base := 0, count := 65536 }] }
def wSpState (t : STile) : State := { wDram with sTiles := [(siteKey 41 0, t), (siteKey 41 49, t)] }
/-- A V-tile whose last collector expects three summaries of tag 65535, and a governed pair. -/
def wColl : VTile := { vTileInitial with site := BitVec.ofNat 2304 (wP [(256, 65535), (258, 3)]), coll := List.replicate 8 { collectorInitial with count := 1 }, pairs := [{ rank := 3, tag := 9, vops := 1, got := 0, b := 0 }] }

theorem test_met_ClusterMessagesAreTaken_1 :
    (∀ x ∈ [(3, wKwait, 15), (3, wKwait, 16), (3, wD [(0, 7)], 0), (4, wKwait, 0)], let m := wIssue 41 24 x.1 x.2.1; let s := wQueued x.2.2; let c := (mtOf s 41 24).ctx 3
      Admitted s m ∧ m.cfgm = false ∧ m.typ = 5 ∧ m.dst.port ≠ portStream ∧ siteKind m.dst.site = some .mTile ∧ (m.dst.index < 4 ↔ x.1 = 3) ∧ 3 < (mtOf s 41 24).ctxs.length ∧ dfld c.desc 0 1 = 1 ∧ dfld c.desc 1 1 = 1
        ∧ mDescOk c.desc (issueDesc m) = (dfld x.2.1 12 4 != 0) ∧ ranksOk s (siteJob s 41 24) (mDescRanks (issueDesc m)) = true ∧ c.queue.length = x.2.2 ∧ isHeld s m = false)
    ∧ (let m := { wMsg 5 5 { die := 41, site := 49, port := portStream, index := 0 } 0 ((upTo 5).map (fun k => BitVec.ofNat 256 (wLoadDesc wNear / 2 ^ (256 * k)))) with src := coreEp 41 0 }
       let s := { wSpState wDp with engines := [(siteKey 41 49, { engineInitial with queue := List.replicate 15 (wStrm (2 ^ 64)) })] }
       Admitted s m ∧ m.cfgm = false ∧ m.dst.port = portStream ∧ hasEngine m.dst.die m.dst.site = true ∧ streamCheck s m.dst.die m.dst.site m.job (streamDesc m) = none ∧ (enOf s m.dst.die m.dst.site).queue.length = 15) := by
  unfold Admitted; refine ⟨by decide +kernel, by decide +kernel⟩

theorem test_met_ClusterMessagesAreTaken_2 :
    (∀ tag ∈ [65535, 1], let m := wMsg 6 5 (tileEp 41 5 0) tag [0]; let s := wTiles mTileInitial wColl; let t0 := vtOf s 41 5
      Admitted s m ∧ m.cfgm = false ∧ siteKind m.dst.site = some .vTile ∧ m.typ = 6 ∧ (upTo 8).find? (fun n => collFld t0 n 0 2 == tag && tag != 0) = (if tag = 1 then none else some 7) ∧ 7 < t0.coll.length
        ∧ (nth collectorInitial 7 t0.coll).count + 1 ≠ collFld t0 7 2 2)
    ∧ (let m := { wMsg 7 5 (tileEp 41 5 0) (9 + 200 * 2 ^ 16) [] with src := tileEp 41 49 0 }; let s := wTiles mTileInitial wColl
       Admitted s m ∧ m.typ = 7 ∧ (vtOf s 41 5).pairs.length = 1 ∧ ∀ p ∈ (vtOf s 41 5).pairs, p.tag = m.arg.toNat % 65536 ∧ (rankEp s (siteJob s 41 5) p.rank).map (fun e => (e.die, e.site)) = some (m.src.die, m.src.site))
    ∧ (∀ x ∈ [(1, 16, 0, 0, 0), (2, 16, 0, 0, 0), (2, 1, 5, 0, 0), (3, 1, 5, 24, 8), (1, 1, 5, 0, 0), (2, 1, 7, 0, 0)], let j := min 5 x.2.2.1; let m := wMsg 8 j (coreEp 41 0) (x.1 + x.2.1 * 2 ^ 8 + x.2.2.2.1 * 2 ^ 16 + x.2.2.2.2 * 2 ^ 24 + (8388608 - 32 * x.2.1) * 2 ^ 32) (if x.1 = 1 then [] else List.replicate x.2.1 7)
      let s := { wDram with regions := [(1, { wRegion with sig := some { wServeSig with programs := [(41, 0, BitVec.ofNat 1024 (wP [(1, 1), (36, 23), (37, if x.2.2.1 = 7 then 1 else 7)]))] } })] }
      Admitted s m ∧ m.cfgm = false ∧ m.dst.site = blockSite ∧ m.dst.port = portCore ∧ cmMalformed m = false ∧ s.memoryOk ∧ cmOp m = x.1 ∧ cmOffset m + 32 * cmCount m ≤ clusterSize 41 ∧ s.flips = []
        ∧ (m.job = 0 ∨ cmAdmitted s m (if x.1 = 1 then 1 else 2) = (x.2.2.1 == 5))) := by
  unfold Admitted State.memoryOk; refine ⟨by decide +kernel, by decide +kernel, by decide +kernel⟩

/-- A command for S-tile 0 of die 41: its operation, flags, slot, count, source slot, GEN, byte offset and bytes. -/
def wSpCmd (op flags slot count src gen off n : Nat) (ws : List Word) : Msg :=
  wMsg 1 5 (tileEp 41 0 0) 0 (BitVec.ofNat 256 (wP [(0, op), (1, flags), (4, slot), (8, count), (12, src), (16, gen), (20, off), (21, n)]) :: ws)
/-- S-tile 0 with one TAGGED range, the last 16 slots FULL. -/
def wFull : STile := { wDp with tags := (upTo 16).map (fun k => (65520 + k, 1)) }

theorem test_met_ScratchSlotsAreReadAndWritten_1 :
    (∀ x ∈ [(wSpCmd 1 0 65520 16 0 0 0 0 [], true), (wSpCmd 1 4 65520 1 0 0 0 0 [], true), (wSpCmd 1 0 65519 2 0 0 0 0 [], false), (wSpCmd 3 4 65535 0 0 0 16 16 [], true)], let m := x.1; let s := wSpState wFull; let t0 := spOf s 41 0
      bit (spFlags m) 0 = false ∧ t0.gather = [] ∧ SpTakes s m (spOp m) ∧ (∀ k, k < 16 → k < spCount m → x.2 = true → t0.readReady (spSlot m + k) (spMode m) = true) ∧ t0.readReady (spSlot m) (spMode m) = x.2 ∧ s.flips = [])
    ∧ (let m := wSpCmd 1 0 65535 1 0 0 0 0 []; let s := { wSpState wFull with flips := [(slotAddr 41 0 65535, 1 + 2 ^ 8 + 2 ^ 16)] }
       SpTakes s m 1 ∧ (spOf s 41 0).readReady (spSlot m) (spMode m) = true ∧ Tab.find? (slotAddr 41 0 (spSlot m + 0)) s.flips = some (1 + 2 ^ 8 + 2 ^ 16) ∧ decodePattern (1 + 2 ^ 8 + 2 ^ 16) = .uncorrectable
         ∧ siteJob s 41 0 ≠ 0 ∧ HearsEvents s 41) := by
  unfold SpTakes Admitted HearsEvents; refine ⟨by decide +kernel, by decide +kernel⟩

theorem test_met_ScratchSlotsAreReadAndWritten_2 :
    (∀ x ∈ [(wSpCmd 2 0 0 15 0 0 0 0 (List.replicate 15 7), true), (wSpCmd 2 12 65521 15 0 0 0 0 (List.replicate 15 7), true), (wSpCmd 2 0 65520 1 0 0 0 0 [7], false), (wSpCmd 5 4 65535 1 0 0 0 0 [], true), (wSpCmd 6 0 0 2 65520 0 0 0 [], true)],
      let m := x.1; let s := wSpState wFull; let t0 := spOf s 41 0
      bit (spFlags m) 0 = false ∧ s.memoryOk ∧ SpTakes s m (spOp m) ∧ t0.gather = [] ∧ (∀ k, k < 16 → k < spCount m → t0.writeReady (spSlot m + k) (spMode m) = x.2)
        ∧ (spOp m = 6 → ∀ k, k < 16 → k < spCount m → t0.readReady (spSrcSlot m + k) (spSrcMode m) = true) ∧ s.flips = [])
    ∧ (∀ g ∈ [true, false], let m := wSpCmd 4 8 65535 0 0 0 16 16 [7]; let s := wSpState { wFull with gatherMode := g }; SpTakes s m 4 ∧ bit (spFlags m) 0 = false ∧ (spOf s 41 0).gatherMode = g ∧ (spOf s 41 0).gather = [] ∧ s.flips = []) := by
  unfold SpTakes Admitted State.memoryOk; refine ⟨by decide +kernel, by decide +kernel⟩

/-- The last quire of S-tile 0 at the largest GEN, with a pending swap or none. -/
def wQuire (sig : Bool) (p : Option Msg) (full1 : Nat) : Quire :=
  { quireInitial with en := true, base := 64, leafSlots := 32, sig := sig, gen := 2 ^ 32 - 1, pending := p, full1 := full1 }
def wSwap (gen flags : Nat) : Msg := wSpCmd 7 flags 15 0 0 gen 0 0 []
def wQuired (q : Quire) : State := wSpState { wFull with quires := [(15, q)] }

theorem test_met_QuiresGatherAndPatrol_1 :
    (∀ x ∈ [(false, none, 0, 2 ^ 32 - 1, 0), (true, none, 0, 2 ^ 32 - 1, 64), (false, none, 32, 2 ^ 32 - 1, 64), (false, none, 0, 0, 0), (false, some (wSwap 0 64), 1, 2 ^ 32 - 1, 64)],
      let m := wSwap x.2.2.2.1 x.2.2.2.2; let s := wQuired (wQuire x.1 x.2.1 x.2.2.1); let q := (spOf s 41 0).quire 15
      bit (spFlags m) 0 = false ∧ m.cfgm = false ∧ SpTakes s m 7 ∧ spSlot m = 15 ∧ (q.gen = spGen m ↔ x.2.2.2.1 ≠ 0) ∧ q.pending = x.2.1 ∧ bit (spFlags m) 6 = (x.2.2.2.2 == 64) ∧ q.readFull = x.2.2.1 ∧ q.sig = x.1 ∧ IdFree s m.dst
        ∧ rankEp s (siteJob s 41 0) q.swapKettle = some (kettleEp 41 0))
    ∧ (∀ n ∈ [0, 32], let m := wSwap (2 ^ 32 - 1) 64; let s := wQuired (wQuire false (some m) n); ((spOf s 41 0).quire 15).pending = some m ∧ ((spOf s 41 0).quire 15).readFull = n ∧ siteParted s 41 0 = false)
    ∧ SiteIs 41 0 [.sTile, .dpTile]
    ∧ SpTakes (wQuired (wQuire true (some (wSwap 0 64)) 32)) (wSpCmd 8 0 15 0 0 0 0 0 []) 8 := by
  refine ⟨by unfold SpTakes Admitted IdFree; decide +kernel, by decide +kernel, siteIs_of_isTile _ _ _ (by decide +kernel), by unfold SpTakes Admitted; decide +kernel⟩

/-- A gather entry of the last slot, and one of the slot before it that is COUNTED. -/
def wGathers : List GatherEntry :=
  [{ slot := 65535, bytes := 7, mask := 255, counted := false, tagMode := 2, writeBack := false }, { slot := 65534, bytes := 9, mask := 1, counted := true, tagMode := 0, writeBack := false }]
def wNarrow : SpCmd := { msg := wSpCmd 4 8 65535 0 0 0 16 16 [7], next := 0, got := [], since := 0, heldSent := true }

theorem test_met_QuiresGatherAndPatrol_2 :
    (∀ g ∈ [wGathers, []], ∀ f ∈ [0, 1], let m := { wSpCmd 9 f 0 0 0 0 0 0 [] with src := coreEp 41 0 }; let s := wSpState { wFull with gather := g }
      SpTakes s m 9 ∧ s.memoryOk ∧ bit (spFlags m) 0 = (f == 1) ∧ (((spOf s 41 0).gather).map GatherEntry.slot).Nodup ∧ s.flips = [] ∧ rankEp s m.job (spKettle m) = some (kettleEp 41 0) ∧ IdFree s m.dst ∧ (spOf s 41 0).gather = g)
    ∧ (∀ n ∈ [99999, 100000], let s := { wSpState { wFull with cmds := [wNarrow] } with now := n }; wNarrow.msg.cfgm = false ∧ (spOf s 41 0).cmds = [wNarrow] ∧ spOp wNarrow.msg = 4 ∧ (s.now < wNarrow.since + 100000 ↔ n = 99999)
        ∧ siteJob s 41 0 ≠ 0 ∧ HearsEvents s 41)
    ∧ SiteIs 41 0 [.sTile, .dpTile]
    ∧ (∀ f ∈ [0, 128, 1 + 2 ^ 8 + 2 ^ 16], let a := slotAddr 41 0 65535; let s := { wSpState { wFull with patrol := [(15, 4095)] } with flips := if f = 0 then [] else [(a, f)] }
        siteParted s 41 0 = false ∧ s.memoryOk ∧ slotAddr 41 0 (Tab.get 0 15 (spOf s 41 0).patrol % 4096 * 16 + 15 % 16) = a ∧ Tab.find? a s.flips = (if f = 0 then none else some f)
          ∧ (f = 128 → decodePattern f = .corrected 0) ∧ (f = 65793 → decodePattern f = .uncorrectable) ∧ ((spOf s 41 0).rangeAt 65535).isSome = true ∧ HearsEvents s 41) := by
  refine ⟨by unfold SpTakes Admitted IdFree State.memoryOk; decide +kernel, by unfold HearsEvents; decide +kernel, siteIs_of_isTile _ _ _ (by decide +kernel), by unfold State.memoryOk HearsEvents; decide +kernel⟩

/-- A narrow access and two wide ones, of which one has waited since stamp 1, and the tile in which the narrow one has been refused n times. -/
def wAccs : List SpAcc := [{ src := 9, id := 0, slot := 65535, write := none, mode := 0, wide := false }, { src := 0, id := 0, slot := 65535, write := none, mode := 0, wide := true }, { src := 1, id := 0, slot := 65519, write := none, mode := 0, wide := true }]
def wWaited (n : Nat) : STile := { wFull with waits := [(1, { since := 1, refused := 1 }), (9, { since := 0, refused := n })], stamp := 3 }
/-- A READ of the last two slots that has its first word, and a channel of the last slot: one word, one run, RUN_KETTLE by rank 0. -/
def wReading : SpCmd := { msg := wSpCmd 1 0 65534 2 0 0 0 0 [], next := 1, got := [5], since := 0, heldSent := true }
def wChan (sig pos : Nat) (runs : Nat) : Chan :=
  { chanInitial with desc := wD [(0, 1), (4, 255), (8, sig), (12, 65534), (16, 1), (20, 2), (24, 2), (28, 1), (32, runs)], pos := pos, runsLeft := runs }

theorem test_met_BanksGrantByClassAndAge :
    (∀ n ∈ [15, 16], (∀ x ∈ wAccs, x.write = none) ∧ grantChoice (wWaited n) wAccs = (wAccs.drop (if n = 15 then 2 else 0)).head?)
    ∧ (∀ tags ∈ [wFull.tags, []], let c := wReading; let s := wSpState { wFull with cmds := [c], tags := tags }; let t0 := spOf s 41 0; let n := spSlot c.msg + c.next
      siteParted s 41 0 = false ∧ c.msg.cfgm = false ∧ t0.chans = [] ∧ t0.gather = [] ∧ t0.cmds = [c] ∧ spOp c.msg = 1 ∧ c.next + 1 = spCount c.msg ∧ bit (spFlags c.msg) 0 = false ∧ t0.readReady n (spMode c.msg) = !tags.isEmpty ∧ s.flips = [])
    ∧ SiteIs 41 0 [.sTile, .dpTile]
    ∧ (let c := wChan 0 1 1; let s := wSpState { wFull with chans := [(7, c)] }; let t0 := spOf s 41 0
       siteParted s 41 0 = false ∧ t0.chans = [(7, c)] ∧ t0.gather = [] ∧ t0.cmds = [] ∧ c.live = true ∧ c.writes = false ∧ c.blockRows = 0 ∧ c.f 16 4 ≠ 0 ∧ c.pos + 1 = c.runWords ∧ c.rob = [] ∧ c.fifo = []
         ∧ stridedSlot t0 c c.pos = 65535 ∧ t0.readReady 65535 (bits (c.f 5 1) 1 0) = true ∧ s.flips = [])
    ∧ (∀ sig ∈ [0, 3], ∀ runs ∈ [0, 1, 2], let s := wSpState { wFull with chans := [(7, wChan sig 2 runs)] }; let c := Tab.get chanInitial 7 (spOf s 41 0).chans
       c = wChan sig 2 runs ∧ siteParted s 41 0 = false ∧ c.live = true ∧ 0 < c.runWords ∧ c.pos = c.runWords ∧ c.fifo = [] ∧ c.rob = [] ∧ chanCredited s 41 0 7 = true ∧ bit (c.f 8 1) 0 = (sig == 3)
         ∧ rankEp s (siteJob s 41 0) (c.f 6 2) = some (kettleEp 41 0) ∧ IdFree s (tileEp 41 0 0)) := by
  refine ⟨by decide +kernel, by decide +kernel, siteIs_of_isTile _ _ _ (by decide +kernel), by decide +kernel, by unfold IdFree; decide +kernel⟩

/-- Context 3 of M-tile 24 running with a descriptor next: its kettle wait and its sweep. -/
def wRunning (d : BitVec 512) (w : WaitPhase) (sw : Option Sweep) : MCtx := { mCtxInitial with desc := wIssued, queue := [d], st := .running, wait := w, sweep := sw, aQueue := List.replicate 8 7 }
def wMt (c : MCtx) : MTile := { mTileInitial with ctxs := [mCtxInitial, mCtxInitial, mCtxInitial, c], running := some 3, segRow := [(31, .ready)] }
/-- An MMA of one BF16 step column on the last block and panel word, with a TAG. -/
def wMma (tag : Nat) : BitVec 512 := wD [(0, 1), (8, 0x110), (13, 127), (14, tag), (16, 1), (18, 1), (19, 255), (20, 1), (24, 1)]
def wStep : Sweep := { mb := 0, kb := 0, nb := 0, step := 3 }
/-- Contexts that are ready since a time, with a ZERO descriptor next. -/
def wReadyM (since : Nat) : MCtx := { mCtxInitial with desc := wIssued, queue := [wD [(0, 4), (9, 1)]], st := .ready, waitedFrom := since }
def wChooser (running : Option Nat) (n : Nat) : MTile := { mTileInitial with ctxs := [wReadyM 9, wReadyM 4, wReadyM 6, { wRunning wKwait .none none with waitedFrom := 9 }], running := running, notReady := n }
def wReadyV (since : Nat) : VCtx := { vCtxInitial with desc := wIssued, queue := [wD [(0, 7), (12, 1)]], st := .ready, waitedFrom := since }
def wChooserV (running : Option Nat) (n : Nat) : VTile := { vTileInitial with ctxs := [wReadyV 9, wReadyV 4, wReadyV 6, { vCtxInitial with desc := wIssued, st := .running }], running := running, notReady := n }

theorem test_met_MTileStepsAccumulateByAge :
    (SiteIs 41 24 [.mTile] ∧ SiteIs 41 5 [.vTile])
    ∧ (∀ q ∈ [8, 7], let c := { wRunning (wMma 0) .none (some wStep) with aQueue := List.replicate q 7 }; let s := wTiles (wMt c) vTileInitial; let t0 := mtOf s 41 24
      siteRuns s 41 24 = true ∧ issueOpen s 41 15 = true ∧ t0.running = some 3 ∧ 3 < t0.ctxs.length ∧ t0.flips = [] ∧ (t0.ctx 3).next = some (wMma 0) ∧ (t0.ctx 3).sweep = some wStep ∧ t0.canIssue 3 = (q == 8))
    ∧ (∀ x ∈ [(none, 0), (some 3, 2), (some 3, 1)], let s := wTiles (wChooser x.1 x.2) (wChooserV x.1 x.2)
      siteRuns s 41 24 = true ∧ siteRuns s 41 5 = true ∧ (mtOf s 41 24).choose = some 1 ∧ (vtOf s 41 5).choose = some 1 ∧ (mtOf s 41 24).running = x.1 ∧ (vtOf s 41 5).running = x.1 ∧ (mtOf s 41 24).notReady = x.2 ∧ (vtOf s 41 5).notReady = x.2) := by
  simp only [siteIs_iff]; decide +kernel

/-- A WLOAD into the last segment of the row copy, one of both copies, and a WRELEASE of it. -/
def wWload : BitVec 512 := wD [(0, 2), (9, 1), (11, 248), (12, 8)]
def wBoth (flags : Nat) : BitVec 512 := wD [(0, 2), (1, flags), (9, 1), (10, 1), (11, 248), (14, 248)]
def wRelease : BitVec 512 := wD [(0, 3), (9, 31), (10, 1)]

theorem test_met_MTileDescriptorsWaitAndDrain_1 :
    (∀ x ∈ [(1, wMma 0, true), (1, wMma 65535, false), (2, wWload, false), (2, wBoth 0, false), (3, wRelease, true), (4, wD [(0, 4), (8, 127), (9, 1)], true), (6, wD [(0, 6), (8, 127), (9, 1), (10, 65535), (12, 3), (14, 1)], true)],
      let s := wTiles (wMt (wRunning x.2.1 .none none)) vTileInitial; let t0 := mtOf s 41 24; let c := t0.ctx 3
      MIssues s 41 24 3 x.1 x.2.1 ∧ bit (dfld x.2.1 1 1) 0 = false ∧ (x.1 = 1 → tagAgrees t0 c x.2.1 = x.2.2) ∧ (x.1 = 4 → ∀ b ∈ descBlocks c x.2.1 8, b = 127 ∧ t0.accState b = .accum) ∧ t0.loadQ = [] ∧ c.wQueue = []
        ∧ (x.1 = 2 → ∃ g ∈ loadSegs x.2.1, t0.segState g.1 g.2 ≠ .empty))
    ∧ (∀ x ∈ [(0, wWload), (1, wBoth 1)], let d := x.2; let s := wTiles { wMt (wRunning d .none none) with segRow := [] } vTileInitial; MIssues s 41 24 3 2 d ∧ ∀ g ∈ loadSegs d, g.2 = 31 ∧ (mtOf s 41 24).segState g.1 g.2 = .empty) := by
  unfold MIssues; simp only [siteIs_iff]; decide +kernel

theorem test_met_MTileDescriptorsWaitAndDrain_2 :
    (∀ w ∈ [WaitPhase.none, .released], let s := wTiles (wMt (wRunning wKwait w none)) vTileInitial
      MIssues s 41 24 3 7 wKwait ∧ ((mtOf s 41 24).ctx 3).wait = w ∧ rankEp s (siteJob s 41 24) (dfld wKwait 8 2) = some (kettleEp 41 0) ∧ IdFree s (tileEp 41 24 3) ∧ bit (dfld wKwait 1 1) 0 = false)
    ∧ (∀ x ∈ [(2, WaitPhase.none), (0, .none), (3, .released)], let d := wD [(0, 5), (8, 0x1000), (12, 127), (13, 1), (14, x.1), (20, 1), (24, 2)]; let s := wTiles (wMt (wRunning d x.2 none)) vTileInitial; let t0 := mtOf s 41 24
      MIssues s 41 24 3 5 d ∧ bit (dfld d 14 1) 1 = decide (2 ≤ x.1) ∧ (t0.ctx 3).wait = x.2 ∧ dfld d 13 1 = 1 ∧ t0.drainQ = [] ∧ t0.dOut = [] ∧ t0.flips = []) := by
  unfold MIssues IdFree; simp only [siteIs_iff]; decide +kernel

/-- Contributions of 17 words for block 127 under tag 65535, and a pair of segments of which the first panel words differ or not. -/
def wContrib (tag blk : Nat) : State :=
  wTiles { mTileInitial with ctxs := [mCtxInitial, mCtxInitial, mCtxInitial, { mCtxInitial with desc := wIssued, accQueue := BitVec.ofNat 256 (wP [(0, tag), (2, blk), (3, 1)]) :: List.replicate 16 0 }], accSt := [(127, .tagged 65535 0)] } vTileInitial
def wAudit (d : BitVec 4096) (at_ : Nat) : State :=
  wTiles { mTileInitial with site := 1, pairs := [{ row := 31, col := 31, audited := true }], segRow := [(31, .ready)], segCol := [(31, .ready)], col := [(255, d)], auditAt := at_ } vTileInitial

theorem test_met_MTileWorkAndAuditComplete_1 :
    SiteIs 41 24 [.mTile]
    ∧ (∀ f ∈ [0, 3], let d := wD [(0, 1), (1, f)]; let s := wTiles { mTileInitial with ctxs := List.replicate 4 { mCtxInitial with finished := [(d, none)] } } vTileInitial; ((mtOf s 41 24).ctx 3).finished = [(d, none)] ∧ 3 < (mtOf s 41 24).ctxs.length)
    ∧ (∀ f ∈ [0, 3], let j : WJob := { ctx := 3, desc := wBoth f, words := 256 }; let s := wTiles { mTileInitial with segRow := [(31, .loading)], segCol := [(31, .loading)], loadQ := [j] } vTileInitial
      (mtOf s 41 24).loadQ = [j] ∧ loadPanels j.desc * panelWords j.desc = j.words ∧ (∀ g ∈ loadSegs j.desc, (mtOf s 41 24).segState g.1 g.2 = .loading))
    ∧ (let j : DJob := { ctx := 3, desc := wD [(0, 5), (8, 0x1000), (13, 1), (24, 2), (26, 65535)], blocks := 1, credited := 8, sum := Summary.empty 1 0 }; let s := wTiles { mTileInitial with drainQ := [j] } vTileInitial
       (mtOf s 41 24).drainQ = [j] ∧ dfld j.desc 13 1 * drainWords j.desc = j.credited ∧ bit (dfld j.desc 1 1) 0 = false ∧ (rankEp s (siteJob s 41 24) (dfld j.desc 24 2)).isSome = true ∧ IdFree s (tileEp 41 24 3))
    ∧ (∀ x ∈ [(65535, 127), (65534, 127), (65535, 128)], let s := wContrib x.1 x.2; let t0 := mtOf s 41 24; let c := t0.ctx 3; let h := (nth 0 0 (c.accQueue.take 17)).toNat
      siteRuns s 41 24 = true ∧ (upTo 4).find? (fun n => decide (17 ≤ (t0.ctx n).accQueue.length)) = some 3 ∧ 3 < t0.ctxs.length ∧ t0.flips = [] ∧ (fld h 2 1 < dfld c.desc 3 1 ↔ x.2 = 127)
        ∧ (x = (65535, 127) → t0.accState (dfld c.desc 2 1 + fld h 2 1) = .tagged (fld h 0 2) 0) ∧ fld h 0 2 = x.1) := by
  simp only [siteIs_iff]; unfold IdFree; decide +kernel

theorem test_met_MTileWorkAndAuditComplete_2 :
    (∀ x ∈ [(0, 1000), (1, 1000), (1, 1001)], let s := wAudit (BitVec.ofNat 4096 x.1) x.2; let t0 := mtOf s 41 24; let p : AuditPair := { row := 31, col := 31, audited := true }
      siteRuns s 41 24 = true ∧ t0.pairs = [p] ∧ t0.flips = [] ∧ t0.segState false p.row = .ready ∧ t0.segState true p.col = .ready ∧ (t0.auditAt ≤ s.now ↔ x.2 = 1000) ∧ pairDiff t0 p = (if x.1 = 0 then none else some 7) ∧ HearsEvents s 41)
    ∧ (let s := wTiles { mTileInitial with segCol := [(31, .regen)], regen := [(31, 0)] } vTileInitial; (mtOf s 41 24).regen = [(31, 0)] ∧ (mtOf s 41 24).flips = []) := by
  unfold HearsEvents; decide +kernel

/-- Context 3 of V-tile 5 running with a descriptor next and four words at each input port; a chain of one stage. -/
def wVRun (d : BitVec 512) (w : WaitPhase) : VCtx :=
  { vCtxInitial with desc := wIssued, queue := [d], st := .running, wait := w, ports := List.replicate 3 { vPortInitial with queue := List.replicate 4 7 }, serial := 9 }
def wVt (c : VCtx) (stage : Nat) : VTile := { vTileInitial with ctxs := [vCtxInitial, vCtxInitial, vCtxInitial, c], running := some 3, chains := [(255, [1, BitVec.ofNat 256 stage])] }
/-- A VOP over 64 columns and two rows by chain 255, its output 0 in FP32 or in HB8 under GOVERNED. -/
def wVop (gov : Bool) : BitVec 512 := wD [(0, 1), (8, if gov then 0x403000 else 0), (16, 255), (18, 1), (20, 64), (24, 2), (29, 1), (32, 3), (34, 9)]

theorem test_met_VTileDescriptorsTakeEffect :
    (∀ x ∈ [(1, wVop false, WaitPhase.none), (1, wVop true, .none), (3, wD [(0, 3), (8, 7), (9, 1), (11, 32), (12, 2 ^ 32 - 1)], .none), (4, wD [(0, 4), (8, 2), (9, 7), (10, 1)], .none), (5, wD [(0, 5), (8, 1), (10, 8)], .none),
        (2, wD [(0, 2), (12, 1)], .none), (2, wD [(0, 2), (10, 1), (12, 1)], .released)],
      let d := x.2.1; let p : GovPair := { rank := 3, tag := 9, vops := 2, got := 1, b := 7 }; let s := wTiles mTileInitial { wVt (wVRun d x.2.2) 0x0102 with pairs := [p] }; let t0 := vtOf s 41 5; let c := t0.ctx 3
      VIssues s 41 5 3 x.1 d ∧ bit (dfld d 1 1) 0 = false ∧ c.wait = x.2.2 ∧ c.tasks = [] ∧ t0.pairs = [p]
        ∧ (x.1 = 1 → governed d 0 = (d == wVop true) ∧ governed d 1 = false ∧ t0.pair? d 0 = some p)
        ∧ (x.1 = 3 → (touched d).length = 32 ∧ ∀ k ∈ touched d, k < 256) ∧ (x.1 = 4 → dfld d 10 1 = 1 ∧ dfld d 9 1 < 8 ∧ dfld d 8 1 < c.ports.length)
        ∧ (x.1 = 2 → rankEp s (siteJob s 41 5) (dfld d 8 2) = some (kettleEp 41 0)) ∧ IdFree s (tileEp 41 5 3)) := by
  unfold VIssues IdFree; simp only [siteIs_iff]; decide +kernel

/-- A VOP that has issued some of its vectors. -/
def wTask (row vec : Nat) : VTask := { newTask (wVop false) 9 [0, 0] with row := row, vec := vec }

theorem test_met_VTileVectorsAndWorkComplete_1 :
    SiteIs 41 5 [.vTile]
    ∧ (∀ x ∈ [(0, 1, 4), (1, 0, 4), (1, 1, 3)], let k := wTask x.1 x.2.1
      let c0 := { wVRun (wVop false) .none with tasks := [k], ports := List.replicate 3 { vPortInitial with queue := List.replicate x.2.2 7 } }
      let s := wTiles mTileInitial (wVt c0 (wP [(0, 1), (1, 1), (2, 1), (4, 1)])); let t0 := vtOf s 41 5; let c := t0.ctx 3; let d := k.desc; let e := nth 0 0 (vopStages t0 d)
      siteRuns s 41 5 = true ∧ issueOpen s 41 15 = true ∧ t0.running = some 3 ∧ 3 < t0.ctxs.length ∧ c.active = some k ∧ SoleTask c k ∧ t0.canIssue 3 = (x.2.2 == 4) ∧ (∀ p ∈ [0, 1, 2], vopInMode d p ≠ 4)
        ∧ (takeInputs d k ((Config.freeValue s.freeCtr).toNat % 255) c.ports).isSome = (x.2.2 == 4) ∧ vopStages t0 d = [e] ∧ isFcall e = false ∧ bits (sfld e 8 1) 1 0 = 0 ∧ bit (sfld e 1 1) 0 = true ∧ vopOut d 0 = true
        ∧ bit (sfld e 1 1) 1 = false ∧ governed d 0 = false ∧ governed d 1 = false ∧ 0 < k.out.length ∧ t0.chain = [] ∧ (k.row ≠ 0 ∨ k.vec ≠ 0))
    ∧ (let d := wD [(0, 4), (8, 2), (9, 7), (10, 1)]; let s := wTiles mTileInitial (wVt { wVRun d .none with ports := [] } 0); let t0 := vtOf s 41 5; t0.running = some 3 ∧ (t0.ctx 3).active = none ∧ t0.canIssue 3 = false) := by
  unfold SoleTask; simp only [siteIs_iff]; decide +kernel

theorem test_met_VTileVectorsAndWorkComplete_2 :
    (let r : RowRed := { serial := 9, stage := BitVec.ofNat 256 (wP [(0, 1), (8, 1), (16, 0x3F800000)]), elem := 255, rnd := 0, flush := false, lanes := List.replicate 32 (some 0x3F800000) }
     let s := wTiles mTileInitial (wVt { wVRun 0 .none with rows := [r], pend := [255, 255], tasks := [wTask 1 1] } 0); ((vtOf s 41 5).ctx 3).rows = [r] ∧ 3 < (vtOf s 41 5).ctxs.length ∧ r.elem < 256)
    ∧ (∀ x ∈ [(5, 0), (5, 3), (1, 0)], let k : VTask := { newTask (wD [(0, x.1), (1, x.2), (29, 1), (32, 3), (34, 65535)]) 9 [0, 0] with issued := true }; let s := wTiles mTileInitial (wVt { wVRun 0 .none with tasks := [wTask 1 1, k] } 0); let c := (vtOf s 41 5).ctx 3
      c.tasks.find? (taskDone c) = some k ∧ dfld k.desc 0 1 = x.1 ∧ bit (dfld k.desc 1 1) 0 = (x.2 == 3) ∧ dfld k.desc 29 1 = 1 ∧ dfld k.desc 32 2 ≠ 0xFFFF ∧ k.out[0]?.isSome = true ∧ (rankEp s (siteJob s 41 5) (dfld k.desc 32 2)).isSome = true
        ∧ (rankEp s (siteJob s 41 5) (dfld k.desc 2 2)).map Ep.port = some portKettle ∧ IdFree s (tileEp 41 5 3))
    ∧ (∀ n ∈ [1, 2], let k := { wTask 1 1 with inChain := 1 }; let v : VVec := { ctx := 3, serial := 9, row := 1, vec := 1, lanes := 32, ins := [List.replicate 32 0], t := 0, results := [], sent := true }
      let s := wTiles mTileInitial { wVt { wVRun 0 .none with tasks := [k] } (wP [(0, 10), (1, 12), (2, 1)]) with chain := [v], fRet0 := List.replicate n 0, fRet1 := List.replicate 2 0 }; let t0 := vtOf s 41 5
      let e := nth 0 0 (vopStages t0 k.desc); let need := fcallNeed (stageLinks e) v.lanes
      t0.chain = [v] ∧ v.sent = true ∧ (t0.ctx v.ctx).task? v.serial = some k ∧ (vopStages t0 k.desc)[v.results.length]? = some e ∧ v.ctx < t0.ctxs.length ∧ need = (2, 2) ∧ t0.fRet0.length = n ∧ t0.fRet1.length = 2
        ∧ (vopStages t0 k.desc).length = v.results.length + 1 ∧ bits (sfld e 8 1) 1 0 = 0 ∧ bit (sfld e 1 1) 0 = false ∧ bit (sfld e 1 1) 1 = false) := by
  unfold IdFree; decide +kernel

/-- F-tile 29 with link 1 as given and an idle link 0, or both the same. -/
def wFt (l : FLink) (both : Bool) (last : Nat) : State := { wUp with fTiles := [(siteKey 41 29, { links := [if both then l else fLinkInitial, l], last := last })] }
def wLink (ftype code words : Nat) : FLink := { fLinkInitial with desc := BitVec.ofNat 256 (wP [(0, ftype), (1, code), (14, 3), (16, 8), (20, 1)]), inQ := List.replicate words 0x7F800000, runsLeft := 1 }

theorem test_met_FTilesComputeTheirFunctions :
    SiteIs 41 29 [.fTile]
    ∧ (∀ x ∈ [(1, 9, 2, false, 1), (1, 0, 2, true, 0), (2, 1, 1, false, 1)], let s := wFt (wLink x.1 x.2.1 x.2.2.1) x.2.2.2.1 x.2.2.2.2; let t0 := ftOf s 41 29; let l := nth fLinkInitial 1 t0.links; let other := nth fLinkInitial 0 t0.links
      siteRuns s 41 29 = true ∧ issueOpen s 41 15 = true ∧ l.ready = true ∧ (other.ready = false ∨ t0.last ≠ 1) ∧ 1 < t0.links.length ∧ l.f 0 1 = x.1)
    ∧ (dataDecodeList [1 + 2 ^ 8 + 2 ^ 16]).1 = false
    ∧ (let s := wFt { wLink 2 1 0 with pos := 8, words := 1, credited := 1 } false 1; let l := nth fLinkInitial 1 (ftOf s 41 29).links
       1 < (ftOf s 41 29).links.length ∧ l.f 0 1 = 2 ∧ l.pos = l.f 16 4 ∧ l.outQ = [] ∧ l.words = l.credited ∧ l.done = false ∧ l.faulted = false ∧ bit (l.f 14 1) 0 = true)
    ∧ unpack .fp32 0x7F800001 = .nan true ∧ unpack .fp32 0xFF800000 = .inf true ∧ unpack .fp64 (2 ^ 63) = .fin true 0 (-1074) ∧ unpack .fp32 0x80000001 = .fin true 1 (-149) := by
  simp only [siteIs_iff]; decide +kernel

theorem test_met_WordCodeAndHistogramBins :
    ∀ e ∈ [(-40 : Int), -39, 20, 21], (2 : Rat) ^ e ≤ ((1 : Nat) : Rat) * 2 ^ e ∧ ((1 : Nat) : Rat) * 2 ^ e < 2 ^ (e + 1) := by
  decide +kernel

/-- A slot-table entry, a word of a circuit, an endpoint entry, and a state with one or two grain switches of die 41. -/
def wEnt (src lane job circuit : Nat) : Nat := 2 ^ 31 + src * 2 ^ 27 + lane * 2 ^ 24 + job * 2 ^ 16 + circuit
def wGw (flip : Nat) : GrainWord := { word := 7, circuit := 65535, job := 5, flip := flip }
def wGep (kind credits owed tport ctx : Nat) : GrainEp :=
  { circuit := 65535, kind := kind, border := false, stopped := false, job := 5, rate := 1, capacity := 4, tport := tport, ctx := ctx, credits := credits, owed := owed }
def wGr (l : List (Nat × GrainSite)) : State := { wUp with grain := l.map (fun e => (siteKey 41 e.1, e.2)), mTiles := [(siteKey 41 24, { mTileInitial with dOut := [7], drainQ := [{ ctx := 3, desc := 0, blocks := 1, credited := 0, sum := Summary.empty 0 0 }] })] }

theorem test_met_SlotWordsCreditsAndFramesPass_1 :
    isCompute 41 = true
    ∧ (let e := wEnt 1 3 5 65535; let s := wGr [(24, { grainInitial with slots := [(3 * 16 + 15, e)], links := [((1 * 8 + 3) * 16 + 14, wGw 0)] })]; let g := grOf s 41 24; let n := (siteNeighbour 24 0).getD 0
       s.net.holes.contains (siteKey 41 24) = false ∧ siteParted s 41 24 = false ∧ g.entry 3 15 = e ∧ entValid e = true ∧ entSrc e < 4 ∧ isEdgeSide 24 (entSrc e) = false ∧ Tab.find? ((entSrc e * 8 + entLane e) * 16 + (15 + 15) % 16) g.links = some (wGw 0)
         ∧ isEdgeSide 24 (3 / 4) = false ∧ siteNeighbour 24 (3 / 4) = some n ∧ Tab.find? ((opposite (3 / 4) * 8 + 3 % 4) * 16 + 15) (grOf s 41 n).links = none ∧ s.net.holes.contains (siteKey 41 n) = false ∧ borderOpen s 41 24 41 n = true)
    ∧ (∀ f ∈ [0, 1 + 2 ^ 8 + 2 ^ 16], let e := wEnt 0 3 5 65535; let p := wGep 2 1 0 0 3; let s := wGr [(24, { grainInitial with slots := [(23 * 16 + 15, e)], links := [((0 * 8 + 3) * 16 + 14, wGw f)], eps := [(15, p)] })]; let g := grOf s 41 24
       siteParted s 41 24 = false ∧ g.entry 23 15 = e ∧ entValid e = true ∧ entSrc e < 4 ∧ isEdgeSide 24 (entSrc e) = false ∧ Tab.find? ((entSrc e * 8 + entLane e) * 16 + (15 + 15) % 16) g.links = some (wGw f)
         ∧ g.sinkOf 5 65535 = some (15, p) ∧ 0 < p.credits ∧ siteKind 24 = some .mTile ∧ p.tport = 0 ∧ p.ctx < (mtOf s 41 24).ctxs.length ∧ (f ≠ 0 → decodePattern f = .uncorrectable ∧ f < 2 ^ 288) ∧ HearsEvents s 41)
    ∧ (let e := wEnt 4 0 5 65535; let p := wGep 1 0 0 3 3; let s := wGr [(24, { grainInitial with slots := [(23 * 16 + 15, e)], eps := [(15, p)] })]; let g := grOf s 41 24
       g.entry 23 15 = e ∧ entValid e = true ∧ entSrc e = 4 ∧ g.sourceOf (entJob e) (entCircuit e) = some (15, p) ∧ p.credits = 0 ∧ p.stopped = false ∧ (tileTake s 41 24 p).isSome = true) := by
  unfold HearsEvents; decide +kernel

theorem test_met_SlotWordsCreditsAndFramesPass_2 :
    (let p := wGep 2 0 1 0 3; let q := wGep 1 0 0 7 0; let s := wGr [(0, { grainInitial with eps := [(15, q)] }), (24, { grainInitial with eps := [(15, p)] })]
     isCompute 41 = true ∧ Tab.find? 15 (grOf s 41 24).eps = some p ∧ p.kind = 2 ∧ 0 < p.owed ∧ siteKey 41 0 ≠ siteKey 41 24 ∧ isSp (siteKind 0) = true ∧ (grOf s 41 0).sourceOf p.job p.circuit = some (15, q)
       ∧ (∀ x ∈ s.grain, (x.2.sourceOf p.job p.circuit).isSome = true → x = (siteKey 41 0, grOf s 41 0)) ∧ HearsEvents s 41)
    ∧ (∀ n ∈ [7, 8], let s := wGr [(9, { grainInitial with fails := n })]; siteKind 9 = some .xTile ∧ (dieNeighbour 41 (xEdge 9).1).isSome = true ∧ s.net.lostGroups.contains (groupKey 41 (xEdge 9).1 (xEdge 9).2) = false ∧ (grOf s 41 9).fails = n)
    ∧ (let p := (edgePeer 41 9).getD (0, 0); let eo := wEnt 0 0 5 65535; let ei := wEnt 0 0 5 1
       let s := { wUp with grain := [(siteKey 41 9, { grainInitial with xin := [(124, ei)], edgeIn := List.replicate 127 (wGw 0) }), (siteKey p.1 p.2, { grainInitial with xout := [(124, eo)], edgeOut := [wGw 0] })] }
       edgePeer 41 9 = some p ∧ siteKey p.1 p.2 ≠ siteKey 41 9 ∧ (grOf s p.1 p.2).edgeOut = [wGw 0] ∧ (grOf s p.1 p.2).xout = [(124, eo)] ∧ (grOf s 41 9).xin = [(124, ei)] ∧ entValid eo = true ∧ entValid ei = true
         ∧ entCircuit eo = (wGw 0).circuit ∧ entJob eo = (wGw 0).job ∧ (grOf s 41 9).edgeIn.length < 128) := by
  unfold HearsEvents; decide +kernel

/-- A switch element n of site 24 with a descriptor of its mode and parameters, a WATCH, of job 5. -/
def wElState (n : Nat) (x : GrainEl) : State := wGr [(24, { grainInitial with els := [(n, x)] })]
def wEl (mode p0 p1 : Nat) : GrainEl := { grainElInitial with desc := BitVec.ofNat 128 (wP [(0, 1), (1, mode), (2, p0), (3, p1), (4, 1), (5, 5)]) }

theorem test_met_SwitchElementsPassWords_1 :
    (isCompute 41 = true ∧ siteParted wUp 41 24 = false ∧ wUp.net.holes.contains (siteKey 41 24) = false)
    ∧ (∀ x ∈ [(0, 1, 1), (0, 1, 0), (1, 0, 0)], let s := wElState 1 { wEl x.1 16 16 with q := [[7], [], [], []], cred0 := x.2.1, cred1 := x.2.2, out0 := List.replicate (15 * x.1) (7, 0) }; let y := (grOf s 41 24).el 1
      y.on = true ∧ y.faulted = false ∧ y.inQ 0 = [7] ∧ y.mode = x.1 ∧ (x.1 = 0 → y.out0 = [] ∧ y.out1 = [] ∧ (y.cred0 = 0 ∨ y.cred1 = 0 ↔ x.2.2 = 0)) ∧ (x.1 = 1 → y.out0.length < y.param0 ∧ y.out1.length < y.param1))
    ∧ (let s := wElState 3 { wEl 0 16 16 with q := [[7], [8, 9], [], []] }; let y := (grOf s 41 24).el 3; y.on = true ∧ y.faulted = false ∧ y.inQ 0 = [7] ∧ y.inQ 1 = [8, 9] ∧ y.out0 = [])
    ∧ (∀ n ∈ [100000, 99999], let s := { wElState 3 { wEl 0 16 16 with skewSince := some 0 } with now := n }; let y := (grOf s 41 24).el 3
      y.on = true ∧ y.faulted = false ∧ y.watch = true ∧ y.skewSince = some 0 ∧ (0 + 100000 ≤ s.now ↔ n = 100000) ∧ 1 ≤ y.job ∧ y.job ≤ 63 ∧ HearsEvents s 41) := by
  unfold HearsEvents; decide +kernel

theorem test_met_SwitchElementsPassWords_2 :
    (∀ x ∈ [(0, some (1, 1)), (0, some (0, 2 ^ 24)), (1, some (1, 2)), (0, none)], let s := wElState 5 { wEl x.1 0 0 with q := [[7], [8], [2], []], token := x.2 }; let y := (grOf s 41 24).el 5
      y.on = true ∧ y.faulted = false ∧ y.mode = x.1 ∧ y.token = x.2 ∧ y.inQ 0 = [7] ∧ y.inQ 1 = [8] ∧ y.inQ 2 = [2] ∧ tokenOk 2 = false ∧ y.out0 = [] ∧ y.out1 = [] ∧ 1 ≤ y.job ∧ y.job ≤ 63)
    ∧ (∀ l ∈ [0, 3], let s := wElState 9 { wEl 0 4 0 with q := [[], [], [], [7]], out0 := List.replicate 15 (7, 0), taken := [l / 3, l / 3, l / 3, 0], sums := (List.replicate (l / 3) { index := 0, inputs := [0, 1, 2], word := 7 }) }; let y := (grOf s 41 24).el 9
      y.on = true ∧ y.faulted = false ∧ 3 < y.param0 ∧ y.inQ 3 = [7] ∧ y.out0.length < 16 ∧ (l = 0 → y.sums = [] ∧ 1 < y.param0) ∧ (l = 3 → ∃ m ∈ y.sums, y.sums = [m] ∧ m.index = nth 0 3 y.taken ∧ m.inputs.length + 1 = y.param0)) := by
  decide +kernel

/-- A stream of one word by its kind, CTL, address and record address, and a state in which it is active in slot 7 of DP S-tile 49. -/
def wSd (kind ctl a passes rec : Nat) : Nat :=
  wP ([(0, kind), (1, ctl), (2, 0), (6, 0), (8, 1), (10, 255), (12, 65535), (16, 1), (20, 32), (24, passes), (32, a), (40, rec)] ++ (upTo 6).map (fun k => (76 + 16 * k, 1)))
def wActive (x : Strm) (t : STile) : State := { wSpState t with engines := [(siteKey 41 49, { engineInitial with slots := [(7, x)] })] }
/-- An address of channel 0, the one of site 49, in the near page of job 5, and one of a far page of job 5. -/
def wOwn : Nat := wNear + 8 * 4096

theorem test_met_StreamsAdmitAndRequest_1 :
    SiteIs 41 49 [.dpTile, .xTile]
    ∧ (∀ x ∈ [(0, 1024 - 32), (8, 1024 - 32), (0, 1024 - 31)], let y := { wStrm (wSd 1 x.1 wOwn 1 0) with phase := if x.1 = 8 then .trigger .none else .running }; let z := wStrm (wP [(20, x.2)])
      let s := { wDram with engines := [(siteKey 41 49, { engineInitial with queue := [y], slots := [(0, z), (1, wStrm 0), (2, wStrm 0), (3, wStrm 0), (4, wStrm 0), (5, wStrm 0), (6, wStrm 0)] })] }; let e := enOf s 41 49
      e.queue = [y] ∧ Tab.find? 7 e.slots = none ∧ (∀ j, j < 7 → Tab.find? j e.slots ≠ none) ∧ engineRuns s 41 49 = true ∧ (e.reserved + y.prefetch ≤ 1024 ↔ x.2 = 1024 - 32) ∧ rankEp s y.job (y.f 6 2) = some (kettleEp 41 0) ∧ IdFree s (streamEp 41 49)) := by
  unfold IdFree; simp only [siteIs_iff]; decide +kernel

theorem test_met_StreamsAdmitAndRequest_2 :
    (∀ x ∈ [(wOwn, 0, 0), (wOwn, 0, 1), (wOwn, 1, 0), (farAddr (2 ^ 21 - 512), 0, 0), (nearAddr 40 0, 0, 0), (hostAddr 0x1000020, 0, 0)], let y := { wStrm (wSd 1 0 x.1 1 0) with issued := x.2.1 }
      let s := { wActive y wDp with dies := [(41, { dieInitial with goodCh := upTo 24, nearState := if x.2.2 = 1 then .hold else .normal }), (0x60, { dieInitial with far := [(0, { st := .good, vendor := 1, refreshRate := 0 })] })] }
      slotOf s 41 49 7 = some y ∧ y.phase = .running ∧ engineRuns s 41 49 = true ∧ (y.issued < passWords y.desc ∧ y.issued < y.pos + y.prefetch ↔ x.2.1 = 0) ∧ y.isLoad = true ∧ (x.2.1 = 0 → addrNat (streamAddress y.desc y.issued) = x.1)
        ∧ (x.1 = wOwn → spaceOf x.1 = 0 ∧ placeOf s x.1 = .near 41 (2 ^ 30 + 8 * 4096) (dpChannel 49) ∧ siteKind 49 = some .dpTile ∧ ((dieOf s 41).nearState = .hold ↔ x.2.2 = 1)
            ∧ pageAdmits (pageOf s (Place.near 41 (2 ^ 30 + 8 * 4096) (dpChannel 49)).page) y.job = true ∧ Tab.find? (nearAddr 41 (2 ^ 30 + 8 * 4096)) s.flips = none)
        ∧ (x.1 = farAddr (2 ^ 21 - 512) → spaceOf x.1 = 2 ∧ placeOf s x.1 = .far 0 (2 ^ 21 - 512) ∧ IdFree s (streamEp 41 49)) ∧ (x.1 = nearAddr 40 0 → spaceOf x.1 = 0 ∧ placeOf s x.1 = .unbacked ∧ HearsEvents s 41)
        ∧ (x.1 = hostAddr 0x1000020 → spaceOf x.1 = 8 ∧ x.1 % 64 ≠ 0)) := by
  unfold IdFree HearsEvents; decide +kernel

theorem test_met_StreamsAdmitAndRequest_3 :
    let y := wStrm (wSd 2 0 wOwn 1 0); let s := wActive y wFull; let sl := y.f 12 4 + y.issued % max 1 (y.f 16 4)
    slotOf s 41 49 7 = some y ∧ y.phase = .running ∧ y.isLoad = false ∧ engineRuns s 41 49 = true ∧ (y.issued < passWords y.desc ∧ y.issued < y.pos + y.prefetch) ∧ placeOf s (addrNat (streamAddress y.desc y.issued)) = .near 41 (2 ^ 30 + 8 * 4096) (dpChannel 49)
      ∧ (dieOf s 41).nearState ≠ .hold ∧ pageAdmits (pageOf s (Place.near 41 (2 ^ 30 + 8 * 4096) (dpChannel 49)).page) y.job = true ∧ y.f 10 1 = 0xFF ∧ s.memoryOk ∧ (spOf s 41 49).readReady sl (bits (y.f 11 1) 1 0) = true
      ∧ s.flips = [] ∧ (spOf s 41 49).gather = [] ∧ y.done = [] ∧ y.issued = y.pos := by
  unfold State.memoryOk; decide +kernel

def wStOut : StOut := { id := 3, first := 0, count := 1, rev := false }
def wStReply (typ status : Nat) : StReply := { id := 3, typ := typ, status := status, scode := false, data := if typ = 0x81 then [7] else [], word := 0 }

theorem test_met_StreamsSettleAndEnd_1 :
    SiteIs 41 49 [.dpTile]
    ∧ (∀ x ∈ [(0x81, 1, 0), (0x80, 2, 0), (0x83, 1, 0x0201)], let y := { wStrm (wSd x.2.1 0 wOwn 1 0) with outst := [wStOut], issued := 1 }; let r := wStReply x.1 x.2.2
      let s := { wActive y wDp with engines := [(siteKey 41 49, { engineInitial with slots := [(7, y)], inbox := [r] })] }; let sl := y.f 12 4 + y.pos % max 1 (y.f 16 4)
      slotOf s 41 49 7 = some y ∧ y.phase = .running ∧ y.outst = [wStOut] ∧ (enOf s 41 49).inbox = [r] ∧ r.id = wStOut.id ∧ r.typ = x.1 ∧ (x.1 = 0x81 → r.data = [7]) ∧ y.isLoad = (x.2.1 == 1) ∧ y.staged = [] ∧ y.done = []
        ∧ wStOut.first = y.pos ∧ y.f 10 1 = 0xFF ∧ s.memoryOk ∧ (spOf s 41 49).writeReady sl (bits (y.f 11 1) 1 0) = true ∧ wStOut.count = 1 ∧ r.scode = false)
    ∧ (∀ n ∈ [2000000, 1999999], let y := { wStrm (wSd 1 0 wOwn 1 0) with outst := [wStOut], issued := 1 }; let p := wOut { wMsg 2 5 wNearEp wOwn [1] with src := streamEp 41 49 } .sent none
      let s := { wActive y wDp with now := n, net := { wUp.net with nis := [(siteKey 41 49, { niInitial with out := [p] })] } }
      slotOf s 41 49 7 = some y ∧ y.outst = [wStOut] ∧ outOf s 41 49 wStOut.id = some p ∧ p.st = .sent ∧ (p.first + 2000000 ≤ s.now ↔ n = 2000000) ∧ 1 ≤ y.job ∧ y.job ≤ 63 ∧ HearsEvents s 41) := by
  unfold State.memoryOk HearsEvents; simp only [siteIs_iff]; decide +kernel

theorem test_met_StreamsSettleAndEnd_2 :
    (∀ x ∈ [(0, 0, 2 ^ 32 - 2), (0, 2, 0), (1, 1, 0), (0, 1, 0), (5, 2, 1)], let y := { wStrm (wSd 1 x.1 wOwn x.2.1 (hostAddr 0x1000000)) with issued := 1, pos := 1, passesDone := x.2.2 }; let s := wActive y wDp
      slotOf s 41 49 7 = some y ∧ y.phase = .running ∧ passFinished 41 49 y = true ∧ y.f 24 4 = x.2.1 ∧ (x.2.1 ≠ 0 ∧ y.f 24 4 ≤ y.passesDone + 1 ↔ x ≠ (0, 0, 2 ^ 32 - 2) ∧ x ≠ (0, 2, 0)) ∧ bit (y.f 1 1) 3 = false ∧ bit (y.f 1 1) 2 = (x.1 == 5) ∧ bit (y.f 1 1) 0 = (x.1 != 0)
        ∧ rankEp s y.job (y.f 2 2) = some (kettleEp 41 0) ∧ IdFree s (streamEp 41 49) ∧ spaceOf (y.f 40 8) = 8)
    ∧ (∀ o ∈ [[], [wStOut]], let y := { wStrm (wSd 1 0 wOwn 1 0) with phase := .ending 1 0x0220 0 0 0 9, outst := o }; let e := { engineInitial with slots := [(7, y)] }; let s := wActive y wDp
      slotOf s 41 49 7 = some y ∧ s.engines = [(siteKey 41 49, e)] ∧ e.slots = [(7, y)] ∧ e.queue = [] ∧ y.outst = o ∧ bit (y.f 1 1) 2 = false ∧ y.job ≠ 0 ∧ HearsEvents s 41) := by
  unfold IdFree HearsEvents; decide +kernel

/-- Core 0 of die 41 at the last word of cluster memory, with every access admitted, and a state in which that word is given: in U mode under region 1's program, or in M mode. -/
def wPc : Nat := 8388604
def wCore (m : Bool) (r5 r6 : Nat) : Core :=
  { coreInitial with st := if m then .monitor else .running, mmode := m, pc := x64 wPc, x := (List.replicate 32 (0 : BitVec 64)).set 5 (x64 r5) |>.set 6 (x64 r6), pmpcfg := List.replicate 16 31, pmpaddr := List.replicate 16 (2 ^ 54 - 1) }
def wFetch (c : Core) (w : Nat) : State :=
  { wDram with regions := [(1, { wRegion with sig := some wServeSig })], cores := [(coreKey 41 0, c)], mem := memPutList [] (clusterAddr 41 wPc) (leBytes 4 w), jobs := [(0, { wJob with windows := [] }), (5, wJob)] }
def wRun (m : Bool) (w r5 r6 : Nat) : State := wFetch (wCore m r5 r6) w

theorem test_met_CoresExecuteTheirInstructions_1 :
    (∀ f ∈ [0, 7], CoreFetches (wRun false (encR 0 6 5 f 31 0x33) 1 2) 41 0 (encR 0 6 5 f 31 0x33)) ∧ CoreFetches (wRun true (encI 4095 5 0 5 0x13) 1 2) 41 0 (encI 4095 5 0 5 0x13)
    ∧ (∀ off ∈ [0, 4096, 8190], CoreFetches (wRun false (encB off 6 5 0) (off % 3) 2) 41 0 (encB off 6 5 0)) := by
  unfold CoreFetches; decide +kernel

theorem test_met_CoresExecuteTheirInstructions_2 :
    (∀ w ∈ [encI 4088 5 3 31 0x03, encS 4088 6 5 3 0x23], let s := wRun false w (wPc - 4) 7; let c := coreOf s 41 0; let a := (c.get 5 + BitVec.ofInt 64 (toSigned 12 4088)).toNat
      CoreFetches s 41 0 w ∧ a + 8 ≤ clusterSize 41 ∧ a % 8 = 0 ∧ paOk c 41 c.dataMode a 8 1 = true ∧ paOk c 41 c.dataMode a 8 2 = true ∧ s.flips = [] ∧ s.memoryOk)
    ∧ (let w := encR 0 6 5 0 31 0x0B; CoreFetches (wRun false w 1 2) 41 0 w ∧ bits w 6 0 = 0x0B ∧ xenhCode w = some 0) ∧ (let w := encR 2 0 0 2 0 0x2B; CoreFetches (wRun false w 1 2) 41 0 w ∧ bits w 6 0 = 0x2B ∧ xenhCode w = some 1282) := by
  unfold CoreFetches State.memoryOk; refine ⟨by decide +kernel, by decide +kernel, by decide +kernel⟩

theorem test_met_CoresTrapHaltAndEnd_1 :
    (∀ a ∈ [0, 1, 2, 2 ^ 64 - 1], let s := wFetch { wCore false 1 2 with x := (List.replicate 32 (0 : BitVec 64)).set 17 (x64 a) } 0x73; CoreFetches s 41 0 0x73 ∧ (coreOf s 41 0).mmode = false ∧ (coreOf s 41 0).get 17 = x64 a
      ∧ ((regionOfCore s 41 0).map (fun r => r.2.job)).getD 0 = 5 ∧ HearsEvents s 41)
    ∧ (∀ m ∈ [true, false], let w := encR 0 6 5 7 31 0x0B; let s := wRun m w 1 2; CoreFetches s 41 0 w ∧ w < 2 ^ 32 ∧ bits w 6 0 = 0x0B ∧ xenhCode w = none ∧ (coreOf s 41 0).mmode = m) := by
  unfold CoreFetches HearsEvents; decide +kernel

theorem test_met_CoresTrapHaltAndEnd_2 :
    ∀ x ∈ [(false, 1000, true), (true, 1000, true), (false, 1001, false)], let s := wFetch { wCore x.1 1 2 with csrs := [(0x300, 8), (0x304, 136), (0x305, 0x1001)], mtimecmp := x.2.1, msip := x.2.2 } 0x13; let c := coreOf s 41 0
      isDie 41 = true ∧ 0 < coreCount 41 ∧ (c.st = .running ∨ c.st = .monitor) ∧ c.wait = .none ∧ (dieOf s 41).fenced = false ∧ (c.mmode = false ∨ bit (c.csr 0x300) 3 = true) ∧ (c.mtimecmp ≤ s.now ↔ x.2.1 = 1000) ∧ bit (c.csr 0x304) 7 = true
        ∧ c.msip = x.2.2 ∧ bit (c.csr 0x304) 3 = true ∧ coreOut s 41 0 = [] ∧ (∀ k ∈ s.kettles, ∀ w ∈ k.2.waiters, w.src ≠ coreEp 41 0) := by
  decide +kernel

/-- An Xenh word of a code, its rd, and rs1 and rs2 as registers 5 and 6 or 0. -/
def wXenh (code rd r1 r2 : Nat) : Nat := encR (code % 128) r2 r1 (code % 1024 / 128) rd (if code < 1024 then 0x0B else 0x2B)
/-- Core 0 of die 41 at an Xenh instruction, with registers 5 and 6, a byte and more of cluster memory, and its requests without a final reply. -/
def wX (m : Bool) (w r5 r6 : Nat) (at_ : Nat) (v : List Nat) (n : Nat) : State :=
  { wRun m w r5 r6 with
    mem := memPutList (memPutList [] (clusterAddr 41 wPc) (leBytes 4 w)) (clusterAddr 41 at_) (v.map (BitVec.ofNat 8))
    net := { wUp.net with nis := [(siteKey 41 blockSite, { niInitial with nextId := 4, out := List.replicate n (wOut { wMsg 3 5 wFarEp 0 [7] with src := coreEp 41 0, issuer := 0 } .sent none) })] } }

theorem test_met_CoresSendTheirRequests_1 :
    (∀ x ∈ [(3 * 2 ^ 52 + 2 ^ 21 - 512, 7, false, 2 ^ 21 - 512), (3 * 2 ^ 52 + 2 ^ 40, 31, true, 2 ^ 40)], let s := wX x.2.2.1 (encI 0 5 3 x.2.1 0x03) x.1 0 0 [] 0; let d := 2 ^ 60 + x.2.2.2
      IdFree s (coreEp 41 0) ∧ isDie 41 = true ∧ 0 < coreCount 41 ∧ paTarget 0 x.1 = .device d ∧ spaceOf d = 2 ∧ (coreOf s 41 0).mmode = x.2.2.1 ∧ placeOf s d = (if x.2.2.1 then .unbacked else .far 0 (2 ^ 21 - 512))
        ∧ coreNext s 41 0 = (s, .apLoad x.1 8 x.2.1 true false))
    ∧ (∀ n ∈ [0, 15, 16], let s := wX false (encS 0 6 5 3 0x23) (3 * 2 ^ 52 + 2 ^ 21 - 512) 7 0 [] n; let d := 2 ^ 60 + 2 ^ 21 - 512
      IdFree s (coreEp 41 0) ∧ coreNext s 41 0 = (s, .apStore (3 * 2 ^ 52 + 2 ^ 21 - 512) 8 7) ∧ paTarget 0 (3 * 2 ^ 52 + 2 ^ 21 - 512) = .device d ∧ placeOf s d = .far 0 (2 ^ 21 - 512) ∧ corePosted s 41 0 = n) := by
  unfold IdFree; refine ⟨by decide +kernel, by decide +kernel⟩

theorem test_met_CoresSendTheirRequests_2 :
    (∀ x ∈ [(0, 31, 2), (0, 0, 2), (0, 31, 7), (128, 31, 1)], let a := 8388608 - (if x.1 = 0 then 64 else 160); let s := wX false (wXenh x.1 x.2.1 5 6) a x.2.2 a [] 0; let c := coreOf s 41 0
      IdFree s (coreEp 41 0) ∧ AtXenh s 41 0 x.1 x.2.1 (x64 a) (x64 x.2.2) ∧ (rankEp s (coreJob s 41 0) x.2.2).map Ep.port = (if x.2.2 = 7 then none else some (if x.1 = 0 then portTile else portStream)) ∧ (rankEp s (coreJob s 41 0) x.2.2).map Ep.site ≠ some blockSite
        ∧ xenhOperand s 41 0 a (8388608 - a) (if x.1 = 0 then 64 else 32) 1 = none ∧ s.flips = [] ∧ corePosted s 41 0 = 0 ∧ c.wait = .none)
    ∧ (∀ op ∈ [9, 8, 0], let a := 8388608 - 64; let s := wX false (wXenh 1 31 5 6) a 3 a [op] 0; let w := wordAt s.mem (clusterAddr 41 a)
      IdFree s (coreEp 41 0) ∧ AtXenh s 41 0 1 31 (x64 a) (x64 3) ∧ (rankEp s (coreJob s 41 0) 3).map Ep.port = some portTile ∧ (rankEp s (coreJob s 41 0) 3).map Ep.site = some 49 ∧ xenhOperand s 41 0 a 32 32 1 = none ∧ s.flips = [] ∧ fld w.toNat 0 1 = op
        ∧ xenhOperand s 41 0 (a + 32) 32 32 2 = none) := by
  unfold IdFree AtXenh; refine ⟨by decide +kernel, by decide +kernel⟩

theorem test_met_CoresSendTheirRequests_3 :
    (∀ v ∈ [0, 65536], AtXenh (wX false (wXenh 129 31 5 0) v 0 0 [] 0) 41 0 129 31 (x64 v) 0)
    ∧ (∀ o ∈ [[], [wStOut]], let y := { wStrm (wSd 1 0 wOwn 1 0 + 65534 * 2 ^ 64) with outst := o }; let e := { engineInitial with slots := [(7, y)] }; let s := { wX false (wXenh 129 31 5 0) 65535 0 0 [] 0 with engines := [(siteKey 41 49, e)] }
      AtXenh s 41 0 129 31 (x64 65535) 0 ∧ e.slots = [(7, y)] ∧ e.queue = [] ∧ s.seqs = [] ∧ y.job = coreJob s 41 0 ∧ y.task = 65535 ∧ y.phase = .running ∧ y.outst = o ∧ bit (y.f 1 1) 2 = false) := by
  unfold AtXenh; refine ⟨by decide +kernel, by decide +kernel⟩

theorem test_met_CoresUseKettlesFencesAndSequences_1 :
    (∀ x ∈ [(1024, false, 2 ^ 64 - 1, 15), (1025, false, 2 ^ 31 - 1, 0), (1025, false, 1, 1), (1026, false, 2 ^ 31 - 1, 0), (1026, true, 2 ^ 31, 0), (1152, false, 1, 0), (1153, false, 2 ^ 31 - 1, 0)],
      let rd := if x.1 < 1152 then 0 else 31; let s := wX x.2.1 (wXenh x.1 rd 5 6) 0 x.2.2.1 0 [] x.2.2.2
      IdFree s (coreEp 41 0) ∧ rankEp s (coreJob s 41 0) 0 = some (kettleEp 41 0) ∧ AtXenh s 41 0 x.1 rd 0 (x64 x.2.2.1) ∧ (x.1 ≤ 1025 → signalOk (x64 x.2.2.1) = true) ∧ corePosted s 41 0 < 16 ∧ (coreOf s 41 0).mmode = x.2.1
        ∧ (x.1 = 1025 → fenceDone s (coreEp 41 0) 0 true true true = (x.2.2.2 == 0)))
    ∧ (∀ n ∈ [0, 1], ∀ k ∈ [1281, 1283, 1408], let s := wX false (wXenh k (if k = 1408 then 31 else 0) 0 0) 0 0 0 [] n; AtXenh s 41 0 k (if k = 1408 then 31 else 0) 0 0 ∧ fenceDone s (coreEp 41 0) 0 false true false = (n == 0) ∧ fenceDone s (coreEp 41 0) 0 true true true = (n == 0)) := by
  unfold IdFree AtXenh; refine ⟨by decide +kernel, by decide +kernel⟩

theorem test_met_CoresUseKettlesFencesAndSequences_2 :
    (∀ b ∈ [true, false], let s0 := wX false (wXenh 1280 0 0 0) 0 0 0 [] 0; let s := { s0 with engines := if b then [] else [(siteKey 41 49, { engineInitial with queue := [{ wStrm 0 with owner := some (coreEp 41 0, 0), serial := 0 }] })], net := { s0.net with nis := [(siteKey 41 blockSite, { niInitial with issued := 1 })] } }
      AtXenh s 41 0 1280 0 0 0 ∧ fenceDone s (coreEp 41 0) 0 true false false = b)
    ∧ (∀ b ∈ [true, false], let s0 := wX false (wXenh 1282 0 0 0) 0 0 0 [] 0; let s := { s0 with net := { s0.net with nis := if b then [] else [(siteKey 41 blockSite, { niInitial with out := [wOut { wMsg 3 5 (hostEp 0) 0 [7] with src := coreEp 41 0, issuer := 0 } .sent none] })] } }
      AtXenh s 41 0 1282 0 0 0 ∧ fenceDone s (coreEp 41 0) 0 false false true = b)
    ∧ (∀ n ∈ [0, 1], let s := { wX false 0x13 0 0 0 [] n with cores := [(coreKey 41 0, { wCore false 0 0 with wait := .fence false true false })] }; (coreOf s 41 0).wait = .fence false true false ∧ fenceDone s (coreEp 41 0) 0 false true false = (n == 0))
    ∧ (let x : HCmd := { wCmd 5 5 4 0 with stage := .ready }; let s := wIn wUp 5 x; fencing s 5 = some x ∧ x.fence ≠ 0 ∧ hostFenceDone s 5 x.fence = true ∧ behind (qOf s 5) x = false ∧ (qOf s 5).cmd? x.seq = some x) := by
  unfold AtXenh; refine ⟨by decide +kernel, by decide +kernel, by decide +kernel, by decide +kernel⟩

/-- A sequence image of model 255 with its table words at the near page, and die 41's unit with indices 0 active and 1 retired. -/
def wImage (bad : Nat) : List Nat := (leBytes 32 (wP [(2, 255), (3, bad), (4, 1), (16, wNear)])).map BitVec.toNat
def wSeqU : SeqUnit := { wServeCfg with region := 1, models := [(255, { source := 0, bytes := 32, pin := false })], table := [(0, 7)], retired := [1] }
def wXs (code rd r1 r2 r5 r6 bad : Nat) : State := { wX false (wXenh code rd r1 r2) r5 r6 (8388608 - 64) (wImage bad) 0 with seqs := [(41, wSeqU)] }

theorem test_met_CoresUseKettlesFencesAndSequences_3 :
    let a := 8388608 - 64
    (∀ bad ∈ [0, 1], let s := wXs 256 31 5 0 a 0 bad; coreSeq s 41 0 = some wSeqU ∧ s.memoryOk ∧ AtXenh s 41 0 256 31 (x64 a) 0 ∧ xenhOperand s 41 0 a 32 32 1 = none ∧ s.flips = [] ∧ imageOk wSeqU (wordAt s.mem (clusterAddr 41 a)).toNat = (bad == 0)
      ∧ Tab.find? 2 wSeqU.table = none ∧ wSeqU.retired.contains 2 = false ∧ (∀ j, j < 2 → Tab.find? j wSeqU.table ≠ none ∨ wSeqU.retired.contains j = true))
    ∧ (∀ n ∈ [0, 16383], let s := wXs 257 31 5 0 n 0 0; coreSeq s 41 0 = some wSeqU ∧ AtXenh s 41 0 257 31 (x64 n) 0 ∧ (Tab.find? n wSeqU.table).isSome = (n == 0))
    ∧ (let s := wXs 258 31 5 6 0 a 0; AtXenh s 41 0 258 31 0 (x64 a) ∧ xenhOperand s 41 0 a 32 32 1 = none ∧ imageOk wSeqU (wordAt s.mem (clusterAddr 41 a)).toNat = true)
    ∧ (let s := wXs 259 31 5 6 0 a 0; AtXenh s 41 0 259 31 0 (x64 a) ∧ xenhOperand s 41 0 a 64 32 2 = none) := by
  unfold AtXenh State.memoryOk; refine ⟨by decide +kernel, by decide +kernel, by decide +kernel, by decide +kernel⟩

/-! Single results and single steps, with the values that the spec's worked examples give, or that follow from its rules by hand. -/

/-- What holds of the next state of a command. -/
def wNext (i : Instr) (s : State) (p : State → Bool) : Bool :=
  match exec i s with
  | .next t => p t
  | _ => false

/-- The worked example of R17 and R18: die 41 at (3, 4), with four neighbours. -/
theorem test_die_41_of_the_worked_example : dieAt 3 4 = some 41 ∧ dieXY 41 = (3, 4) ∧ (upTo 4).all (fun e => (dieNeighbour 41 e).isSome) = true ∧ dieXY 44 = (6, 4) := by decide +kernel

/-- The worked example of R66 and R67: one HB8 block under PER_BLOCK, and the code that SUBN flushes. -/
def wBlock : List Nat := [0x415B3333, 0xC17E6666, 0x40400000, 0xBED70A3D, 0x3A6BEDFA] ++ List.replicate 27 0
theorem test_hb8_block_of_the_worked_example :
    blockExponent .hb8 2 0 0 (wBlock.map (unpack .fp32)) = 0x83
    ∧ ((wBlock.map (unpack .fp32)).map (fun v => (encodeElement .hb8 false 0x83 v).code)).take 6 = [0x76, 0xF8, 0x64, 0xCD, 0x07, 0x00]
    ∧ (encodeElement .hb8 true 0x83 (unpack .fp32 0x3A6BEDFA)).code = 0 ∧ (encodeElement .hb8 true 0x83 (unpack .fp32 0x3A6BEDFA)).flushed = true
    ∧ ((wBlock.map (unpack .fp32)).map histBin).take 6 = [44, 44, 42, 39, 30, 0] := by decide +kernel

/-- The worked example of R236 and R237: the check symbols of a word whose byte 31 is 1, and the error 0x02 in that byte. -/
theorem test_codeword_of_the_worked_example : checkSymbols (2 ^ 248) = 0x4078360F ∧ decodePattern (2 * 2 ^ 248) = .corrected 0 := by decide +kernel

/-- The worked example of R229 and R212: an interleaved address with 93 good dies. -/
def wGood : State := { wUp with goodDies := (upTo 96).filter (fun d => !([17, 40, 88] : List Nat).contains d), dies := (upTo 96).map (fun d => (d, { dieInitial with goodCh := upTo 24 })) }
theorem test_interleaved_address_of_the_worked_example : placeOf wGood 0x0800000123456A40 = .near 44 0x4321CA40 4 ∧ dpSite 4 = some (4 * 24 + 1) ∧ (Place.near 44 0x4321CA40 4).page = 44 * 2 ^ 15 + 537 := by decide +kernel

/-- The worked example of R250 and R251: the first and the last word of a row-major tile. -/
def wTileDesc : BitVec 1280 := BitVec.ofNat 1280 (wP ((32, 0x2C040000000) :: ([(0, 32, 0, 8), (1, 256, 512, 128), (2, 524288, 4, 4), (3, 8388608, 0, 8), (4, 0, 0, 1), (5, 0, 0, 1)] : List (Nat × Nat × Nat × Nat)).flatMap (fun e =>
  [(64 + 16 * e.1, e.2.1), (72 + 16 * e.1, e.2.2.1), (76 + 16 * e.1, e.2.2.2)])))
theorem test_stream_tile_of_the_worked_example : passWords wTileDesc = 32768 ∧ streamAddress wTileDesc 0 = 0x2C040220000 ∧ streamAddress wTileDesc 32767 = 0x2C043BA7FE0 := by decide +kernel

/-- The worked example of R355: a signal of 1 releases the observer only, a signal of 2 then both consumers, and a signal of −1 at 0 is refused. -/
def wWaits (v : Nat) (ws : List (Nat × Bool)) : State := wKettle v (ws.map (fun w => wWaiter 0 w.1 w.2))
theorem test_kettle_releases_of_the_worked_example :
    wNext (.signal (wKop 1 1)) (wWaits 0 [(2, false), (1, true), (1, false)]) (fun t => ((ktOf t 41).kettle 0).value == 1 && (ktOf t 41).waiters.map (fun w => (w.demand, w.observe)) == [(2, false), (1, false)]) = true
    ∧ wNext (.signal (wKop 1 2)) (wWaits 1 [(2, false), (1, false)]) (fun t => ((ktOf t 41).kettle 0).value == 0 && (ktOf t 41).waiters == []) = true := by decide +kernel
theorem test_kettle_underflow_of_the_worked_example : wNext (.signal (wKop 1 (2 ^ 32 - 1))) (wKettle 0 []) (fun t => ((ktOf t 41).kettle 0).value == 0 && ((eventsAt t 41).map Ev.cls).contains 1) = true := by decide +kernel

/-- A core adds −1 to 1 and a load sees its own bytes: ADDI of the RV64I base, and R391's next pc. -/
theorem test_core_adds : wNext (.coreInstruction 41 0 []) (wRun false (encI 4095 5 0 31 0x13) 1 0) (fun t => (coreOf t 41 0).get 31 == 0 && (coreOf t 41 0).pc == x64 (wPc + 4) && (coreOf t 41 0).instret == 1) = true := by decide +kernel

/-- A write then a read of the last slot of an S-tile returns the word written, and the tag empties again (R182 to R184). -/
theorem test_slot_write_fills : wNext (.write (wSpCmd 2 0 65519 1 0 0 0 0 [7]) []) (wSpState wFull) (fun t => wordAt t.mem (slotAddr 41 0 65519) == 7 && (spOf t 41 0).tag 65519 == 2) = true := by decide +kernel
theorem test_slot_read_empties : wNext (.read (wSpCmd 1 0 65535 1 0 0 0 0 []) []) (wSpState wFull) (fun t => (spOf t 41 0).tag 65535 == 0 && t.net.packets.length == 1) = true := by decide +kernel

/-- A step rounds a sum of sixteen products of 1 and 2 once: 32.0 in FP32 (R71, R84). -/
theorem test_step_accumulates : accStep 0 (List.replicate 16 (unpack .bf16 0x3F80)) (List.replicate 16 (unpack .bf16 0x4000)) = 0x42000000 := by decide +kernel

/-- The grace period of a package ended with job 5 ACTIVE, its regions in a state. -/
def wGrace (st : RState) : State := { wUp with now := 10000000002, link := { wUp.link with up := false, downTime := 1, graceRuns := true }, regions := wSt st }

theorem test_met_LinkStateChangesAreTaken_suspends :
    (∀ x ∈ [(RState.running, false), (RState.parted, true)], let s := wGrace x.1
      s.link.graceRuns = true ∧ s.link.downTime + s.link.grace * 1000000000 < s.now ∧ (jobOf s 5).st = .active ∧ s.pair.mirror = none ∧ s.cfg.load = none ∧ jobBusy s 5 = x.2)
    ∧ (∀ k, 1 ≤ k → k ≠ 5 → (jobOf (wGrace .running) k).st = .free ∧ (jobOf (wGrace .running) k).graceDue = false) := by
  refine ⟨by decide +kernel, ?_⟩
  intro k h h5
  have h0 : (0 : Nat) ≠ k := by omega
  simp [jobOf, wGrace, wUp, Tab.get, Tab.find?, jobInitial, h0, Ne.symm h5]

theorem test_met_FatalAndDieFailuresAreHeld_offset : State.reset.boot.powered = true ∧ isDie 99 = true ∧ (99 : Nat) ≠ 0x60 ∧ (dieOf State.reset 99).fenced = false ∧ (∀ d, (dieOf State.reset d).dead = none) :=
  ⟨rfl, by decide +kernel, by decide, by decide +kernel, fun _ => rfl⟩

theorem test_met_FirmwareStatusAndAttestationAreServed_spdm : let s := { wUp with boot := { wUp.boot with spdm := 3 } }
    spdmResponse 0x84 = some (4, false) ∧ spdmAllowed wUp 0x84 [] = true ∧ spdmResponse 0xE0 = some (0x60, true) ∧ spdmAllowed s 0xE0 [0, 6] = true ∧ s.boot.ident = false
      ∧ spdmResponse 0xE1 = some (0x61, false) ∧ spdmAllowed wUp 0xE1 [] = false := by decide +kernel

theorem test_met_DeviceMemoryIsDecodedAndServed_held : ∀ n ∈ [NearState.hold, .normal], let s := { wDram with dies := [(41, { dieInitial with goodCh := upTo 24, nearState := n })] }
    hdmAddress s (2 ^ 40 / 64 * 64) = some (2 ^ 59) ∧ ((hdmPlace s (2 ^ 59)).map (placeHeld s)) = some (n == .hold) := by decide +kernel

theorem test_met_HostRequestsAndSnoopsEnd_command : let c := { wCmd 0x0405 5 0 0 with reply := some (wReply 7 false false) }
    let s := { wIn wUp 5 c with host := { wHost.host with writes := [{ id := 3, addr := hostAddr 0x1000000, bytes := [1, 2], use := .command 5 c.seq, since := 0 }] } }
    s.memoryOk ∧ s.link.up = true ∧ (qOf s 5).cmds = [c] ∧ c.reply = some (wReply 7 false false) ∧ c.stage ≠ .replied := by unfold State.memoryOk; decide +kernel

theorem test_met_RepliesAndReplayAreWritten_state : let s := { wUp with jobs := [(5, { wJob with st := .faulted })] }
    (rankEp s 5 0).map Ep.port = some portKettle ∧ ktlAdmits (jobOf s 5).st = false := by decide +kernel


theorem test_met_ChannelsWarmAreLostAndAreScrubbed_hold : (dieOf (wStack .hold none 1000) 41).nearState = .hold ∧ addrMalformed wNear = false ∧ placeOf (wStack .hold none 1000) wNear = .near 41 (2 ^ 30) 16
    ∧ (dieOf (wFlip (2 ^ 32)) 41).nearState ≠ .hold := by decide +kernel

/-- A TASK_CANCEL of task 1 of job 5, and a state with one stream of that task in slot 0 of DP site 49. -/
def wCancel (stage : CmdStage) : HCmd := { wCmd 0x0302 5 0 1 with stage := stage }
def wCancelled (x : Strm) (stage : CmdStage) : State := { wIn wUp 5 (wCancel stage) with engines := [(siteKey 41 49, { engineInitial with slots := [(0, x)] })] }
def wTask1 (o : List StOut) : Strm := { wStrm (2 ^ 64) with outst := o }

theorem test_met_KettlesTasksAndTimedRegions_cancel :
    (let s := wIn wUp 5 (wCancel .started); Started s 5 7 0x0302 (wCancel .started) ∧ (wCancel .started).p 0 2 = 1 ∧ s.engines = [] ∧ taskRecording s 5 1 = false)
    ∧ (let x := wTask1 [{ id := 1, first := 0, count := 1, rev := false }]
       taskGone (cancelTask (wCancelled x .started) 5 1) 5 1 = false ∧ taskGone (cancelOn (wCancelled { x with phase := .ending 3 0 0 (2 ^ 32 - 1) 0 900 } .working) 5 1) 5 1 = false)
    ∧ (∀ o ∈ [[], [{ id := 1, first := 0, count := 1, rev := false }]], let s := wCancelled (wTask1 o) .started
       Started s 5 7 0x0302 (wCancel .started) ∧ s.engines = [(siteKey 41 49, { engineInitial with slots := [(0, wTask1 o)] })] ∧ s.seqs = [] ∧ (wTask1 o).job = 5 ∧ (wTask1 o).task = 1 ∧ (wTask1 o).phase = .running
         ∧ bit ((wTask1 o).f 1 1) 2 = false ∧ taskRecording s 5 1 = false) := by
  unfold Started; refine ⟨by decide +kernel, by decide +kernel, by decide +kernel⟩

/-- Two packets at two inputs of one router that want the same output: at the site of their tile, or on their way to it. -/
def wTwo (site : Nat) : State := { wUp with net := { wUp.net with packets := [wPacket site 49 0, { wPacket site 49 0 with port := 1 }] } }

theorem test_met_RoutersMovePacketsToNeighbours_turns :
    (∀ site ∈ [49, 48], inputAhead (wTwo site) (wPacket site 49 0) = false ∧ inputAhead (wTwo site) { wPacket site 49 0 with port := 1 } = true
      ∧ headPacket (wTwo site) 41 site 1 0 = some { wPacket site 49 0 with port := 1 } ∧ decodePattern 0 ≠ .uncorrectable)
    ∧ (let p := { wPacket blockSite 49 0 with die := 0x60 }; let s := { wUp with net := { wUp.net with packets := [p] } }
       isHub 0x60 = true ∧ (dieOf s 0x60).fenced = false ∧ s.net.holes.contains (siteKey 0x60 blockSite) = false ∧ headPacket s 0x60 blockSite 0 0 = some p ∧ inputAhead s p = false) := by decide +kernel

theorem test_met_InterfacesKeepFlowsAndTimers_joined :
    (let m := wMsg 1 5 (tileEp 41 49 0) 0 [1]; let p := { wPacket 49 49 0 with msg := m, index := 1, count := 2 }; let s := wNi 41 49 { niInitial with eject := [p], rx := [wBuf m .partialMsg false] }
       isDie 41 = true ∧ (niOf s 41 49).eject = [p] ∧ (dataDecode p.dataFlips).1 = true ∧ isRequest m = true ∧ siteParted s 41 49 = false ∧ (∃ b ∈ (niOf s 41 49).rx, sameMsg b.msg m = true) ∧ (∀ b ∈ (niOf s 41 49).rx, sameMsg b.msg m = true → b.msg.attempt = m.attempt))
    ∧ (let p := { wPacket blockSite 49 0 with die := 0x60, msg := wMsg 0x0B 0 (configEp 0x60) 0 [] }; let s := wNi 0x60 blockSite { niInitial with eject := [p] }
       isDie 0x60 = true ∧ (niOf s 0x60 blockSite).eject = [p] ∧ p.msg.cfgm = false ∧ p.msg.dst.die = 0x60 ∧ p.msg.dst.site = blockSite ∧ isRequest p.msg = true ∧ rxUsed (niOf s 0x60 blockSite) p.msg.dst < rxRoom p.msg.dst)
    ∧ (∀ r ∈ [5, 2], let m := wMsg 4 5 (tileEp 41 48 0) r []; let s := { wUp with regions := wSt .parted }; siteParted s 41 48 = true ∧ isReleaseMsg m = (r == 5))
    ∧ (let m := { wMsg 1 5 (tileEp 41 49 0) 0 [] with dep := true, seq := 1 }; let b0 := wBuf { m with seq := 0, msgId := 9 } .delivered true
       let s := wNi 41 49 { niInitial with rx := [b0, wBuf m .partialMsg true], flows := [{ src := m.src, issuer := m.issuer, dst := m.dst, last := 0, time := 0 }] }
       completeBuf s 41 49 m.src m.issuer m.msgId = some (wBuf m .partialMsg true) ∧ flowBusy s m = true ∧ flowBusy (wNi 41 49 { niInitial with rx := [wBuf m .partialMsg true] }) m = false) := by
  refine ⟨by decide +kernel, by decide +kernel, by decide +kernel, by decide +kernel⟩

theorem test_met_KettleWaitsAreMetAndReleased_signal :
    ∀ x ∈ [(3, 4, true), (6, 2 ^ 32 - 1, false)], let m := wKop 1 x.2.1; let s := wKettle x.1 [wWaiter 0 7 false]; let v := x.1 + (if x.2.2 then 4 else 0) - (if x.2.2 then 0 else 1)
      Admitted s m ∧ m.cfgm = false ∧ m.typ = 4 ∧ m.dst.port = portKettle ∧ m.dst.site = blockSite ∧ (ktOf s m.dst.die).waiters = [wWaiter 0 7 false] ∧ IdFree s m.dst ∧ v < 2 ^ 31 ∧ kopOf m = 1 ∧ koperandOf m ≠ 0 ∧ koperandOf m ≠ 2 ^ 31
        ∧ (((ktOf s m.dst.die).kettle m.dst.index).value : Int) + toSigned 32 (koperandOf m) = v ∧ (∀ e ∈ s.regions, e.2.timed = none) ∧ (7 ≤ v ↔ x.2.2 = true) := by
  unfold Admitted IdFree; decide +kernel

theorem test_met_WaitsAreWithdrawnAndReleased_trigger : let m := { wMsg 4 5 (streamEp 41 49) 5 [] with issuer := 0 }
    let x := { wStrm (2 ^ 64) with phase := .trigger .sent }; let s := { wUp with engines := [(siteKey 41 49, { engineInitial with slots := [(0, x)] })] }
    Admitted s m ∧ m.cfgm = false ∧ m.typ = 4 ∧ kopOf m = 5 ∧ m.dst.site ≠ blockSite ∧ m.dst.port = portStream ∧ slotOf s 41 49 m.issuer = some x ∧ x.phase = .trigger .sent := by
  unfold Admitted; decide +kernel


/-- A V-tile of die 41 whose last context holds n descriptors. -/
def wVKwait : BitVec 512 := wD [(0, 2), (12, 2 ^ 31 - 1)]
def wVQueued (n : Nat) : State := wTiles mTileInitial { vTileInitial with ctxs := [vCtxInitial, vCtxInitial, vCtxInitial, { vCtxInitial with desc := wIssued, queue := List.replicate n wVKwait }] }

theorem test_met_ClusterMessagesAreTaken_vtile :
    (∀ x ∈ [(wVKwait, 15), (wVKwait, 16), (wD [(0, 7)], 0)], let m := wIssue 41 5 3 x.1; let s := wVQueued x.2; let v0 := vtOf s 41 5; let c := v0.ctx 3
      Admitted s m ∧ m.cfgm = false ∧ m.typ = 5 ∧ m.dst.port ≠ portStream ∧ siteKind m.dst.site = some .vTile ∧ m.dst.index = 3 ∧ 3 < v0.ctxs.length ∧ dfld c.desc 0 1 = 1 ∧ dfld c.desc 1 1 = 1 ∧ c.queue.length = x.2 ∧ isHeld s m = false
        ∧ (vDescOk v0.chains (issueDesc m) = true ∧ (v0.govAll [issueDesc m]).length ≤ 8 ∧ ranksOk s (siteJob s 41 5) (vDescRanks (issueDesc m)) = true ↔ x.1 = wVKwait))
    ∧ (let m := wMsg 6 5 (tileEp 41 5 0) 65535 [0]; let s := wTiles mTileInitial { wColl with coll := List.replicate 8 { collectorInitial with count := 2 } }; let t0 := vtOf s 41 5
       Admitted s m ∧ m.cfgm = false ∧ m.typ = 6 ∧ (upTo 8).find? (fun n => collFld t0 n 0 2 == 65535 && 65535 != 0) = some 7 ∧ 7 < t0.coll.length ∧ (nth collectorInitial 7 t0.coll).count + 1 = collFld t0 7 2 2) := by
  unfold Admitted; refine ⟨by decide +kernel, by decide +kernel⟩

/-- S-tile 0 with a channel that has waited at slot 65535's bank. -/
def wBusy : STile := { wFull with chans := [(7, wChan 0 1 1)], waits := [(1, { since := 0, refused := 0 })], stamp := 3 }
/-- Sixteen COUNTED gather entries of slots 0 to 15. -/
def wSixteen : List GatherEntry := (upTo 16).map (fun k => { slot := k, bytes := 7, mask := 255, counted := true, tagMode := 0, writeBack := false })

theorem test_met_ScratchSlotsAreReadAndWritten_contention :
    (∀ x ∈ [(wSpCmd 1 0 65535 1 0 0 0 0 [], 1), (wSpCmd 2 12 65535 1 0 0 0 0 [7], 2)], let m := x.1; let s := wSpState wBusy; let t0 := spOf s 41 0; let b : SpCmd := { msg := m, next := 0, got := [], since := s.now, heldSent := false }
      bit (spFlags m) 0 = false ∧ s.memoryOk ∧ SpTakes s m x.2 ∧ t0.cmds = [] ∧ (x.2 = 1 → t0.readReady (spSlot m) (spMode m) = true) ∧ (x.2 = 2 → t0.writeReady (spSlot m) (spMode m) = true)
        ∧ (cmdAcc t0 b).all (spWins s 41 0) = false)
    ∧ (∀ t ∈ [wDp, wFull], Uncontended (wSpState t) 41 0) ∧ spDefers (wSpCmd 1 0 65535 1 0 0 0 0 []) = false
    ∧ (let m := wSpCmd 4 8 65535 0 0 0 16 16 [7]; let g : GatherEntry := { slot := 65535, bytes := 7, mask := 255, counted := false, tagMode := 2, writeBack := false }; let s := wSpState { wFull with gatherMode := true, gather := [g] }; let t0 := spOf s 41 0
       SpTakes s m 4 ∧ t0.gatherMode = true ∧ t0.cmds = [] ∧ t0.gather = [g] ∧ g.slot = spSlot m ∧ g.tagMode = spMode m ∧ g.mask ||| narrowMask m ≠ 2 ^ 32 - 1)
    ∧ (let m := wSpCmd 4 8 65535 0 0 0 16 16 [7]; let s := wSpState { wFull with gatherMode := true, gather := wSixteen }; let t0 := spOf s 41 0
       SpTakes s m 4 ∧ t0.gatherMode = true ∧ t0.cmds = [] ∧ t0.gather.length = 16 ∧ ∀ g ∈ t0.gather, g.counted = true ∧ g.writeBack = false ∧ g.mask ≠ 2 ^ 32 - 1 ∧ g.slot ≠ spSlot m) := by
  refine ⟨by unfold SpTakes Admitted State.memoryOk; decide +kernel, by unfold Uncontended; decide +kernel, by decide +kernel, by unfold SpTakes Admitted; decide +kernel, by unfold SpTakes Admitted; decide +kernel⟩

theorem test_met_QuiresGatherAndPatrol_banks :
    (∀ g ∈ [wGathers, []], let s := wSpState { wFull with gather := g }; let t0 := spOf s 41 0
      t0.chans = [] ∧ t0.cmds = [] ∧ engineAccs s 41 0 = [] ∧ (∀ g ∈ t0.gather, g.mask ≠ 2 ^ 32 - 1 ∧ (g.counted = true → g.writeBack = false)) ∧ t0.gather.length ≤ 16)
    ∧ (spOf (wSpState { wFull with cmds := [wNarrow], gatherMode := true }) 41 0).gatherMode = true
    ∧ (eligible (wSpState wBusy) 41 0 15 ≠ [] ∧ siteParted (wSpState wBusy) 41 0 = false ∧ (wSpState wBusy).memoryOk ∧ eligible (wSpState { wFull with patrol := [(15, 4095)] }) 41 0 15 = []) := by
  refine ⟨by decide +kernel, by decide +kernel, by unfold State.memoryOk; decide +kernel⟩

theorem test_met_BanksGrantByClassAndAge_writes :
    (let w : SpAcc := { src := 9, id := 0, slot := 65535, write := some 7, mode := 2, wide := false }; let r : SpAcc := { src := 1, id := 0, slot := 65519, write := none, mode := 2, wide := false }
     grantChoice wFull [r, w] = some r ∧ grantChoice { wFull with waits := [(9, { since := 0, refused := 16 })] } [r, w] = some w
       ∧ grantChoice { wFull with waits := [(9, { since := 0, refused := 16 })] } [{ r with slot := 65535 }, w] = some { r with slot := 65535 })
    ∧ engineAccs (wSpState wFull) 41 0 = []
    ∧ (let c := { wChan 0 1 1 with desc := wD [(0, 3), (4, 255), (5, 2), (12, 65534), (16, 1), (20, 2), (24, 2), (28, 1), (32, 1)], fifo := [9] }; let s := wSpState { wFull with chans := [(7, c)] }; let t0 := spOf s 41 0
       siteParted s 41 0 = false ∧ t0.chans = [(7, c)] ∧ c.live = true ∧ c.writes = true ∧ c.blockRows = 0 ∧ c.f 16 4 ≠ 0 ∧ c.pos + 1 = c.runWords ∧ c.rob = [] ∧ c.fifo = [9] ∧ s.memoryOk
         ∧ stridedSlot t0 c c.pos = 65535 ∧ t0.writeReady 65535 (bits (c.f 5 1) 1 0) = true)
    ∧ (let c := { wChan 0 2 2 with desc := wD [(0, 3), (4, 255), (12, 65534), (16, 1), (20, 2), (24, 2), (28, 1), (32, 2)], fifo := [9] }; let s := wSpState { wFull with chans := [(7, c)] }
       Tab.get chanInitial 7 (spOf s 41 0).chans = c ∧ siteParted s 41 0 = false ∧ c.live = true ∧ 0 < c.runWords ∧ c.pos = c.runWords ∧ c.rob = [] ∧ c.writes = true ∧ c.fifo ≠ []) := by
  refine ⟨by decide +kernel, by decide +kernel, by unfold State.memoryOk; decide +kernel, by decide +kernel⟩

theorem test_met_MTileStepsAccumulateByAge_switch :
    (let c := wRunning (wMma 0) .none (some wStep); let s := wTiles { wMt c with flips := [(8192 + 127 * 16 + 15, 1 + 2 ^ 8 + 2 ^ 16)] } vTileInitial; let t0 := mtOf s 41 24
     siteRuns s 41 24 = true ∧ t0.running = some 3 ∧ t0.switchTo = none ∧ t0.canIssue 3 = true ∧ (t0.ctx 3).next = some (wMma 0) ∧ (t0.ctx 3).sweep = some wStep ∧ stepBlock (t0.ctx 3) (wMma 0) wStep = 127
       ∧ (storeDecode t0.flips (8192 + 127 * 16) 16).2.1 = false)
    ∧ (∀ x ∈ [none, some 1], let s := wTiles { wChooser (some 3) 2 with switchTo := x } { wChooserV (some 3) 2 with switchTo := x }
      siteRuns s 41 24 = true ∧ siteRuns s 41 5 = true ∧ (mtOf s 41 24).running = some 3 ∧ (vtOf s 41 5).running = some 3 ∧ 3 < (mtOf s 41 24).ctxs.length ∧ 3 < (vtOf s 41 5).ctxs.length ∧ (mtOf s 41 24).switchTo = x ∧ (vtOf s 41 5).switchTo = x)
    ∧ (let s := wTiles { wMt (wRunning (wMma 0) .none (some { wStep with step := 0 })) with switchTo := some 1 } vTileInitial; issueOpen s 41 15 = true ∧ ((mtOf s 41 24).ctx 3).sweep.isSome = true ∧ (mtOf s 41 24).switchTo ≠ none) := by
  decide +kernel

theorem test_met_MTileDescriptorsWaitAndDrain_signals :
    (∀ x ∈ [(3, wD [(0, 3), (1, 3), (9, 31), (10, 1)]), (4, wD [(0, 4), (1, 3), (8, 127), (9, 1)]), (6, wD [(0, 6), (1, 3), (8, 127), (9, 1), (10, 65535), (12, 3), (14, 1)])],
      let s := wTiles (wMt (wRunning x.2 .none none)) vTileInitial
      MIssues s 41 24 3 x.1 x.2 ∧ bit (dfld x.2 1 1) 0 = true ∧ rankEp s (siteJob s 41 24) (dfld x.2 2 2) = some (kettleEp 41 0) ∧ IdFree s (tileEp 41 24 3))
    ∧ (let j : WJob := { ctx := 1, desc := wBoth 0, words := 9 }; let s := wTiles { wMt (wRunning (wD [(0, 2), (9, 1), (11, 240), (12, 8)]) .none none) with segRow := [], loadQ := [j] } vTileInitial; let t0 := mtOf s 41 24
       MIssues s 41 24 3 2 (wD [(0, 2), (9, 1), (11, 240), (12, 8)]) ∧ t0.loadQ = [j] ∧ (t0.ctx j.ctx).wQueue = [] ∧ ∀ g ∈ loadSegs (wD [(0, 2), (9, 1), (11, 240), (12, 8)]), t0.segState g.1 g.2 = .empty)
    ∧ (let d := wD [(0, 5), (8, 0x1000), (12, 127), (13, 1), (24, 2)]; let j : DJob := { ctx := 1, desc := d, blocks := 1, credited := 0, sum := Summary.empty 1 0 }; let s := wTiles { wMt (wRunning d .none none) with drainQ := [j] } vTileInitial
       MIssues s 41 24 3 5 d ∧ bit (dfld d 14 1) 1 = false ∧ (mtOf s 41 24).drainQ = [j] ∧ dfld j.desc 13 1 = j.blocks)
    ∧ (let d := wD [(0, 4), (8, 127), (9, 1)]; let s := wTiles { wMt (wRunning d .none none) with accSt := [(127, .tagged 1 0)] } vTileInitial; MIssues s 41 24 3 4 d ∧ (mtOf s 41 24).accState 127 ≠ .accum) := by
  unfold MIssues IdFree; simp only [siteIs_iff]; decide +kernel

theorem test_met_MTileWorkAndAuditComplete_more :
    (∀ k ∈ [0, 9], let d := wD [(0, 1), (1, 3)]; let s := wTiles { mTileInitial with ctxs := List.replicate 4 { mCtxInitial with finished := [(d, some k)] } } vTileInitial
      ((mtOf s 41 24).ctx 3).finished = [(d, some k)] ∧ 3 < (mtOf s 41 24).ctxs.length ∧ (rankEp s (siteJob s 41 24) k = none ↔ k = 9) ∧ rankEp s (siteJob s 41 24) 0 = some (kettleEp 41 0) ∧ IdFree s (tileEp 41 24 3))
    ∧ (let j : DJob := { ctx := 3, desc := wD [(0, 5), (1, 3), (8, 0x1000), (13, 1), (24, 65535), (26, 65535)], blocks := 1, credited := 8, sum := Summary.empty 1 0 }; let s := wTiles { mTileInitial with drainQ := [j] } vTileInitial
       (mtOf s 41 24).drainQ = [j] ∧ dfld j.desc 13 1 * drainWords j.desc ≤ j.credited ∧ rankEp s (siteJob s 41 24) (dfld j.desc 24 2) = none ∧ bit (dfld j.desc 1 1) 0 = true)
    ∧ (let s0 := wAudit 0 1000; let p : AuditPair := { row := 31, col := 31, audited := true }; let s := { s0 with mTiles := s0.mTiles.map (fun e => (e.1, { e.2 with flips := [(weightKey true 255 15, 1 + 2 ^ 8 + 2 ^ 16)] })) }; let t0 := mtOf s 41 24
       siteRuns s 41 24 = true ∧ t0.pairs = [p] ∧ p.audited = true ∧ pairReadable t0 p = false ∧ t0.auditAt ≤ s.now ∧ t0.segState false p.row = .ready ∧ t0.segState true p.col = .ready ∧ HearsEvents s 41) := by
  unfold IdFree HearsEvents; decide +kernel

/-- A VOP with output 1 alone, in HB8 under GOVERNED or in FP32, and one with both outputs governed. -/
def wVop1 (gov : Bool) : BitVec 512 := wD [(0, 1), (12, if gov then 0x403000 else 0), (16, 255), (18, 1), (20, 64), (24, 2), (29, 2), (36, 3), (38, 9)]
def wVop2 : BitVec 512 := wD [(0, 1), (8, 0x403000), (12, 0x403000), (16, 255), (18, 1), (20, 64), (24, 2), (29, 3), (32, 3), (34, 9), (36, 3), (38, 10)]

theorem test_met_VTileDescriptorsTakeEffect_governed :
    (∀ x ∈ [(0, wVop true, true), (1, wVop1 true, true), (0, wVop true, false), (1, wVop1 true, false)], let d := x.2.1; let p : GovPair := { rank := 3, tag := 9, vops := 2, got := 1, b := 7 }
      let s := wTiles mTileInitial { wVt (wVRun d .none) 0x0102 with pairs := if x.2.2 then [p] else [] }; let t0 := vtOf s 41 5
      VIssues s 41 5 3 1 d ∧ governed d x.1 = true ∧ governed d (1 - x.1) = false ∧ t0.pair? d x.1 = (if x.2.2 then some p else none))
    ∧ (let d := wVop2; let p : GovPair := { rank := 3, tag := 9, vops := 2, got := 1, b := 7 }; let s := wTiles mTileInitial { wVt (wVRun d .none) 0x0102 with pairs := [p, { p with tag := 10 }] }; let t0 := vtOf s 41 5
       VIssues s 41 5 3 1 d ∧ governed d 0 = true ∧ governed d 1 = true ∧ t0.pairs = [p, { p with tag := 10 }] ∧ t0.pair? d 0 = some p ∧ t0.pair? d 1 = some { p with tag := 10 })
    ∧ (let d := wD [(0, 4), (8, 2), (9, 6), (10, 2)]; let s := wTiles mTileInitial (wVt (wVRun d .none) 0); let c := (vtOf s 41 5).ctx 3
       VIssues s 41 5 3 4 d ∧ dfld d 9 1 + dfld d 10 1 ≤ 8 ∧ c.tasks = [] ∧ dfld d 8 1 < c.ports.length ∧ (nth vPortInitial (dfld d 8 1) c.ports).queue.length / 4 < dfld d 10 1)
    ∧ (∀ x ∈ [(3, wD [(0, 3), (1, 3), (8, 7), (9, 1), (11, 32)], WaitPhase.none), (4, wD [(0, 4), (1, 3), (8, 2), (9, 7), (10, 1)], .none), (2, wD [(0, 2), (1, 3), (12, 1)], .released)],
      let d := x.2.1; let s := wTiles mTileInitial (wVt (wVRun d x.2.2) 0); let c := (vtOf s 41 5).ctx 3
      VIssues s 41 5 3 x.1 d ∧ bit (dfld d 1 1) 0 = true ∧ c.wait = x.2.2 ∧ c.tasks = [] ∧ rankEp s (siteJob s 41 5) (dfld d 2 2) = some (kettleEp 41 0) ∧ IdFree s (tileEp 41 5 3)
        ∧ (x.1 = 4 → 4 * dfld d 10 1 ≤ (nth vPortInitial (dfld d 8 1) c.ports).queue.length ∧ dfld d 8 1 < c.ports.length ∧ dfld d 9 1 + dfld d 10 1 ≤ 8)) := by
  refine ⟨?_, ?_, ?_, ?_⟩ <;> (unfold VIssues; simp only [siteIs_iff]; (try unfold IdFree); decide +kernel)

theorem test_met_VTileVectorsAndWorkComplete_output1 :
    (let k : VTask := newTask (wVop1 false) 9 [0, 0]; let s := wTiles mTileInitial (wVt { wVRun (wVop1 false) .none with tasks := [k] } (wP [(0, 1), (1, 2), (2, 1), (4, 1)])); let t0 := vtOf s 41 5; let c := t0.ctx 3; let d := k.desc; let e := nth 0 0 (vopStages t0 d)
     t0.switchTo = none ∧ c.active = some k ∧ SoleTask c k ∧ t0.canIssue 3 = true ∧ (∀ i ∈ [0, 1, 2], vopInMode d i ≠ 4) ∧ (takeInputs d k ((Config.freeValue s.freeCtr).toNat % 255) c.ports).isSome = true
       ∧ vopStages t0 d = [e] ∧ isFcall e = false ∧ bits (sfld e 8 1) 1 0 = 0 ∧ bit (sfld e 1 1) 1 = true ∧ vopOut d 1 = true ∧ bit (sfld e 1 1) 0 = false ∧ governed d 0 = false ∧ governed d 1 = false ∧ k.out.length = 2 ∧ t0.chain = [])
    ∧ (∀ x ∈ [none, some 1], let s := wTiles mTileInitial { wVt { wVRun (wD [(0, 4), (8, 2), (9, 7), (10, 1)]) .none with ports := [] } 0 with switchTo := x }; let t0 := vtOf s 41 5
      t0.running = some 3 ∧ t0.switchTo = x ∧ (t0.ctx 3).active = none ∧ t0.canIssue 3 = false)
    ∧ (∀ x ∈ [(2, 3, 0, 2), (0, 0, 2, 0xFFFF), (1, 3, 0xFFFF, 0xFFFF)], let k : VTask := { newTask (wD [(0, 1), (1, x.2.1), (29, x.1), (32, x.2.2.1), (36, x.2.2.2), (38, 65535)]) 9 [0, 0] with issued := true, flushed := 1 }
      let s := wTiles mTileInitial (wVt { wVRun 0 .none with tasks := [wTask 1 1, k] } 0); let c := (vtOf s 41 5).ctx 3
      c.tasks.find? (taskDone c) = some k ∧ dfld k.desc 0 1 = 1 ∧ dfld k.desc 29 1 = x.1 ∧ (x.1 = 2 → dfld k.desc 36 2 ≠ 0xFFFF ∧ (rankEp s (siteJob s 41 5) (dfld k.desc 36 2)).isSome = true)
        ∧ (x.1 = 0 → dfld k.desc 32 2 ≠ 0xFFFF ∧ (rankEp s (siteJob s 41 5) (dfld k.desc 32 2)).isSome = true) ∧ (x.1 = 1 → dfld k.desc 32 2 = 0xFFFF ∧ dfld k.desc 36 2 = 0xFFFF ∧ bit (dfld k.desc 1 1) 0 = true) ∧ IdFree s (tileEp 41 5 3)) := by
  unfold SoleTask IdFree; decide +kernel


theorem test_met_SlotWordsCreditsAndFramesPass_3 :
    (let s := wGr [(24, { grainInitial with links := [((1 * 8 + 3) * 16 + 14, wGw 0)] })]; (grOf s 41 ((siteNeighbour 24 0).getD 0)).linkFree (opposite (3 / 4) * 8 + 3 % 4) 15 = true)
    ∧ (let e := wEnt 4 0 5 65535; let p := wGep 1 1 0 7 0; let c := wChan 0 2 1; let g0 := wGr [(0, { grainInitial with slots := [(0 * 16 + 15, e)], eps := [(15, p)] })]
       let s := { g0 with sTiles := [(siteKey 41 0, { wFull with chans := [(7, { c with fifo := [9] })] })] }; let g := grOf s 41 0; let n := (siteNeighbour 0 0).getD 0
       g.entry 0 15 = e ∧ entValid e = true ∧ entSrc e = 4 ∧ isSp (siteKind 0) = true ∧ g.sourceOf (entJob e) (entCircuit e) = some (15, p) ∧ (tileTake s 41 0 p).isSome = true ∧ 0 < p.credits ∧ p.stopped = false ∧ (dieOf s 41).fencedSites.contains 0 = false
         ∧ isEdgeSide 0 0 = false ∧ siteNeighbour 0 0 = some n ∧ (grOf s 41 n).linkFree (opposite (0 / 4) * 8 + 0 % 4) 15 = true ∧ s.net.holes.contains (siteKey 41 n) = false ∧ borderOpen s 41 0 41 n = true)
    ∧ (∀ src ∈ [0, 3], let e := wEnt src 3 5 65535; let p := wGep 2 1 1 0 3; let s := wGr [(48, { grainInitial with slots := [(23 * 16 + 15, e)], eps := [(15, p)] })]; let g := grOf s 41 48
       s.net.holes.contains (siteKey 41 48) = false ∧ siteParted s 41 48 = false ∧ g.entry 23 15 = e ∧ entValid e = true ∧ g.sinkOf (entJob e) (entCircuit e) = some (15, p) ∧ 0 < p.owed ∧ entSrc e < 4 ∧ isEdgeSide 48 (entSrc e) = false
         ∧ ((siteNeighbour 48 (entSrc e)).isSome = true ↔ src = 0) ∧ (siteNeighbour 48 0).all (fun k => !s.net.holes.contains (siteKey 41 k) && borderOpen s 41 48 41 k) = true ∧ 1 ≤ entJob e ∧ entJob e ≤ 63 ∧ HearsEvents s 41) := by
  refine ⟨by decide +kernel, by decide +kernel, by unfold HearsEvents; decide +kernel⟩

theorem test_met_SlotWordsCreditsAndFramesPass_4 :
    (∀ lane ∈ [0, 1], let e := wEnt 5 lane 5 65535; let s := wGr [(24, { grainInitial with slots := [(26 * 16 + 15, e)], els := [(0, wEl 0 4 4), (2, { wEl 0 4 4 with owed := [1, 0, 0, 0] })] })]; let g := grOf s 41 24
       g.entry 26 15 = e ∧ entValid e = true ∧ tableElement 26 = some (2, 0) ∧ 0 < (g.el 2).owed.length ∧ 0 < nth 0 0 (g.el 2).owed ∧ srcElement (entSrc e) (entLane e) = some (0, lane))
    ∧ (∀ x ∈ [(0, 1), (24, 3)], let e := wEnt 4 0 5 65535; let q := wGep 1 0 0 x.2 3; let s := wGr [(x.1, { grainInitial with slots := [(15 * 16 + 15, e)], eps := [(15, q)], backs := [(15 * 16 + 15, 1)] })]; let g := grOf s 41 x.1
       g.entry 15 15 = e ∧ entValid e = true ∧ entSrc e = 4 ∧ 0 < Tab.get 0 (15 * 16 + 15) g.backs ∧ g.sourceOf (entJob e) (entCircuit e) = some (15, q) ∧ (isSp (siteKind x.1) = true ↔ x.1 = 0) ∧ (x.1 = 24 → siteKind 24 = some .mTile ∧ (mtOf s 41 24).drainQ.length = 1)
         ∧ creditTake { s with grain := [(siteKey 41 x.1, { g with backs := [] })] } 41 x.1 15 15 e = none)
    ∧ (∀ n ∈ [7, 8], let s := { wUp with grain := [(siteKey 0x60 23, { grainInitial with fails := n })] }; isHub 0x60 = true ∧ (dieNeighbour 0x60 (groupAt 0x60 23).1).isSome = true ∧ (grOf s 0x60 23).fails = n
        ∧ s.net.lostGroups.contains (groupKey 0x60 (groupAt 0x60 23).1 (groupAt 0x60 23).2) = false) := by
  refine ⟨by decide +kernel, by decide +kernel, by decide +kernel⟩

theorem test_met_SwitchElementsPassWords_3 :
    (∀ x ∈ [([], true), ([(4, 15, 3)], true), ([(3, 0, 0), (4, 15, 3)], false)], let s := wElState 9 { wEl 0 4 0 with q := [[8], [], [], [7]], arrivals := x.1 }; let y := (grOf s 41 24).el 9
      y.on = true ∧ y.faulted = false ∧ 3 < y.param0 ∧ y.inQ 3 = [7] ∧ y.out0.length < 16 ∧ y.sums = [] ∧ y.mergeTurn 3 = x.2)
    ∧ (∀ v ∈ [0, 1], let s := wElState 5 { wEl 1 0 0 with q := [[7], [8], [2], []], token := some (v, 2 ^ 24) }; let y := (grOf s 41 24).el 5; y.on = true ∧ y.mode ≠ 0 ∧ y.token = some (v, 2 ^ 24) ∧ y.inQ 0 = [7] ∧ y.out0 = [] ∧ y.out1 = []) := by
  refine ⟨by decide +kernel, by decide +kernel⟩

/-- A stream of n words in dimension 0 with a stride. -/
def wLine (kind a n stride : Nat) : Nat := wSd kind 0 a 1 0 - 2 ^ (8 * 76) + n * 2 ^ (8 * 76) + stride * 2 ^ (8 * 64)

theorem test_met_StreamsAdmitAndRequest_4 :
    (∀ x ∈ [(hostAddr 0x1000000, 32, some false), (hostAddr 0x1000020, 2 ^ 64 - 32, some true), (hostAddr 0x1000020, 32, none), (2 ^ 59 * 3 + 41 * 2 ^ 29 + 48 * 2 ^ 21, 32, some false), (farAddr (2 ^ 21 - 512), 0, none), (wOwn, 0, none)],
      let y := wStrm (wLine 1 x.1 2 x.2.1); let s := wActive y wDp; let a := addrNat (streamAddress y.desc 0)
      slotOf s 41 49 7 = some y ∧ remoteNext s 41 49 = some 7 ∧ y.isLoad = true ∧ a = x.1 ∧ 0 < min (passWords y.desc) (y.pos + y.prefetch) ∧ IdFree s (streamEp 41 49)
        ∧ linePair y.desc 0 (min (passWords y.desc) (y.pos + y.prefetch)) = x.2.2 ∧ spaceOf a = a / 2 ^ 59 % 16
        ∧ (spaceOf a = 2 → (placeOf s a).server.isSome = true ∧ placeOf s a ≠ .other ∧ ownPlace 41 49 (placeOf s a) = false))
    ∧ (let y := wStrm (wSd 1 0 wOwn 1 0); let s := { wActive y wDp with engines := [(siteKey 41 49, { engineInitial with slots := [(6, y), (7, y)] })] }; remoteNext s 41 49 ≠ some 7 ∧ remoteNext { s with engines := [(siteKey 41 49, { engineInitial with slots := [(6, y), (7, y)], remoteTurn := 6 })] } 41 49 = some 7) := by
  unfold IdFree; refine ⟨by decide +kernel, by decide +kernel⟩

theorem test_met_StreamsAdmitAndRequest_5 :
    (∀ x ∈ [wOwn, farAddr (2 ^ 21 - 512)], let y := wStrm (wSd 2 0 x 1 0); let s := wActive y wFull; let a := addrNat (streamAddress y.desc y.issued); let t0 := spOf s 41 49
      (enOf s 41 49).slots = [(7, y)] ∧ t0.chans = [] ∧ t0.cmds = [] ∧ t0.gather = [] ∧ y.f 10 1 = 0xFF ∧ y.staged = [] ∧ y.issued < min (passWords y.desc) (y.pos + y.prefetch) ∧ spaceOf a ≤ 2 ∧ y.isLoad = false ∧ engineRuns s 41 49 = true
        ∧ (x ≠ wOwn → placeOf s a ≠ .other ∧ ownPlace 41 49 (placeOf s a) = false ∧ (placeOf s a).server.isSome = true ∧ IdFree s (streamEp 41 49)))
    ∧ SiteIs 41 9 [.xTile]
    ∧ (let y := wStrm (wSd 2 0 (farAddr (2 ^ 21 - 512)) 1 0); let s := { wDram with engines := [(siteKey 41 9, { engineInitial with slots := [(7, y)], xIn := [(y.f 12 2, 9)] })] }; let a := addrNat (streamAddress y.desc y.issued)
       (enOf s 41 9).slots = [(7, y)] ∧ y.phase = .running ∧ engineRuns s 41 9 = true ∧ y.isLoad = false ∧ (enOf s 41 9).xIn = [(y.f 12 2, 9)] ∧ y.staged = [] ∧ y.issued < min (passWords y.desc) (y.pos + y.prefetch) ∧ spaceOf a = 2
         ∧ (placeOf s a).server.isSome = true ∧ IdFree s (streamEp 41 9)) := by
  unfold IdFree; simp only [siteIs_iff]; refine ⟨by decide +kernel, by decide +kernel, by decide +kernel⟩

theorem test_met_StreamsSettleAndEnd_3 :
    (SiteIs 41 9 [.dpTile, .xTile] ∧ siteKind 9 = some .xTile ∧ siteKind 49 = some .dpTile)
    ∧ (∀ x ∈ [(true, 0x0502), (false, 0x0201), (false, 0x0303)], let y := { wStrm (wSd 1 0 wOwn 1 0) with outst := [wStOut], issued := 1 }; let r := { wStReply 0x83 x.2 with scode := x.1 }
      let s := { wActive y wDp with engines := [(siteKey 41 49, { engineInitial with slots := [(7, y)], inbox := [r] })] }
      (enOf s 41 49).slots = [(7, y)] ∧ y.outst = [wStOut] ∧ (enOf s 41 49).inbox = [r] ∧ r.id = wStOut.id ∧ r.typ = 0x83 ∧ r.scode = x.1 ∧ r.status = x.2 ∧ 1 ≤ y.job ∧ y.job ≤ 63 ∧ HearsEvents s 41)
    ∧ (∀ tags ∈ [[], [(65535, 1)]], let y := { wStrm (wSd 1 0 wOwn 1 0) with outst := [wStOut], issued := 1 }; let t : STile := { wDp with tags := tags }; let r := wStReply 0x81 0
      let s := { wActive y t with engines := [(siteKey 41 49, { engineInitial with slots := [(7, y)], inbox := [r] })] }; let sl := y.f 12 4 + y.pos % max 1 (y.f 16 4)
      (spOf s 41 49).chans = [] ∧ (spOf s 41 49).cmds = [] ∧ (spOf s 41 49).gather = [] ∧ engineRuns s 41 49 = true ∧ (spOf s 41 49).writeReady sl (bits (y.f 11 1) 1 0) = tags.isEmpty ∧ s.memoryOk)
    ∧ (∀ x ∈ [(true, OutState.sent, none), (false, .sent, none), (true, .held, some 5)], let y := { wStrm (wSd 1 0 (hostAddr 0) 1 0) with outst := [wStOut], issued := 1 }; let p := wOut { wMsg 2 5 (hostEp 0) 0 [1] with src := streamEp 41 49 } x.2.1 x.2.2
      let s := { wActive y wDp with link := { wUp.link with up := x.1 }, now := 10 ^ 9, net := { wUp.net with nis := [(siteKey 41 49, { niInitial with out := [p] })] } }
      outOf s 41 49 wStOut.id = some p ∧ p.msg.dst.port = portHost ∧ s.link.up = x.1 ∧ p.st = x.2.1 ∧ p.first + p.limit ≤ s.now) := by
  simp only [siteIs_iff]; refine ⟨by decide +kernel, by unfold HearsEvents; decide +kernel, by unfold State.memoryOk; decide +kernel, by decide +kernel⟩

theorem test_met_StreamsSettleAndEnd_4 :
    (∀ n ∈ [0, 2], let y := { wStrm (wSd 1 8 wOwn n (hostAddr 0x1000000)) with issued := 1, pos := 1 }; let s := wActive y wDp
      slotOf s 41 49 7 = some y ∧ y.phase = .running ∧ passFinished 41 49 y = true ∧ engineRuns s 41 49 = true ∧ (y.f 24 4 = 0 ∨ y.passesDone + 1 < y.f 24 4) ∧ bit (y.f 1 1) 3 = true ∧ rankEp s y.job (y.f 6 2) = some (kettleEp 41 0) ∧ IdFree s (streamEp 41 49))
    ∧ (∀ g ∈ [true, false], let o : StOut := { wStOut with count := 0 }; let y := { wStrm (wSd 1 5 wOwn 1 (hostAddr 0x1000000)) with phase := .recording g none, outst := [o] }; let r := { wStReply 0x80 0 with data := [] }
      let s := { wActive y wDp with engines := [(siteKey 41 49, { engineInitial with slots := [(7, y)], inbox := [r] })] }
      slotOf s 41 49 7 = some y ∧ y.phase = .recording g none ∧ y.outst = [o] ∧ (enOf s 41 49).inbox = [r] ∧ r.id = o.id ∧ r.typ = 0x80 ∧ rankEp s y.job (y.f 2 2) = some (kettleEp 41 0) ∧ IdFree s (streamEp 41 49))
    ∧ (∀ c ∈ [0, 4], let y := { wStrm (wSd 1 c wOwn 1 (hostAddr 0x1000000)) with phase := .ending 1 0x0220 0 0 0 9 }; let s := wActive y wDp
      y.outst = [] ∧ bit (y.f 1 1) 2 = (c == 4) ∧ taskRecording s y.job y.task = false ∧ spaceOf (y.f 40 8) = 8 ∧ IdFree s (streamEp 41 49)) := by
  unfold IdFree; refine ⟨by decide +kernel, by decide +kernel, by decide +kernel⟩

theorem test_met_CoresSendTheirRequests_4 :
    (∀ a ∈ [4 * 2 ^ 52 + 41 * 2 ^ 29 + 48 * 2 ^ 21, 9 * 2 ^ 52 + 0x1000000], (apRequest (wX false 0x13 0 0 0 [] 0) a 8 none).isSome = true ∧ (apRequest (wX false 0x13 0 0 0 [] 0) a 8 (some 7)).isSome = true
        ∧ coreNext (wX false (encI 0 5 3 31 0x03) a 0 0 [] 0) 41 0 = (wX false (encI 0 5 3 31 0x03) a 0 0 [] 0, .apLoad a 8 31 true false)
        ∧ coreNext (wX false (encS 0 6 5 3 0x23) a 7 0 [] 15) 41 0 = (wX false (encS 0 6 5 3 0x23) a 7 0 [] 15, .apStore a 8 7) ∧ corePosted (wX false (encS 0 6 5 3 0x23) a 7 0 [] 15) 41 0 = 15)
    ∧ (∀ c ∈ [0, 1, 128], ∀ m ∈ [true, false], AtXenh (wX m (wXenh c (if m then 0 else 31) 5 6) 0 7 0 [] 0) 41 0 c (if m then 0 else 31) 0 (x64 7) ∧ rankEp (wX m (wXenh c (if m then 0 else 31) 5 6) 0 7 0 [] 0) (coreJob (wX m 0x13 0 7 0 [] 0) 41 0) 7 = none
        ∧ (coreOf (wX m (wXenh c (if m then 0 else 31) 5 6) 0 7 0 [] 0) 41 0).mmode = m)
    ∧ (∀ rd ∈ [0, 31], ∀ n ∈ [1, 15], let a := 8388608 - 640; let s := wX false (wXenh 1 rd 5 6) a 3 a [2, 0, 0, 0, 0, 0, 0, 0, n] 0; let w := wordAt s.mem (clusterAddr 41 a)
      AtXenh s 41 0 1 rd (x64 a) (x64 3) ∧ xenhOperand s 41 0 a 32 32 1 = none ∧ s.flips = [] ∧ fld w.toNat 0 1 = 2 ∧ fld w.toNat 8 4 = n ∧ xenhOperand s 41 0 (a + 32) (32 * n) 32 1 = none ∧ corePosted s 41 0 = 0)
    ∧ (let s := wX false (wXenh 128 0 5 6) (8388608 - 160) 1 0 [] 0; AtXenh s 41 0 128 0 (x64 (8388608 - 160)) (x64 1) ∧ (rankEp s (coreJob s 41 0) 1).map Ep.port = some portStream ∧ xenhOperand s 41 0 (8388608 - 160) 160 32 1 = none ∧ corePosted s 41 0 = 0)
    ∧ (let y := wStrm (wSd 1 0 wOwn 1 0 + 65534 * 2 ^ 64); let s := { wX false (wXenh 129 31 5 0) 65535 0 0 [] 0 with engines := [(siteKey 41 49, { engineInitial with slots := [(7, y)] })] }; taskRecording s (coreJob s 41 0) 65535 = false) := by
  unfold AtXenh; refine ⟨by decide +kernel, by decide +kernel, by decide +kernel, by decide +kernel, by decide +kernel⟩

theorem test_met_CoresUseKettlesFencesAndSequences_4 :
    (∀ c ∈ [1024, 1025, 1026, 1152, 1153], ∀ r ∈ [7, 1], ∀ m ∈ [true, false], let rd := if c < 1152 then 0 else 31; let s := wX m (wXenh c rd 5 6) r 1 0 [] 0
      AtXenh s 41 0 c rd (x64 r) (x64 1) ∧ (rankEp s (coreJob s 41 0) r).map Ep.port = (if r = 7 then none else some portStream) ∧ (coreOf s 41 0).mmode = m ∧ ((regionOfCore s 41 0).map (fun r => r.2.job)).getD 0 = 5 ∧ HearsEvents s 41)
    ∧ (∀ x ∈ [(1024, 0), (1025, 2 ^ 31), (1026, 2 ^ 31), (1152, 0), (1152, 2 ^ 31), (1153, 0), (1153, 2 ^ 31)], let rd := if x.1 < 1152 then 0 else 31; let s := wX false (wXenh x.1 rd 5 6) 0 x.2 0 [] 0
      AtXenh s 41 0 x.1 rd 0 (x64 x.2) ∧ (x.1 ≤ 1025 → signalOk (x64 x.2) = false) ∧ rankEp s (coreJob s 41 0) 0 = some (kettleEp 41 0))
    ∧ (∀ c ∈ [1024, 1026], let s := wX false (wXenh c 0 5 6) 0 1 0 [] 16; AtXenh s 41 0 c 0 0 (x64 1) ∧ signalOk (x64 1) = true ∧ corePosted s 41 0 = 16)
    ∧ (∀ n ∈ [0, 1], let s := { wX false 0x13 0 0 0 [] n with cores := [(coreKey 41 0, { wCore false 0 0 with wait := .hold 0 1 })] }; isDie 41 = true ∧ (coreOf s 41 0).wait = .hold 0 1 ∧ rankEp s (coreJob s 41 0) 0 = some (kettleEp 41 0) ∧ IdFree s (coreEp 41 0)
        ∧ fenceDone s (coreEp 41 0) 0 true true true = (n == 0)) := by
  unfold AtXenh IdFree HearsEvents; refine ⟨by decide +kernel, by decide +kernel, by decide +kernel, by decide +kernel⟩

theorem test_met_CoresUseKettlesFencesAndSequences_5 :
    (∀ k, k < 16384 → Tab.find? k ({ wSeqU with retired := List.range 16384 } : SeqUnit).table ≠ none ∨ ({ wSeqU with retired := List.range 16384 } : SeqUnit).retired.contains k = true)
    ∧ coreSeq { wXs 256 31 5 0 (8388608 - 64) 0 0 with seqs := [(41, { wSeqU with retired := List.range 16384 })] } 41 0 = some { wSeqU with retired := List.range 16384 }
    ∧ (let a := 8388608 - 64; let s := wXs 258 31 5 6 1 a 1; AtXenh s 41 0 258 31 (x64 1) (x64 a) ∧ xenhOperand s 41 0 a 32 32 1 = none ∧ Tab.find? 1 wSeqU.table = none)
    ∧ (let a := 8388608 - 64; let s := wXs 258 31 5 6 0 a 1; AtXenh s 41 0 258 31 0 (x64 a) ∧ imageOk wSeqU (wordAt s.mem (clusterAddr 41 a)).toNat = false ∧ (Tab.find? 0 wSeqU.table).isSome = true)
    ∧ (let a := 8388608 - 64; let s := wXs 259 31 5 6 1 a 0; AtXenh s 41 0 259 31 (x64 1) (x64 a) ∧ xenhOperand s 41 0 a 64 32 2 = none ∧ Tab.find? 1 wSeqU.table = none) := by
  refine ⟨fun k hk => Or.inr (by simp [hk]), rfl, ?_, ?_, ?_⟩ <;> (unfold AtXenh; decide +kernel)

end Sys2Proof.Machine
end

namespace Sys2Proof.Machine

/-!
# The word code and the histogram bins

The arithmetic of GF(2^8) behind the word code (R235), the decoding of an error confined to one symbol (R236, R237), and the histogram bin of a value (R76).
-/

/-! ### Multiplication is linear over xor in each argument -/

theorem bit_eq_testBit (n k : Nat) : bit n k = n.testBit k := Nat.testBit_eq_decide_div_mod_eq.symm

theorem bit_xor (a b k : Nat) : bit (a ^^^ b) k = (bit a k ^^ bit b k) := by
  simp only [bit_eq_testBit, Nat.testBit_xor]

/-- Folds whose steps add up over xor add up over xor. -/
theorem foldl_xor {ι : Type} {f g h : Nat → ι → Nat} (step : ∀ a b i, h (a ^^^ b) i = f a i ^^^ g b i) (l : List ι) (a b : Nat) :
    l.foldl h (a ^^^ b) = l.foldl f a ^^^ l.foldl g b := by
  induction l generalizing a b with
  | nil => rfl
  | cons i l ih => simp only [List.foldl_cons, step, ih]

/-- Adding a constant under each of two flags adds it under their exclusive or. -/
theorem xor_ite_xor (p q : Bool) (a b c : Nat) :
    (if (p ^^ q) = true then (a ^^^ b) ^^^ c else a ^^^ b) = (if p = true then a ^^^ c else a) ^^^ (if q = true then b ^^^ c else b) := by
  match p, q with
  | false, false => rfl
  | false, true => exact Nat.xor_assoc a b c
  | true, false =>
    show (a ^^^ b) ^^^ c = (a ^^^ c) ^^^ b
    ac_rfl
  | true, true =>
    calc
      a ^^^ b = (a ^^^ b) ^^^ (c ^^^ c) := by rw [Nat.xor_self, Nat.xor_zero]
      _ = (a ^^^ c) ^^^ (b ^^^ c) := by ac_rfl

/-- The inner reduction of `gfMul` by the polynomial 0x11D (R235). -/
def gfReduce (v : Nat) : Nat :=
  (upTo 8).foldl (fun v j => if bit v (15 - j) then v ^^^ (0x11D * 2 ^ (7 - j)) else v) v

theorem gfMul_eq (a b : Nat) : gfMul a b = (upTo 8).foldl (fun acc i => if bit b i then acc ^^^ gfReduce (a * 2 ^ i) else acc) 0 := rfl

theorem gfReduce_xor (v w : Nat) : gfReduce (v ^^^ w) = gfReduce v ^^^ gfReduce w :=
  foldl_xor (fun v w j => by rw [bit_xor, xor_ite_xor]) _ v w

theorem gfMul_xor_right (a b c : Nat) : gfMul a (b ^^^ c) = gfMul a b ^^^ gfMul a c := by
  simp only [gfMul_eq]
  exact foldl_xor (fun x y i => by rw [bit_xor, xor_ite_xor]) _ 0 0

theorem gfMul_xor_left (a b c : Nat) : gfMul (a ^^^ b) c = gfMul a c ^^^ gfMul b c := by
  simp only [gfMul_eq]
  refine foldl_xor (fun x y i => ?_) _ 0 0
  rw [← Nat.shiftLeft_eq, Nat.shiftLeft_xor_distrib, gfReduce_xor, Nat.shiftLeft_eq, Nat.shiftLeft_eq]
  split
  · ac_rfl
  · rfl

/-- What holds of the eight single bits and is kept by xor holds of every byte. -/
theorem byte_xor_induction {P : Nat → Prop} (xor : ∀ a b, P a → P b → P (a ^^^ b)) (basis : ∀ i < 8, P (2 ^ i)) :
    ∀ a < 256, P a := by
  have below : ∀ n ≤ 8, ∀ a < 2 ^ n, P a := by
    intro n
    induction n with
    | zero =>
      intro _ a ha
      obtain rfl : a = 0 := by omega
      exact Nat.xor_self 1 ▸ xor _ _ (basis 0 (by omega)) (basis 0 (by omega))
    | succ n ih =>
      intro hn a ha
      rcases Nat.lt_or_ge a (2 ^ n) with h | h
      · exact ih (by omega) a h
      · have topBit : a / 2 ^ n = 1 := Nat.div_eq_of_lt_le (by omega) (by omega)
        have cleared : a ^^^ 2 ^ n < 2 ^ n := by
          rw [← Nat.div_eq_zero_iff_lt (Nat.two_pow_pos n), Nat.xor_div_two_pow, topBit, Nat.div_self (Nat.two_pow_pos n), Nat.xor_self]
        have restored : (a ^^^ 2 ^ n) ^^^ 2 ^ n = a := by rw [Nat.xor_assoc, Nat.xor_self, Nat.xor_zero]
        rw [← restored]
        exact xor _ _ (ih (by omega) _ cleared) (basis n (by omega))
  exact below 8 (Nat.le_refl 8)

/-- What is kept by xor in each argument holds of all pairs of bytes when it holds of all pairs of single bits. -/
theorem byte_xor_induction₂ {P : Nat → Nat → Prop} (left : ∀ a a' b, P a b → P a' b → P (a ^^^ a') b)
    (right : ∀ a b b', P a b → P a b' → P a (b ^^^ b')) (basis : ∀ i < 8, ∀ j < 8, P (2 ^ i) (2 ^ j)) :
    ∀ a < 256, ∀ b < 256, P a b :=
  byte_xor_induction (P := fun a => ∀ b < 256, P a b) (fun a a' ha ha' b hb => left a a' b (ha b hb) (ha' b hb))
    (fun i hi => byte_xor_induction (right _) (basis i hi))

theorem gfMul_lt {a b : Nat} (ha : a < 256) (hb : b < 256) : gfMul a b < 256 :=
  byte_xor_induction₂ (P := fun a b => gfMul a b < 2 ^ 8) (fun a a' b h h' => gfMul_xor_left a a' b ▸ Nat.xor_lt_two_pow h h')
    (fun a b b' h h' => gfMul_xor_right a b b' ▸ Nat.xor_lt_two_pow h h') (by decide +kernel) a ha b hb

theorem gfMul_comm {a b : Nat} (ha : a < 256) (hb : b < 256) : gfMul a b = gfMul b a :=
  byte_xor_induction₂ (P := fun a b => gfMul a b = gfMul b a) (fun a a' b h h' => by rw [gfMul_xor_left, gfMul_xor_right, h, h'])
    (fun a b b' h h' => by rw [gfMul_xor_left, gfMul_xor_right, h, h']) (by decide +kernel) a ha b hb

theorem gfMul_one {a : Nat} (ha : a < 256) : gfMul a 1 = a :=
  byte_xor_induction (P := fun a => gfMul a 1 = a) (fun a b h h' => by rw [gfMul_xor_left, h, h']) (by decide +kernel) a ha

theorem gfMul_zero_left (b : Nat) : gfMul 0 b = 0 := by
  rw [← Nat.xor_self 0, gfMul_xor_left, Nat.xor_self, Nat.xor_self]

/-! ### Powers of α -/

theorem alphaPow_succ (n : Nat) : alphaPow (n + 1) = gfMul (alphaPow n) 2 := rfl

theorem alphaPow_lt (n : Nat) : alphaPow n < 256 := by
  induction n with
  | zero => decide
  | succ n ih => exact gfMul_lt ih (by omega)

theorem gfMul_assoc_alpha {a b : Nat} (ha : a < 256) (hb : b < 256) : gfMul a (gfMul b 2) = gfMul (gfMul a b) 2 :=
  byte_xor_induction₂ (P := fun a b => gfMul a (gfMul b 2) = gfMul (gfMul a b) 2)
    (fun a a' b h h' => by rw [gfMul_xor_left, gfMul_xor_left, gfMul_xor_left, h, h'])
    (fun a b b' h h' => by rw [gfMul_xor_left, gfMul_xor_right, gfMul_xor_right, gfMul_xor_left, h, h'])
    (by decide +kernel) a ha b hb

theorem gfMul_gfMul_alphaPow {a b : Nat} (ha : a < 256) (hb : b < 256) (n : Nat) :
    gfMul (gfMul a b) (alphaPow n) = gfMul a (gfMul b (alphaPow n)) := by
  induction n with
  | zero => rw [alphaPow, gfMul_one (gfMul_lt ha hb), gfMul_one hb]
  | succ n ih =>
    rw [alphaPow_succ, gfMul_assoc_alpha (gfMul_lt ha hb) (alphaPow_lt n), ih, gfMul_assoc_alpha hb (alphaPow_lt n),
      gfMul_assoc_alpha ha (gfMul_lt hb (alphaPow_lt n))]

theorem alphaPow_add (m n : Nat) : alphaPow (m + n) = gfMul (alphaPow m) (alphaPow n) := by
  induction n with
  | zero => exact (gfMul_one (alphaPow_lt m)).symm
  | succ n ih => rw [← Nat.add_assoc, alphaPow_succ, alphaPow_succ, ih, gfMul_assoc_alpha (alphaPow_lt m) (alphaPow_lt n)]

theorem gfMul_alphaPow_alphaPow {a : Nat} (ha : a < 256) (m n : Nat) :
    gfMul (gfMul a (alphaPow m)) (alphaPow n) = gfMul a (alphaPow (m + n)) := by
  rw [gfMul_gfMul_alphaPow ha (alphaPow_lt m), alphaPow_add]

theorem alphaPow_255 : alphaPow 255 = 1 := by
  have third : alphaPow 85 = 214 := by decide +kernel
  rw [show 255 = 85 + 85 + 85 from rfl, alphaPow_add, alphaPow_add, third]
  decide +kernel

theorem alphaPow_255_mul (k : Nat) : alphaPow (255 * k) = 1 := by
  induction k with
  | zero => rfl
  | succ k ih => rw [Nat.mul_succ, alphaPow_add, ih, alphaPow_255, gfMul_one (by omega)]

theorem alphaPow_mod (n : Nat) : alphaPow (n % 255) = alphaPow n := by
  have whole : alphaPow (n % 255 + 255 * (n / 255)) = alphaPow (n % 255) := by
    rw [alphaPow_add, alphaPow_255_mul, gfMul_one (alphaPow_lt _)]
  rw [← whole, Nat.mod_add_div]

/-! ### A byte that is not 0 times the powers of α -/

theorem gfMul_alphaPow_pos {a : Nat} (ha : a < 256) (ha0 : 0 < a) (n : Nat) : 0 < gfMul a (alphaPow n) := by
  refine Nat.pos_of_ne_zero fun h => ?_
  have back : gfMul (gfMul a (alphaPow n)) (alphaPow (254 * n)) = a := by
    rw [gfMul_alphaPow_alphaPow ha, show n + 254 * n = 255 * n by omega, alphaPow_255_mul, gfMul_one ha]
  rw [h, gfMul_zero_left] at back
  omega

theorem gfMul_alphaPow_mul_of_fixed {a d : Nat} (ha : a < 256) (fixed : gfMul a (alphaPow d) = a) (k : Nat) :
    gfMul a (alphaPow (d * k)) = a := by
  induction k with
  | zero => exact gfMul_one ha
  | succ k ih => rw [Nat.mul_succ, ← gfMul_alphaPow_alphaPow ha, ih, fixed]

/-- Some multiple of a d from 1 to 35 is 15 or 51 modulo 255, and neither α^15 nor α^51 fixes a byte other than 0. -/
theorem gfMul_alphaPow_ne_self {a d : Nat} (ha : a < 256) (ha0 : 0 < a) (hd : d < 36) (hd0 : 0 < d) : gfMul a (alphaPow d) ≠ a := by
  have multiple : ∀ d < 36, 0 < d → ∃ k < 255, d * k % 255 = 15 ∨ d * k % 255 = 51 := by decide +kernel
  have moved15 : ∀ a < 256, 0 < a → gfMul a (alphaPow 15) ≠ a := by decide +kernel
  have moved51 : ∀ a < 256, 0 < a → gfMul a (alphaPow 51) ≠ a := by decide +kernel
  intro fixed
  obtain ⟨k, -, hk⟩ := multiple d hd hd0
  have fixedMod : gfMul a (alphaPow (d * k % 255)) = a := by rw [alphaPow_mod, gfMul_alphaPow_mul_of_fixed ha fixed]
  rcases hk with h | h
  · exact moved15 a ha ha0 (h ▸ fixedMod)
  · exact moved51 a ha ha0 (h ▸ fixedMod)

theorem gfMul_alphaPow_ne_of_lt {a p q : Nat} (ha : a < 256) (ha0 : 0 < a) (hq : q < 36) (hpq : p < q) :
    gfMul a (alphaPow p) ≠ gfMul a (alphaPow q) := by
  have further : gfMul a (alphaPow q) = gfMul (gfMul a (alphaPow p)) (alphaPow (q - p)) := by
    rw [gfMul_alphaPow_alphaPow ha, show p + (q - p) = q by omega]
  rw [further]
  exact (gfMul_alphaPow_ne_self (gfMul_lt ha (alphaPow_lt p)) (gfMul_alphaPow_pos ha ha0 p) (by omega) (by omega)).symm

theorem gfMul_alphaPow_inj {a p q : Nat} (ha : a < 256) (ha0 : 0 < a) (hp : p < 36) (hq : q < 36)
    (h : gfMul a (alphaPow p) = gfMul a (alphaPow q)) : p = q := by
  rcases Nat.lt_trichotomy p q with hlt | heq | hgt
  · exact absurd h (gfMul_alphaPow_ne_of_lt ha ha0 hq hlt)
  · exact heq
  · exact absurd h.symm (gfMul_alphaPow_ne_of_lt ha ha0 hp hgt)

/-! ### Decoding one bad symbol -/

theorem symbol_digit {x : Nat} (hx : x < 256) (p k : Nat) : x * 2 ^ (8 * p) / 2 ^ (8 * k) % 256 = if k = p then x else 0 := by
  rcases Nat.lt_trichotomy k p with h | rfl | h
  · obtain ⟨d, rfl⟩ := Nat.exists_eq_add_of_lt h
    have shift : x * 2 ^ (8 * (k + d + 1)) = x * 2 ^ (8 * d) * 256 * 2 ^ (8 * k) := by
      rw [show 8 * (k + d + 1) = 8 * d + 8 + 8 * k by omega, Nat.pow_add, Nat.pow_add, ← Nat.mul_assoc, ← Nat.mul_assoc]
    rw [shift, Nat.mul_div_cancel _ (Nat.two_pow_pos _), Nat.mul_mod_left, if_neg (by omega)]
  · rw [Nat.mul_div_cancel _ (Nat.two_pow_pos _), Nat.mod_eq_of_lt hx, if_pos rfl]
  · have high : x * 2 ^ (8 * p) < 2 ^ (8 * k) := calc
      x * 2 ^ (8 * p) < 2 ^ 8 * 2 ^ (8 * p) := Nat.mul_lt_mul_of_pos_right hx (Nat.two_pow_pos _)
      _ = 2 ^ (8 + 8 * p) := (Nat.pow_add 2 8 (8 * p)).symm
      _ ≤ 2 ^ (8 * k) := Nat.pow_le_pow_right (by omega) (by omega)
    rw [Nat.div_eq_of_lt high, Nat.zero_mod, if_neg (by omega)]

/-- A fold that only one place changes takes that place's step. -/
theorem foldl_range_of_unchanged {α : Type} {f : α → Nat → α} {p : Nat} (unchanged : ∀ a k, k ≠ p → f a k = a) (n : Nat) (a : α) :
    (List.range n).foldl f a = if p < n then f a p else a := by
  induction n with
  | zero => rfl
  | succ n ih =>
    rw [List.range_succ, List.foldl_append, ih, List.foldl_cons, List.foldl_nil]
    rcases Nat.lt_trichotomy p n with h | rfl | h
    · rw [if_pos h, if_pos (by omega), unchanged _ _ (by omega)]
    · rw [if_neg (by omega), if_pos (by omega)]
    · rw [if_neg (by omega), if_neg (by omega), unchanged _ _ (by omega)]

/-- Byte p of a codeword is the coefficient of x^(35 − p) (R236), so syndrome i of an error there is the error times α^(i·(35 − p)). -/
theorem syndrome_symbol {p x : Nat} (hp : p < 36) (hx0 : 0 < x) (hx : x < 256) {i : Nat} (hi : i < 4) :
    syndrome i (x * 2 ^ (8 * p)) = gfMul x (alphaPow (i * (35 - p))) := by
  have bound : i * (35 - p) ≤ 3 * 35 := Nat.mul_le_mul (by omega) (by omega)
  have small : i * (35 - p) % 255 = i * (35 - p) := Nat.mod_eq_of_lt (by omega)
  simp only [syndrome, upTo, symbol_digit hx]
  rw [foldl_range_of_unchanged (p := p) (fun a k hk => by rw [if_neg hk, if_pos rfl]), if_pos hp, if_pos rfl,
    if_neg (Nat.ne_of_gt hx0), Nat.zero_xor, small]

/-- Decoding by a place that the syndromes' ratios single out (R237). -/
theorem decodePattern_of_ratio {v q : Nat} (hq : q < 36) (hne : ∀ i < 4, syndrome i v ≠ 0)
    (ratio : ∀ i < 3, gfMul (alphaPow q) (syndrome i v) = syndrome (i + 1) v)
    (only : ∀ p < 36, gfMul (alphaPow p) (syndrome 0 v) = syndrome 1 v → p = q) :
    decodePattern v = .corrected (v ^^^ syndrome 0 v * 2 ^ (8 * (35 - q))) := by
  have found : (upTo 36).find? (fun p => gfMul (alphaPow p) (syndrome 0 v) == syndrome 1 v
      && gfMul (alphaPow p) (syndrome 1 v) == syndrome 2 v && gfMul (alphaPow p) (syndrome 2 v) == syndrome 3 v) = some q := by
    refine List.find?_range_eq_some.2 ⟨?_, List.mem_range.2 hq, fun k hk => ?_⟩
    · rw [ratio 0 (by omega), ratio 1 (by omega), ratio 2 (by omega), beq_self_eq_true, beq_self_eq_true, beq_self_eq_true]
      rfl
    · have mismatch : gfMul (alphaPow k) (syndrome 0 v) ≠ syndrome 1 v := fun h => Nat.ne_of_lt hk (only k (by omega) h)
      rw [beq_eq_false_iff_ne.2 mismatch]
      rfl
  have notClean : ¬ (syndrome 0 v = 0 ∧ syndrome 1 v = 0 ∧ syndrome 2 v = 0 ∧ syndrome 3 v = 0) := fun h => hne 0 (by omega) h.1
  have noneZero : ¬ (syndrome 0 v = 0 ∨ syndrome 1 v = 0 ∨ syndrome 2 v = 0 ∨ syndrome 3 v = 0) := by
    simp only [hne 0 (by omega), hne 1 (by omega), hne 2 (by omega), hne 3 (by omega), or_self, not_false_eq_true]
  simp only [decodePattern, if_neg notClean, if_neg noneZero, found]

/-- The word code corrects every error confined to one symbol (R237). -/
theorem decodePattern_symbol {p x : Nat} (hp : p < 36) (hx0 : 0 < x) (hx : x < 256) :
    decodePattern (x * 2 ^ (8 * p)) = .corrected 0 := by
  have syn : ∀ i < 4, syndrome i (x * 2 ^ (8 * p)) = gfMul x (alphaPow (i * (35 - p))) := fun i hi => syndrome_symbol hp hx0 hx hi
  have syn0 : syndrome 0 (x * 2 ^ (8 * p)) = x := by rw [syn 0 (by omega), Nat.zero_mul, alphaPow, gfMul_one hx]
  rw [decodePattern_of_ratio (q := 35 - p) (by omega), syn0, show 35 - (35 - p) = p by omega, Nat.xor_self]
  · intro i hi
    rw [syn i hi]
    exact Nat.ne_of_gt (gfMul_alphaPow_pos hx hx0 _)
  · intro i hi
    rw [syn i (by omega), syn (i + 1) (by omega), gfMul_comm (alphaPow_lt _) (gfMul_lt hx (alphaPow_lt _)),
      gfMul_alphaPow_alphaPow hx, Nat.succ_mul]
  · intro k hk h
    rw [syn0, syn 1 (by omega), gfMul_comm (alphaPow_lt k) hx, Nat.one_mul] at h
    exact gfMul_alphaPow_inj hx hx0 hk (by omega) h

/-! ### The histogram bin -/

theorem two_zpow_natCast_add (k : Nat) (x : Int) : (2 : Rat) ^ ((k : Int) + x) = ((2 ^ k : Nat) : Rat) * 2 ^ x := by
  rw [Rat.zpow_add (by decide), Rat.zpow_natCast, Rat.natCast_pow, Rat.natCast_ofNat]

theorem two_zpow_nonneg (x : Int) : (0 : Rat) ≤ 2 ^ x := Rat.zpow_nonneg (by decide)

theorem two_zpow_le_two_zpow {a b : Int} (h : a ≤ b) : (2 : Rat) ^ a ≤ 2 ^ b := by
  obtain ⟨k, rfl⟩ := Int.le.dest h
  calc
    (2 : Rat) ^ a = ((1 : Nat) : Rat) * 2 ^ a := (Rat.one_mul _).symm
    _ ≤ ((2 ^ k : Nat) : Rat) * 2 ^ a := Rat.mul_le_mul_of_nonneg_right (Rat.natCast_le_natCast.2 Nat.one_le_two_pow) (two_zpow_nonneg a)
    _ = 2 ^ (a + k) := by rw [Int.add_comm, two_zpow_natCast_add]

theorem two_zpow_magExp_le {m : Nat} (hm : m ≠ 0) (x : Int) : (2 : Rat) ^ magExp m x ≤ m * 2 ^ x := by
  rw [magExp, two_zpow_natCast_add]
  exact Rat.mul_le_mul_of_nonneg_right (Rat.natCast_le_natCast.2 (Nat.log2_self_le hm)) (two_zpow_nonneg x)

theorem lt_two_zpow_magExp_succ (m : Nat) (x : Int) : (m : Rat) * 2 ^ x < 2 ^ (magExp m x + 1) := by
  rw [show magExp m x + 1 = ((Nat.log2 m + 1 : Nat) : Int) + x by rw [magExp]; omega, two_zpow_natCast_add]
  exact Rat.mul_lt_mul_of_pos_right (Rat.natCast_lt_natCast.2 Nat.lt_log2_self) (Rat.zpow_pos (by decide))

/-- The model's exponent is floor(log2 (m·2^x)) (R76). -/
theorem magExp_eq_of_bounds {m : Nat} (hm : m ≠ 0) {x e : Int} (lower : (2 : Rat) ^ e ≤ m * 2 ^ x)
    (upper : (m : Rat) * 2 ^ x < 2 ^ (e + 1)) : magExp m x = e := by
  have notAbove : ¬ e + 1 ≤ magExp m x := fun h =>
    Rat.not_lt.2 (Rat.le_trans (two_zpow_le_two_zpow h) (two_zpow_magExp_le hm x)) upper
  have notBelow : ¬ magExp m x + 1 ≤ e := fun h =>
    Rat.not_lt.2 (Rat.le_trans (two_zpow_le_two_zpow h) lower) (lt_two_zpow_magExp_succ m x)
  omega

theorem histBin_fin (n : Bool) {m : Nat} (hm : m ≠ 0) (x : Int) :
    histBin (.fin n m x) = if magExp m x ≤ -40 then 1 else if magExp m x ≤ 20 then (magExp m x + 41).toNat else 62 := by
  rw [histBin, if_neg hm]

/-- Settles O52: an error of one symbol gives syndromes in the ratio of its place's power of α, which no other place has (R236, R237),
and the model's exponent is the floor of the logarithm, by which the bins are cut (R76). -/
theorem wordCodeAndHistogramBins : Obligations.WordCodeAndHistogramBins := by
  unfold Obligations.WordCodeAndHistogramBins
  refine ⟨⟨by decide +kernel, fun p x => decodePattern_symbol⟩, fun _ _ => rfl, fun _ => rfl, fun _ => rfl, ?_⟩
  intro n m x e hm lower upper
  rw [histBin_fin n hm, magExp_eq_of_bounds hm lower upper]
  refine ⟨fun h => if_pos h, fun h₁ h₂ => ?_, fun h => ?_⟩
  · rw [if_neg (by omega), if_pos h₂, Int.toNat_of_nonneg (by omega)]
  · rw [if_neg (by omega), if_neg (by omega)]

end Sys2Proof.Machine

namespace Sys2Proof.Machine

/-!
# A checkpoint that a wait of the same SEQ ends

The statement on the redundant pair speaks of every state, also of one in which two commands of a queue share their SEQ and a RELEASE for the queue
stands delivered at a tile's interface. Parting the region (R554 step 2) then applies the RELEASE, and the reply that it makes for the wait is found by
SEQ (R490) and becomes the CHECKPOINT's own, which so ends before its regions have been scanned.
-/

/-- A CHECKPOINT that has started. -/
def sharedSeqCheckpoint : HCmd := { seq := 7, raw := 0x0604, params := [], stage := .started, reply := none, msg := none }

/-- A wait that works on, of the CHECKPOINT's SEQ. -/
def sharedSeqWait : HCmd := { sharedSeqCheckpoint with raw := 0x0403, stage := .working }

/-- A RELEASE (R352) of queue 64 at H0's HOST port. -/
def releaseToQueue : Msg :=
  { typ := 4, dst := { die := 0x60, site := blockSite, port := portHost, index := 64 }, src := configEp 0, issuer := 0, msgId := 0, seq := 0, attempt := 0
    job := 5, status := 0, arg := 5, dep := false, cfgm := false, scode := false, data := [] }

/-- An interface at which that RELEASE stands delivered. -/
def releaseNi : Ni := { niInitial with rx := [{ msg := releaseToQueue, have0 := true, have1 := true, count := 1, first := 0, stage := .delivered }] }

/-- A mirror of job 5 with no page. -/
def emptyMirror : Mirror :=
  { job := 5, ring := 0, slots := 2, consumedAddr := 0, area := 0, bases := [], mseq := 0, ckpt := 1, consumed := 0, queue := [], sub := 0
    waitFrom := none, stalled := false, stopping := false, ckptOpen := none }

/-- An active of the pair: queue 64 holds the two commands of one SEQ, and job 5 runs a region whose first site has the RELEASE. -/
def sharedSeqState : State :=
  { State.reset with
    queues := [(64, { queueInitial with cmds := [sharedSeqCheckpoint, sharedSeqWait] })]
    jobs := [(5, { jobInitial with st := .active })]
    regions := [(1, { job := 5, bounds := .columns 0 0 0, st := .running, sig := none, wasRunning := true, scanAreas := [], scan := none, startAt := none, timed := none })]
    net := { State.reset.net with nis := [(siteKey 0 0, releaseNi), (siteKey 0x60 blockSite, releaseNi)] }
    pair := { State.reset.pair with role := 1, mirror := some emptyMirror } }

theorem sharedSeqState_started : Started sharedSeqState 64 7 0x0604 sharedSeqCheckpoint := by
  unfold Started
  decide +kernel

theorem sharedSeqState_checkpoint_replied :
    ((qOf (nextOr sharedSeqState (exec (.checkpoint 64 7) sharedSeqState)) 64).cmd? 7).map (fun c => c.reply.isSome) = some true := by
  decide +kernel

/-- Refutes O35: the CHECKPOINT of a mirrored job at rest does not always work on. The statement does not ask that the SEQs of a queue differ: in
`sharedSeqState` the parting of the job's region makes the reply of a wait that has the CHECKPOINT's SEQ, and this answers the CHECKPOINT. -/
theorem not_mirrorsAndCheckpointsAreKept : ¬ Obligations.MirrorsAndCheckpointsAreKept := by
  unfold Obligations.MirrorsAndCheckpointsAreKept
  rintro ⟨-, checkpoint, -, -⟩
  obtain ⟨-, ofMirrored⟩ := checkpoint sharedSeqState 64 7 sharedSeqCheckpoint sharedSeqState_started rfl
  obtain ⟨t, step, ⟨c, found, -, noReply⟩, -⟩ := ofMirrored emptyMirror rfl rfl rfl rfl rfl (by decide) rfl rfl rfl
  have replied := sharedSeqState_checkpoint_replied
  rw [step, nextOr, found, Option.map_some, noReply] at replied
  cases replied

end Sys2Proof.Machine

namespace Sys2Proof.Machine

/-!
# What the units leave to H0

The job table, H0's part of the events and the class counters are H0's own. The messages that a region's parting applies (R337) and what a fault
leaves unfinished in a job's tiles (R445) leave them as they were: `accounts` gathers them, and one lemma for each operation says that it keeps them.
-/

/-! ### The accounts -/

/-- The counters of the three classes of events that have reached H0 (R564). -/
def classCounters (s : State) : List Nat := [0, 8, 16].map (fun off => Tab.get 0 (pkgKey off) s.tel)

/-- What no unit's work on a message changes: the job table, the events but for those that wait at the dies, and the class counters (R482, R564). -/
@[irreducible] def accounts (s : State) : Tab Job × Events × List Nat := (s.jobs, { s.ev with dies := [] }, classCounters s)

theorem accounts_of_eq {s t : State} (jobs : t.jobs = s.jobs) (ev : t.ev = s.ev) (tel : t.tel = s.tel) : accounts t = accounts s := by
  simp only [accounts, classCounters, jobs, ev, tel]

/-- What stays within a frame that leaves out the jobs, the events and the TEL registers leaves the accounts. -/
theorem accounts_of_onlyIn {l : List Part} {s t : State} (h : OnlyIn l s t) (out : [Part.jobs, .ev, .tel].all (fun p => !l.contains p) = true) : accounts t = accounts s := by
  have same : ∀ p ∈ [Part.jobs, .ev, .tel], p.same s t := fun p hp => h p (by simpa using List.all_eq_true.1 out p hp)
  exact accounts_of_eq (same .jobs (by simp)) (same .ev (by simp)) (same .tel (by simp))

/-- A frame that leaves out the events and the TEL registers leaves all of the accounts but the jobs. -/
theorem accounts_snd_of_onlyIn {l : List Part} {s t : State} (h : OnlyIn l s t) (out : [Part.ev, .tel].all (fun p => !l.contains p) = true) :
    (accounts t).2 = (accounts s).2 := by
  have same : ∀ p ∈ [Part.ev, .tel], p.same s t := fun p hp => h p (by simpa using List.all_eq_true.1 out p hp)
  simp only [accounts, classCounters, show t.ev = s.ev from same .ev (by simp), show t.tel = s.tel from same .tel (by simp)]

theorem accounts_foldl {α : Type} {f : State → α → State} (h : ∀ s a, accounts (f s a) = accounts s) (as : List α) (s : State) : accounts (as.foldl f s) = accounts s := by
  induction as generalizing s with
  | nil => rfl
  | cons a as ih => exact (ih _).trans (h s a)

@[simp] theorem accounts_setSp (s : State) (die site : Nat) (t : STile) : accounts (setSp s die site t) = accounts s := accounts_of_eq rfl rfl rfl
@[simp] theorem accounts_setMt (s : State) (die site : Nat) (t : MTile) : accounts (setMt s die site t) = accounts s := accounts_of_eq rfl rfl rfl
@[simp] theorem accounts_setVt (s : State) (die site : Nat) (t : VTile) : accounts (setVt s die site t) = accounts s := accounts_of_eq rfl rfl rfl
@[simp] theorem accounts_setEn (s : State) (die site : Nat) (e : Engine) : accounts (setEn s die site e) = accounts s := accounts_of_eq rfl rfl rfl
@[simp] theorem accounts_setCore (s : State) (die core : Nat) (c : Core) : accounts (setCore s die core c) = accounts s := accounts_of_eq rfl rfl rfl
@[simp] theorem accounts_setRegion (s : State) (n : Nat) (r : Region) : accounts (setRegion s n r) = accounts s := accounts_of_eq rfl rfl rfl
@[simp] theorem accounts_modNi (s : State) (die site : Nat) (f : Ni → Ni) : accounts (modNi s die site f) = accounts s := accounts_of_eq rfl rfl rfl
@[simp] theorem accounts_storeWord (s : State) (a : Nat) (w : Word) : accounts (storeWord s a w) = accounts s := accounts_of_onlyIn (storeWord_frame _ _ _) rfl
@[simp] theorem accounts_setStopped (s : State) (r : Region) (v : Bool) : accounts (setStopped s r v) = accounts s := accounts_of_eq rfl rfl rfl
@[simp] theorem accounts_seqReleased (s : State) (die : Nat) : accounts (seqReleased s die) = accounts s := accounts_of_eq rfl rfl rfl
@[simp] theorem accounts_sendReq (s : State) (src : Ep) (issuer job typ : Nat) (dst : Ep) (arg : BitVec 64) (data : List Word) :
    accounts (sendReq s src issuer job typ dst arg data) = accounts s := accounts_of_onlyIn (sendReq_frame _ _ _ _ _ _ _ _) rfl
@[simp] theorem accounts_sendKettle (s : State) (src : Ep) (issuer job rank kop : Nat) (rel : Bool) (operand : Nat) :
    accounts (sendKettle s src issuer job rank kop rel operand) = accounts s := accounts_of_onlyIn (sendKettle_frame _ _ _ _ _ _ _ _) rfl
@[simp] theorem accounts_siteSignal (s : State) (die site issuer rank : Nat) (rel : Bool) : accounts (siteSignal s die site issuer rank rel) = accounts s := accounts_sendKettle ..
@[simp] theorem accounts_finishCmd (s : State) (q seq status detail result : Nat) : accounts (finishCmd s q seq status detail result) = accounts s :=
  accounts_of_onlyIn (finishCmd_frame _ _ _ _ _ _) rfl
@[simp] theorem accounts_postNotice (s : State) (q status detail : Nat) : accounts (postNotice s q status detail) = accounts s := accounts_of_onlyIn (postNotice_frame _ _ _ _) rfl
@[simp] theorem accounts_decodeAt (s : State) (a : Nat) : accounts (decodeAt s a).1 = accounts s := accounts_of_onlyIn (decodeAt_frame _ _) rfl
@[simp] theorem accounts_noteFault (s : State) (d k c : Nat) : accounts (noteFault s d k c) = accounts s := accounts_of_onlyIn (noteFault_frame _ _ _ _) rfl
@[simp] theorem accounts_noteEvent (s : State) (e : Ev) : accounts (noteEvent s e) = accounts s := accounts_of_onlyIn (noteEvent_frame _ _) rfl

theorem accounts_setNet (s : State) (n : Net) : accounts { s with net := n } = accounts s := accounts_of_eq rfl rfl rfl

/-- The events that wait at the dies are not H0's part. -/
theorem accounts_setDies (s : State) (d : Tab DieEvents) : accounts { s with ev := { s.ev with dies := d } } = accounts s := by
  simp only [accounts, classCounters]

/-- An event that is not fatal only joins those that wait at its die. -/
theorem accounts_raise (s : State) (e : Ev) (h : e.cls ≠ 2) : accounts (raise s e) = accounts s := by
  simp only [raise, if_neg h]
  split
  · exact accounts_noteEvent s e
  · exact (accounts_setDies _ _).trans (accounts_noteEvent s e)

@[simp] theorem accounts_raiseCorrected (s : State) (code job die ukind index detail : Nat) : accounts (raiseCorrected s code job die ukind index detail) = accounts s :=
  accounts_raise _ _ (by simp)

@[simp] theorem accounts_raiseContained (s : State) (code job die ukind index detail : Nat) : accounts (raiseContained s code job die ukind index detail) = accounts s := by
  simp only [raiseContained]
  split
  · exact accounts_raiseCorrected ..
  · exact accounts_raise _ _ (by simp)

@[simp] theorem accounts_raiseSiteFor (defers : Bool) (s : State) (code die site detail : Nat) : accounts (raiseSiteFor defers s code die site detail) = accounts s := by
  simp only [raiseSiteFor, accounts_noteFault]
  refine accounts_raise _ _ ?_
  dsimp only
  split <;> omega

@[simp] theorem accounts_raiseSite (s : State) (code die site detail : Nat) : accounts (raiseSite s code die site detail) = accounts s := accounts_raiseSiteFor ..

/-- No register of a window has the key of a class counter: the windows' offsets differ from theirs (R226, R564). -/
@[simp] theorem accounts_telAdd (s : State) (die site off n : Nat) (h : off % 2 ^ 19 ≠ 0 ∧ off % 2 ^ 19 ≠ 8 ∧ off % 2 ^ 19 ≠ 16) :
    accounts (telAdd s die site off n) = accounts s := by
  have other : ∀ c ∈ [0, 8, 16], Tab.get 0 (pkgKey c) (telAdd s die site off n).tel = Tab.get 0 (pkgKey c) s.tel := fun c hc => by
    refine telAdd_other s die site off n ?_
    simp only [List.mem_cons, List.not_mem_nil, or_false] at hc
    simp only [pkgKey, cfgKey]
    omega
  have frame := telAdd_frame s die site off n
  simp only [accounts, classCounters, List.map_cons, List.map_nil, other 0 (by simp), other 8 (by simp), other 16 (by simp)]
  rw [show (telAdd s die site off n).jobs = s.jobs from frame .jobs rfl, show (telAdd s die site off n).ev = s.ev from frame .ev rfl]

@[simp] theorem accounts_emitReplyArg (s : State) (m : Msg) (typ status : Nat) (scode : Bool) (data : List Word) (arg : BitVec 64) :
    accounts (emitReplyArg s m typ status scode data arg) = accounts s := by
  simp only [emitReplyArg]
  split
  · rfl
  · split
    · exact (accounts_setNet _ _).trans (accounts_telAdd _ _ _ _ _ (by decide))
    · exact accounts_setNet _ _

@[simp] theorem accounts_emitReply (s : State) (m : Msg) (typ status : Nat) (scode : Bool) (data : List Word) : accounts (emitReply s m typ status scode data) = accounts s :=
  accounts_emitReplyArg ..
@[simp] theorem accounts_reply (s : State) (m : Msg) (typ status : Nat) (scode : Bool) (data : List Word) : accounts (reply s m typ status scode data) = accounts s := by
  simp only [reply, accounts_emitReply, accounts_modNi]
@[simp] theorem accounts_ack (s : State) (m : Msg) : accounts (ack s m) = accounts s := accounts_reply ..
@[simp] theorem accounts_answer (s : State) (m : Msg) (data : List Word) : accounts (answer s m data) = accounts s := accounts_reply ..
@[simp] theorem accounts_errorEvent (s : State) (m : Msg) (code : Nat) : accounts (errorEvent s m code) = accounts s := accounts_reply ..
@[simp] theorem accounts_errorStatus (s : State) (m : Msg) (status : Nat) : accounts (errorStatus s m status) = accounts s := accounts_reply ..
@[simp] theorem accounts_refuse (s : State) (m : Msg) (reason : Nat) : accounts (refuse s m reason) = accounts s := accounts_reply ..
@[simp] theorem accounts_errorAt (s : State) (m : Msg) (code k : Nat) : accounts (errorAt s m code k) = accounts s := by
  simp only [errorAt, accounts_emitReplyArg, accounts_modNi]
@[simp] theorem accounts_hold (s : State) (m : Msg) : accounts (hold s m) = accounts s := by
  simp only [hold, accounts_emitReply, accounts_modNi]
@[simp] theorem accounts_discardHeld (s : State) (m : Msg) : accounts (discardHeld s m) = accounts s := by
  simp only [discardHeld]
  split <;> exact accounts_of_eq rfl rfl rfl

/-! ### A message applied at a unit -/

/-- A message applied leaves the accounts where what its unit does leaves them. -/
theorem accounts_applyMsg (s : State) (m : Msg) {f : State → State} (h : ∀ s, accounts (f s) = accounts s) : accounts (nextOr s (applyMsg s m f)) = accounts s := by
  simp only [applyMsg]
  split
  · rfl
  · simp only [nextOr]
    split
    · exact accounts_errorEvent ..
    · split
      · exact accounts_refuse ..
      · split
        · split
          · exact h s
          · rw [accounts_raiseContained, accounts_errorEvent]
        · exact h s

/-- The state that a step of a command leaves. -/
def SpStep.state : SpStep → State
  | .wait s => s
  | .more s _ => s
  | .done s => s

@[simp] theorem SpStep.state_wait (s : State) : (SpStep.wait s).state = s := rfl
@[simp] theorem SpStep.state_more (s : State) (c : SpCmd) : (SpStep.more s c).state = s := rfl
@[simp] theorem SpStep.state_done (s : State) : (SpStep.done s).state = s := rfl

@[simp] theorem accounts_narrowWords (s : State) (die site n : Nat) : accounts (narrowWords s die site n) = accounts s := accounts_telAdd _ _ _ _ _ (by decide)

/-- A corrected codeword's count (R209) leaves the accounts. -/
theorem accounts_corrected (s : State) (c : Bool) (die site : Nat) : accounts (if c = true then telAdd s die site 0x1A8 1 else s) = accounts s := by
  split
  · exact accounts_telAdd _ _ _ _ _ (by decide)
  · rfl

@[simp] theorem accounts_spReadFor (defers : Bool) (s : State) (die site slot mode : Nat) : accounts (spReadFor defers s die site slot mode).1 = accounts s := by
  simp only [spReadFor]
  split
  · simp only [accounts_raiseSiteFor, accounts_corrected, accounts_decodeAt]
  · split <;> split <;> simp only [accounts_setSp, accounts_corrected, accounts_decodeAt]

@[simp] theorem accounts_spWrite (s : State) (die site slot mode : Nat) (w : Word) : accounts (spWrite s die site slot mode w) = accounts s := by
  simp only [spWrite, accounts_storeWord, accounts_setSp]

@[simp] theorem accounts_spMerge (s : State) (die site slot : Nat) (bytes : Word) (mask : Nat) : accounts (spMerge s die site slot bytes mask) = accounts s := by
  simp only [spMerge]
  split <;> simp only [accounts_raiseSite, accounts_storeWord, accounts_corrected, accounts_decodeAt, accounts_narrowWords]

@[simp] theorem accounts_spFinish (s : State) (m : Msg) (data : Option (List Word)) : accounts (spFinish s m data) = accounts s := by
  simp only [spFinish]
  split <;> cases data <;> simp only [accounts_sendKettle, accounts_answer, accounts_ack]

@[simp] theorem accounts_gatherGrant (s : State) (die site slot : Nat) : accounts (gatherGrant s die site slot) = accounts s := by
  simp only [gatherGrant]
  split
  · rfl
  · split
    · simp only [accounts_spWrite, accounts_narrowWords]
    · split
      · simp only [accounts_spMerge, accounts_setSp]
      · refine (accounts_foldl (fun s c => accounts_errorEvent s _ _) _ _).trans ?_
        simp only [accounts_setSp, accounts_spMerge]

@[simp] theorem accounts_gatherWriter (n : Nat) (s : State) (die site : Nat) : accounts (gatherWriter n s die site) = accounts s := by
  induction n generalizing s with
  | zero => rfl
  | succ n ih =>
    simp only [gatherWriter]
    split
    · rw [ih, accounts_gatherGrant]
    · rfl

@[simp] theorem accounts_gatherEvict (s : State) (die site : Nat) : accounts (gatherEvict s die site) = accounts s := by
  simp only [gatherEvict]
  repeat' split
  all_goals simp only [accounts_setSp]

@[simp] theorem accounts_gatherEnter (s : State) (m : Msg) : accounts (gatherEnter s m).1 = accounts s := by
  simp only [gatherEnter]
  repeat' split
  all_goals simp only [accounts_setSp, accounts_gatherWriter, accounts_gatherEvict]

/-- Every step of a command leaves the accounts: it reads and writes slots, and replies. -/
@[simp] theorem accounts_spStep (s : State) (c : SpCmd) : accounts (spStep s c).state = accounts s := by
  have read : ∀ {defers : Bool} {s s' : State} {die site slot mode : Nat} {w : Option Word},
      spReadFor defers s die site slot mode = (s', w) → accounts s' = accounts s :=
    fun h => (congrArg (fun r => accounts r.1) h).symm.trans (accounts_spReadFor ..)
  simp only [spStep, spFail]
  split
  case h_1 =>
    split
    next h => simp only [SpStep.state_done, accounts_errorAt, read h]
    next h => split <;> simp only [SpStep.state_done, SpStep.state_more, accounts_spFinish, read h]
  case h_2 => split <;> simp only [SpStep.state_done, SpStep.state_more, accounts_spFinish, accounts_spWrite]
  case h_3 =>
    split
    next h => simp only [SpStep.state_done, accounts_errorAt, read h]
    next h => simp only [SpStep.state_done, accounts_spFinish, read h]
  case h_4 =>
    split
    · split
      · simp only [SpStep.state_done, accounts_errorStatus]
      · split <;> simp only [SpStep.state_done, SpStep.state_wait, accounts_spFinish, accounts_gatherWriter, accounts_gatherEnter]
    · split
      · split
        next h => simp only [SpStep.state_done, accounts_errorAt, read h]
        next h => simp only [SpStep.state_more, read h]
      · simp only [SpStep.state_done, accounts_spFinish, accounts_spWrite]
  case h_5 => split <;> simp only [SpStep.state_done, SpStep.state_more, accounts_spFinish, accounts_spWrite]
  case h_6 =>
    split
    · split
      next h => simp only [SpStep.state_done, accounts_errorAt, read h]
      next h => simp only [SpStep.state_more, read h]
    · split <;> simp only [SpStep.state_done, SpStep.state_more, accounts_spFinish, accounts_spWrite]
  case h_7 => rfl

theorem accounts_of_spStep_eq {s : State} {c : SpCmd} {r : SpStep} (h : spStep s c = r) : accounts r.state = accounts s := h ▸ accounts_spStep s c

@[simp] theorem accounts_keepCmd (s : State) (c : SpCmd) : accounts (keepCmd s c) = accounts s := accounts_setSp ..

@[simp] theorem accounts_spRun (n : Nat) (s : State) (c : SpCmd) : accounts (spRun n s c) = accounts s := by
  induction n generalizing s c with
  | zero => exact accounts_keepCmd s c
  | succ n ih =>
    simp only [spRun]
    split
    · exact accounts_keepCmd s c
    · split
      next h => exact (accounts_of_spStep_eq h).trans (accounts_narrowWords ..)
      next h => exact (ih _ _).trans ((accounts_of_spStep_eq h).trans (accounts_narrowWords ..))
      next h => exact (accounts_keepCmd _ _).trans ((accounts_of_spStep_eq h).trans (accounts_narrowWords ..))

@[simp] theorem accounts_gatherRetry (s : State) (die site : Nat) : accounts (gatherRetry s die site) = accounts s := by
  simp only [gatherRetry]
  split
  · rfl
  · refine accounts_foldl (fun s c => ?_) _ _
    split
    next h => exact (accounts_setSp ..).trans (accounts_of_spStep_eq h)
    next h => exact accounts_of_spStep_eq h
    next h => exact accounts_of_spStep_eq h

@[simp] theorem accounts_flushDone (s : State) (die site : Nat) : accounts (flushDone s die site) = accounts s := by
  simp only [flushDone]
  split
  · rfl
  · exact (accounts_foldl (fun s _ => accounts_spFinish s _ _) _ _).trans (accounts_setSp ..)

@[simp] theorem accounts_holdBlocked (s : State) (die site : Nat) : accounts (holdBlocked s die site) = accounts s :=
  (accounts_foldl (fun s _ => accounts_hold s _) _ _).trans (accounts_setSp ..)

@[simp] theorem accounts_spSettle (s : State) (die site : Nat) : accounts (spSettle s die site) = accounts s := by
  simp only [spSettle, accounts_holdBlocked, accounts_flushDone, accounts_gatherRetry]

@[simp] theorem accounts_spStart (s : State) (m : Msg) : accounts (spStart s m) = accounts s := by
  simp only [spStart, accounts_spSettle, accounts_spRun]

theorem accounts_spRow (s : State) (m : Msg) (op : Nat) (u : Upset) {f : State → State} (h : ∀ s, accounts (f s) = accounts s) :
    accounts (nextOr s (spRow s m op u f)) = accounts s := by
  refine accounts_applyMsg s m (fun s => ?_)
  split
  · rfl
  · split
    · exact accounts_errorStatus ..
    · split
      · exact accounts_errorStatus ..
      · exact (h _).trans (accounts_of_eq rfl rfl rfl)

@[simp] theorem accounts_swapEffect (s : State) (die site q : Nat) (m : Msg) : accounts (swapEffect s die site q m) = accounts s := by
  simp only [swapEffect]
  split <;> simp only [accounts_siteSignal, accounts_spFinish, accounts_setSp]

theorem accounts_execLeafSwap (s : State) (m : Msg) : accounts (nextOr s (execLeafSwap m s)) = accounts s := by
  refine accounts_spRow s m 7 [] (fun s => ?_)
  dsimp only
  split
  · exact accounts_errorStatus ..
  · split
    · exact accounts_swapEffect ..
    · exact (accounts_hold ..).trans (accounts_setSp ..)

theorem accounts_execGatherFlush (s : State) (m : Msg) : accounts (nextOr s (execGatherFlush m s)) = accounts s :=
  accounts_spRow s m 9 [] (fun s => by simp only [accounts_spSettle, accounts_gatherWriter, accounts_keepCmd, accounts_setSp])

/-! ### Releases -/

@[simp] theorem accounts_modSlot (s : State) (die site slot : Nat) (f : Strm → Strm) : accounts (modSlot s die site slot f) = accounts s := by
  simp only [modSlot]
  split
  · exact accounts_setEn ..
  · rfl

@[simp] theorem accounts_ctxReleased (s : State) (die site n : Nat) : accounts (ctxReleased s die site n) = accounts s := by
  simp only [ctxReleased]
  repeat' split
  all_goals simp only [accounts_setMt, accounts_setVt]

@[simp] theorem accounts_retire (s : State) (die core : Nat) (c : Core) : accounts (retire s die core c) = accounts s :=
  (accounts_telAdd _ _ _ _ _ (by decide)).trans (accounts_setCore ..)

@[simp] theorem accounts_endStall (s : State) (die core : Nat) : accounts (endStall s die core) = accounts s := by
  simp only [endStall, modCore, accounts_setCore]
  split
  · exact accounts_telAdd _ _ _ _ _ (by decide)
  · rfl

@[simp] theorem accounts_coreRelease (s : State) (die core value : Nat) : accounts (coreRelease s die core value) = accounts s := by
  simp only [coreRelease]
  split
  · exact (accounts_endStall ..).trans (accounts_retire ..)
  · rfl

@[simp] theorem accounts_hostReleased (s : State) (q value : Nat) : accounts (hostReleased s q value) = accounts s := by
  simp only [hostReleased]
  split
  · exact accounts_finishCmd ..
  · rfl

@[simp] theorem accounts_releaseAt (s : State) (e : Ep) (issuer value : Nat) : accounts (releaseAt s e issuer value) = accounts s := by
  simp only [releaseAt, triggerReleased]
  repeat' split
  all_goals simp only [accounts_modSlot, accounts_ctxReleased, accounts_coreRelease, accounts_hostReleased, accounts_seqReleased]

theorem accounts_execRelease (s : State) (m : Msg) : accounts (nextOr s (execRelease m s)) = accounts s := by
  refine accounts_applyMsg s m (fun s => ?_)
  split
  · exact (accounts_ack ..).trans (accounts_releaseAt ..)
  · rfl

/-! ### Descriptors issued -/

@[simp] theorem accounts_enqueueStream (s : State) (die site job : Nat) (owner : Option (Ep × Nat)) (serial : Nat) (d : BitVec 1280) :
    accounts (enqueueStream s die site job owner serial d).1 = accounts s := by
  unfold enqueueStream
  cases streamCheck s die site job d with
  | some code => rfl
  | none =>
    dsimp only
    split
    · rfl
    · exact accounts_setEn ..

@[simp] theorem accounts_streamIssue (s : State) (m : Msg) : accounts (streamIssue s m) = accounts s := by
  simp only [streamIssue]
  split
  · exact accounts_errorStatus ..
  · split <;> simp only [accounts_ack, accounts_errorStatus, accounts_enqueueStream]

@[simp] theorem accounts_holdOnce (s : State) (m : Msg) : accounts (holdOnce s m) = accounts s := by
  simp only [holdOnce]
  split
  · rfl
  · exact accounts_hold ..

@[simp] theorem accounts_tileIssue (s : State) (m : Msg) : accounts (tileIssue s m) = accounts s := by
  simp only [tileIssue]
  repeat' split
  all_goals simp only [accounts_errorStatus, accounts_holdOnce, accounts_ack, accounts_setMt, accounts_setVt]

theorem accounts_execTileIssue (s : State) (m : Msg) : accounts (nextOr s (execTileIssue m s)) = accounts s := by
  refine accounts_applyMsg s m (fun s => ?_)
  split
  · rfl
  · split
    · exact accounts_streamIssue ..
    · exact accounts_tileIssue ..

/-! ### Summaries -/

@[simp] theorem accounts_recordWrite (f : Nat) (s : State) (die site n job a : Nat) (ws : List Word) : accounts (recordWrite f s die site n job a ws) = accounts s := by
  induction f generalizing s a ws with
  | zero => rfl
  | succ f ih =>
    cases ws with
    | nil => rfl
    | cons w ws =>
      have served : ∀ (server : Option Ep) (code : Nat) (typ : Nat) (arg : BitVec 64) (data : List Word) (b : Nat) (rest : List Word),
          accounts (server.elim (raiseContained s code job die 1 site a) (fun e => recordWrite f (sendReq s (collectorEp die site) n job typ e arg data) die site n job b rest)) = accounts s := by
        intro server code typ arg data b rest
        cases server with
        | none => exact accounts_raiseContained ..
        | some e => exact (ih _ _ _).trans (accounts_sendReq ..)
      simp only [recordWrite]
      split
      · exact accounts_raiseContained ..
      · split
        case h_4 | h_5 | h_6 => exact served ..
        case h_7 => exact accounts_raiseContained ..
        all_goals exact (ih _ _ _).trans (accounts_sendReq ..)

@[simp] theorem accounts_writeSummary (s : State) (die site n job slot : Nat) (x : Summary) : accounts (writeSummary s die site n job slot x) = accounts s :=
  accounts_recordWrite ..

@[simp] theorem accounts_collectorStep (s : State) (die site n : Nat) (c : Collector) (sum : Summary) : accounts (collectorStep s die site n c sum) = accounts s := by
  simp only [collectorStep]
  split
  · refine (accounts_foldl (fun s k => ?_) _ _).trans ?_
    · split
      · exact accounts_sendReq ..
      · rfl
    · simp only [accounts_sendKettle, accounts_setVt, accounts_writeSummary]
  · simp only [accounts_sendKettle, accounts_setVt, accounts_writeSummary]

theorem accounts_execSummary (s : State) (m : Msg) : accounts (nextOr s (execSummary m s)) = accounts s := by
  refine accounts_applyMsg s m (fun s => ?_)
  dsimp only
  repeat' split
  all_goals simp only [accounts_raiseSite, accounts_collectorStep, accounts_setVt, accounts_ack]

theorem accounts_execGovUpdate (s : State) (m : Msg) : accounts (nextOr s (execGovUpdate m s)) = accounts s := by
  refine accounts_applyMsg s m (fun s => ?_)
  dsimp only
  split
  · rfl
  · exact (accounts_ack ..).trans (accounts_setVt ..)

theorem accounts_execWithdrawHeld (s : State) (m : Msg) : accounts (nextOr s (execWithdrawHeld m s)) = accounts s := by
  simp only [execWithdrawHeld, onDie]
  split
  · simp only [nextOr]
    split
    · exact (accounts_setNet _ _).trans (accounts_discardHeld ..)
    · rfl
  · rfl

/-! ### A region parted -/

theorem accounts_execSpStart (s : State) (m : Msg) (op : Nat) : accounts (nextOr s (spRow s m op [] (fun s => spStart s m))) = accounts s :=
  accounts_spRow s m op [] (fun s => accounts_spStart s m)

theorem accounts_execQuireQuery (s : State) (m : Msg) : accounts (nextOr s (execQuireQuery m s)) = accounts s :=
  accounts_spRow s m 8 [] (fun _ => accounts_spFinish ..)

/-- Rows applied in turn while their message is still delivered. -/
theorem accounts_foldl_rows (m : Msg) {l : List (State → Host.Outcome State Fault Refusal)} (h : ∀ f ∈ l, ∀ s, accounts (nextOr s (f s)) = accounts s) (s : State) :
    accounts (l.foldl (fun s f => if isDelivered s m then nextOr s (f s) else s) s) = accounts s := by
  induction l generalizing s with
  | nil => rfl
  | cons f l ih =>
    refine (ih (fun g hg => h g (List.mem_cons_of_mem _ hg)) _).trans ?_
    dsimp only
    split
    · exact h f List.mem_cons_self s
    · rfl

/-- The rows of a message that a parting applies (R337). -/
@[simp] theorem accounts_applyDelivered (s : State) (m : Msg) : accounts (applyDelivered s m) = accounts s := by
  refine accounts_foldl_rows m (fun f hf => ?_) s
  split at hf
  · simp only [List.mem_cons, List.not_mem_nil, or_false] at hf
    rcases hf with rfl | rfl | rfl | rfl | rfl | rfl | rfl | rfl | rfl
    · exact fun s => accounts_execSpStart s m 1
    · exact fun s => accounts_execSpStart s m 2
    · exact fun s => accounts_execSpStart s m 3
    · exact fun s => accounts_execSpStart s m 4
    · exact fun s => accounts_execSpStart s m 5
    · exact fun s => accounts_execSpStart s m 6
    · exact fun s => accounts_execLeafSwap s m
    · exact fun s => accounts_execQuireQuery s m
    · exact fun s => accounts_execGatherFlush s m
  · repeat' split at hf
    all_goals simp only [List.mem_cons, List.not_mem_nil, or_false] at hf
    · exact hf ▸ fun s => accounts_execRelease s m
    · exact hf ▸ fun s => accounts_execTileIssue s m
    · exact hf ▸ fun s => accounts_execSummary s m
    · exact hf ▸ fun s => accounts_execGovUpdate s m
    · exact hf ▸ fun s => accounts_execWithdrawHeld s m

@[simp] theorem accounts_passFlow (s : State) (m : Msg) (fl : Option Flow) : accounts (passFlow s m fl) = accounts s := by
  simp only [passFlow, setStage, accounts_modNi]

@[simp] theorem accounts_completeMessage (s : State) (die site : Nat) (src : Ep) (issuer msgId : Nat) : accounts (completeMessage s die site src issuer msgId) = accounts s := by
  simp only [completeMessage, setStage]
  repeat' split
  all_goals simp only [accounts_passFlow, accounts_modNi, accounts_refuse]

@[simp] theorem accounts_applyComplete (n : Nat) (s : State) (die site : Nat) : accounts (applyComplete n s die site) = accounts s := by
  induction n generalizing s with
  | zero => rfl
  | succ n ih =>
    refine (ih _).trans ((accounts_foldl (fun s _ => accounts_applyDelivered s _) _ _).trans ?_)
    exact accounts_foldl (fun s _ => accounts_completeMessage s _ _ _ _ _) _ _

@[simp] theorem accounts_partNi (s : State) (die site : Nat) : accounts (partNi s die site) = accounts s := by
  simp only [partNi]
  split
  · rfl
  · refine (accounts_foldl (fun s b => ?_) _ _).trans (accounts_applyComplete ..)
    rw [accounts_emitReply, accounts_discardHeld]

@[simp] theorem accounts_partRegion (s : State) (n : Nat) : accounts (partRegion s n) = accounts s := by
  have sites : ∀ (l : List (Nat × Nat)) (s : State), accounts (l.foldl (fun s k => partNi s k.1 k.2) s) = accounts s := accounts_foldl (fun s k => accounts_partNi s _ _)
  simp only [partRegion]
  repeat' split
  all_goals simp only [accounts_setRegion, accounts_setStopped, sites]

/-! ### What a fault leaves unfinished in a job's tiles -/

@[simp] theorem accounts_givePartial (s : State) (job rank tag : Nat) (x : Summary) : accounts (givePartial s job rank tag x) = accounts s := by
  simp only [givePartial]
  repeat' split
  all_goals simp only [accounts_setVt]

@[simp] theorem accounts_endTile (s : State) (job die site : Nat) : accounts (endTile s job die site) = accounts s := by
  simp only [endTile]
  split
  · split
    · rfl
    · exact (accounts_foldl (fun s _ => accounts_givePartial s _ _ _ _) _ _).trans (accounts_setMt ..)
  · split
    · rfl
    · refine (accounts_foldl (fun s k => accounts_foldl (fun s n => ?_) _ _) _ _).trans (accounts_setVt ..)
      split
      · exact accounts_givePartial ..
      · rfl
  · rfl

@[simp] theorem accounts_endCollectors (s : State) (job die site : Nat) : accounts (endCollectors s job die site) = accounts s := by
  simp only [endCollectors]
  split
  · rfl
  · refine accounts_foldl (fun s n => ?_) _ _
    split
    · rfl
    · exact (accounts_setVt ..).trans (accounts_writeSummary ..)

@[simp] theorem accounts_endNumeric (s : State) (job : Nat) (sites : List (Nat × Nat)) : accounts (endNumeric s job sites) = accounts s :=
  (accounts_foldl (fun s _ => accounts_endCollectors s _ _ _) _ _).trans (accounts_foldl (fun s _ => accounts_endTile s _ _ _) _ _)

end Sys2Proof.Machine

namespace Sys2Proof.Machine

/-!
# A job's fault

A fault ends the job's checkpoint, changes its state, and answers its queue (R445, R562). It changes no other job's state, none of H0's records and no class
counter; and where the package has no region it changes nothing outside the job, its queue and its mirror.
-/

/-! ### A mirror stopped -/

theorem modMirror_frame (s : State) (f : Mirror → Mirror) : OnlyIn [.pair] s (modMirror s f) := by
  intro p hp
  cases p <;> simp_all [Part.same, modMirror]

theorem mirrorSub_frame (s : State) (m : Mirror) (r : MRec) : OnlyIn [.host] s (mirrorSub s m r) := by
  simp only [mirrorSub]
  split <;> exact hostWrite_frame _ _ _ _

/-- The pair's own part of the state replaced. -/
theorem setPair_frame (s : State) (x : Pair) : OnlyIn [.pair] s { s with pair := x } := by
  intro p hp
  cases p <;> simp_all [Part.same]

/-- A frame is kept in a wider one. -/
theorem OnlyIn.wider {l m : List Part} {s t : State} (h : OnlyIn l s t) (sub : l.all m.contains = true) : OnlyIn m s t :=
  h.mono fun p hp => List.all_eq_true.1 sub p (List.contains_iff_mem.1 hp)

theorem mirrorPump_frame (s : State) : OnlyIn [.pair, .host] s (mirrorPump s) := by
  have sub : ∀ s m r, OnlyIn [.pair, .host] s (mirrorSub s m r) := fun s m r => (mirrorSub_frame s m r).wider rfl
  have waits : ∀ f, OnlyIn [.pair, .host] s (modMirror s f) := fun f => (modMirror_frame s f).wider rfl
  simp only [mirrorPump]
  split
  · exact OnlyIn.refl _ _
  · split
    · exact OnlyIn.refl _ _
    · split
      · exact OnlyIn.refl _ _
      · split
        · exact sub _ _ _
        · split
          · exact ((setPair_frame _ _).wider rfl).trans (sub _ _ _)
          · split
            · exact waits _
            · exact (waits _).trans ((hostRead_frame _ _ _ _).wider rfl)

/-- What a job's fault changes apart from its regions: the events that wait at H0 stay as they were. -/
def FaultFrame (s t : State) : Prop := OnlyIn [.ev, .queues, .jobs, .cfg, .pair, .kettles, .host] s t ∧ eventsAt t 0x60 = eventsAt s 0x60

theorem FaultFrame.refl (s : State) : FaultFrame s s := ⟨OnlyIn.refl _ _, rfl⟩

theorem FaultFrame.trans {s t u : State} (h : FaultFrame s t) (g : FaultFrame t u) : FaultFrame s u := ⟨h.1.trans g.1, g.2.trans h.2⟩

theorem FaultFrame.regions {s t : State} (h : FaultFrame s t) : t.regions = s.regions := h.1 .regions rfl

theorem FaultFrame.of_onlyIn {l : List Part} {s t : State} (h : OnlyIn l s t) (sub : l.all [Part.queues, .jobs, .cfg, .pair, .kettles, .host].contains = true) : FaultFrame s t := by
  have frame := h.wider sub
  have events : t.ev = s.ev := frame .ev rfl
  exact ⟨frame.wider rfl, by simp only [eventsAt, events]⟩

theorem FaultFrame.foldl {α : Type} {f : State → α → State} (h : ∀ s a, FaultFrame s (f s a)) (as : List α) (s : State) : FaultFrame s (as.foldl f s) := by
  induction as generalizing s with
  | nil => exact FaultFrame.refl s
  | cons a as ih => exact (h s a).trans (ih _)

/-- An event raised at one die leaves those that wait at another. -/
theorem eventsAt_raise_ne (s : State) (e : Ev) {d : Nat} (h : d ≠ e.die) : eventsAt (raise s e) d = eventsAt s d := by
  have events : (noteEvent s e).ev = s.ev := noteEvent_frame s e .ev rfl
  simp only [raise, eventsAt]
  split <;> split <;> simp only [Tab.get_set_ne _ h, events]

/-- A corrected event of H0's pair unit, which waits under H0's own number (log entry 47). -/
theorem FaultFrame.raiseCorrected (s : State) (code job ukind index detail : Nat) : FaultFrame s (raiseCorrected s code job 0x7F ukind index detail) :=
  ⟨(raiseCorrected_frame _ _ _ _ _ _ _).wider rfl, eventsAt_raise_ne _ _ (show 0x60 ≠ 0x7F by decide)⟩

theorem dropScans_eq_self {s : State} (h : s.regions = []) (j : Nat) : dropScans s j = s := by
  simp only [dropScans, h, List.map_nil]
  rw [← h]

theorem endMirror_faultFrame {s : State} (h : s.regions = []) : FaultFrame s (endMirror s) := by
  simp only [endMirror, dropScans_eq_self h, ite_self]
  exact (FaultFrame.of_onlyIn (setPair_frame _ _) rfl).trans (FaultFrame.raiseCorrected ..)

@[simp] theorem accounts_endMirror (s : State) : accounts (endMirror s) = accounts s := by
  have dropped : ∀ j, accounts (dropScans s j) = accounts s := fun j => accounts_of_eq rfl rfl rfl
  simp only [endMirror, accounts_raiseCorrected]
  refine (accounts_of_onlyIn (setPair_frame _ _) rfl).trans ?_
  split
  · exact dropped _
  · rfl

theorem finishRun_frame (s : State) (q seq status : Nat) : OnlyIn [.pair, .queues] s (finishCmd { s with pair := { s.pair with run := none } } q seq status 0 0) :=
  ((setPair_frame _ _).wider rfl).trans ((finishCmd_frame _ _ _ _ _ _).wider rfl)

/-- A mirror that is stopped either ends at once or has its queue cut down to a STOP record, the command of an unfinished checkpoint being answered (R560). -/
theorem stopMirror_cases (s : State) : stopMirror s = endMirror s ∨ OnlyIn [.pair, .queues, .host] s (stopMirror s) := by
  simp only [stopMirror]
  split
  · exact .inr (OnlyIn.refl _ _)
  · split
    · exact .inr (OnlyIn.refl _ _)
    · split
      · exact .inl rfl
      · split
        · exact .inr (OnlyIn.refl _ _)
        · refine .inr ((OnlyIn.trans ?_ ((modMirror_frame _ _).wider rfl)).trans ((mirrorPump_frame _).wider rfl))
          have answered : ∀ q seq, OnlyIn [.pair, .queues, .host] s (finishCmd { s with pair := { s.pair with run := none } } q seq 0x0301 0 0) :=
            fun q seq => (finishRun_frame s q seq 0x0301).wider rfl
          split
          · split <;> split
            · exact OnlyIn.refl _ _
            · exact answered _ _
            · exact OnlyIn.refl _ _
            · exact answered _ _
          · exact OnlyIn.refl _ _

@[simp] theorem accounts_stopMirror (s : State) : accounts (stopMirror s) = accounts s := by
  rcases stopMirror_cases s with h | h
  · rw [h, accounts_endMirror]
  · exact accounts_of_onlyIn h rfl

theorem stopMirror_faultFrame {s : State} (h : s.regions = []) : FaultFrame s (stopMirror s) := by
  rcases stopMirror_cases s with e | e
  · exact e ▸ endMirror_faultFrame h
  · exact FaultFrame.of_onlyIn e rfl

@[simp] theorem accounts_endCheckpoint (s : State) (j detail : Nat) : accounts (endCheckpoint s j detail) = accounts s := by
  simp only [endCheckpoint]
  split
  · split
    · exact (accounts_stopMirror _).trans ((accounts_finishCmd ..).trans (accounts_of_onlyIn (setPair_frame _ _) rfl))
    · rfl
  · rfl

theorem endCheckpoint_faultFrame {s : State} (h : s.regions = []) (j detail : Nat) : FaultFrame s (endCheckpoint s j detail) := by
  simp only [endCheckpoint]
  split
  · split
    · next r _ _ =>
      have ended : FaultFrame s (finishCmd { s with pair := { s.pair with run := none } } r.q r.seq 0x0401 detail 0) :=
        (FaultFrame.of_onlyIn (setPair_frame _ _) rfl).trans (FaultFrame.of_onlyIn (finishCmd_frame _ _ _ _ _ _) rfl)
      exact ended.trans (stopMirror_faultFrame (ended.regions.trans h))
    · exact FaultFrame.refl s
  · exact FaultFrame.refl s

/-! ### A job's fault -/

theorem cfg_frame (s : State) (x : ConfigState) : OnlyIn [.cfg] s { s with cfg := x } := by
  intro p hp
  cases p <;> simp_all [Part.same]

theorem abortLoad_frame (s : State) (j : Nat) : OnlyIn [.cfg] s (abortLoad s j) := cfg_frame _ _

theorem withdrawWaits_frame (s : State) (p : Ep → Nat → Bool) : OnlyIn [.kettles] s (withdrawWaits s p) := by
  intro q hq
  cases q <;> simp_all [Part.same, withdrawWaits]

theorem answerQueue_frame (s : State) (j status detail : Nat) (keepStatus : Bool) : OnlyIn [.cfg, .queues] s (answerQueue s j status detail keepStatus) := by
  refine OnlyIn.foldl (fun s c => ?_) _ _
  split
  · exact ((cfg_frame _ _).wider rfl).trans ((finishCmd_frame _ _ _ _ _ _).wider rfl)
  · exact (finishCmd_frame _ _ _ _ _ _).wider rfl

theorem setJobState_frame (s : State) (j : Nat) (st : JState) : OnlyIn [.jobs] s (setJobState s j st) := by
  have counted : OnlyIn [.jobs] s (if (jobOf s j).st = .active then jobCount s j 0x10 (s.now - (jobOf s j).activeFrom) else s) := by
    simp only [jobCount]
    split
    · split
      · exact OnlyIn.refl _ _
      · exact modJob_frame _ _ _
    · exact OnlyIn.refl _ _
  exact counted.trans (modJob_frame _ _ _)

theorem endLifeCmd_frame (s : State) (j status detail : Nat) : OnlyIn [.jobs, .queues] s (endLifeCmd s j status detail) := by
  simp only [endLifeCmd]
  split
  · exact ((finishCmd_frame _ _ _ _ _ _).wider rfl).trans ((modJob_frame _ _ _).wider rfl)
  · exact OnlyIn.refl _ _

/-- A job as its fault leaves it, before its waits and regions are seen to (R445): its checkpoint ended, its state FAULTED, its lifecycle command answered. -/
def faultEntered (s : State) (j code : Nat) : State :=
  let s := modJob s j (fun x => { x with lastFault := if x.lastFault = 0 then code else x.lastFault, graceDue := false })
  endLifeCmd (setJobState (endCheckpoint (abortLoad s j) j code) j .faulted) j 0x0401 code

/-- A job after its fault has answered its queue and withdrawn its waits (R440, R445). -/
def faultAnswered (s : State) (j code : Nat) : State := withdrawWaits (answerQueue (faultEntered s j code) j 0x0401 code true) (fun _ job => job == j)

/-- A job that a fault passes by. -/
def FaultPasses (s : State) (j : Nat) : Prop :=
  j = 0 ∨ 63 < j ∨ (jobOf s j).st = .free ∨ (jobOf s j).st = .killing ∨ (jobOf s j).st = .captured ∨ (jobOf s j).st = .faulted

theorem jobFault_of_passes {s : State} {j : Nat} (h : FaultPasses s j) (code : Nat) : jobFault s j code = s := if_pos h

theorem accounts_jobFault {s : State} {j : Nat} (h : ¬ FaultPasses s j) (code : Nat) : accounts (jobFault s j code) = accounts (faultEntered s j code) := by
  simp only [jobFault]
  refine (congrArg accounts (if_neg h)).trans ?_
  refine (accounts_postNotice ..).trans ((accounts_foldl (fun s n => ?_) _ _).trans ?_)
  · repeat' split
    all_goals simp only [accounts_setRegion]
  · refine (accounts_endNumeric ..).trans ((accounts_foldl (fun s r => ?_) _ _).trans ?_)
    · split
      · exact accounts_partRegion ..
      · rfl
    · exact (accounts_of_onlyIn (withdrawWaits_frame _ _) rfl).trans (accounts_of_onlyIn (answerQueue_frame _ _ _ _ _) rfl)

/-- A fault leaves H0's part of the events and the class counters. -/
theorem accounts_jobFault_records (s : State) (j code : Nat) : (accounts (jobFault s j code)).2 = (accounts s).2 := by
  by_cases h : FaultPasses s j
  · rw [jobFault_of_passes h]
  · rw [accounts_jobFault h, faultEntered, accounts_snd_of_onlyIn (endLifeCmd_frame _ _ _ _) rfl, accounts_snd_of_onlyIn (setJobState_frame _ _ _) rfl, accounts_endCheckpoint,
      accounts_snd_of_onlyIn (abortLoad_frame _ _) rfl, accounts_snd_of_onlyIn (modJob_frame _ _ _) rfl]

theorem jobOf_of_accounts {s t : State} (h : accounts t = accounts s) (j : Nat) : jobOf t j = jobOf s j := by
  have jobs : t.jobs = s.jobs := by
    have first := congrArg Prod.fst h
    simpa only [accounts] using first
  simp only [jobOf, jobs]

theorem jobOf_setJobState_same (s : State) (j : Nat) (st : JState) : (jobOf (setJobState s j st) j).st = st := by
  simp only [setJobState, jobOf_modJob_same]

theorem jobOf_setJobState_ne (s : State) {i j : Nat} (st : JState) (h : i ≠ j) : jobOf (setJobState s j st) i = jobOf s i := by
  simp only [setJobState, jobOf_modJob_ne _ _ h, jobCount]
  repeat' split
  all_goals simp only [jobOf_modJob_ne _ _ h]

theorem jobOf_of_jobs {s t : State} (h : t.jobs = s.jobs) (j : Nat) : jobOf t j = jobOf s j := by simp only [jobOf, h]

/-- Answering a job's lifecycle command changes no job's state. -/
theorem jobOf_endLifeCmd_st (s : State) (j status detail i : Nat) : (jobOf (endLifeCmd s j status detail) i).st = (jobOf s i).st := by
  simp only [endLifeCmd]
  split
  · next q seq _ =>
    have answered : jobOf (finishCmd s q seq status detail 0) i = jobOf s i := jobOf_of_accounts (accounts_finishCmd ..) i
    by_cases h : i = j
    · rw [h, jobOf_modJob_same, ← h, answered]
    · rw [jobOf_modJob_ne _ _ h, answered]
  · rfl

theorem jobFault_st_same {s : State} {j : Nat} (h : ¬ FaultPasses s j) (code : Nat) : (jobOf (jobFault s j code) j).st = .faulted := by
  rw [jobOf_of_accounts (accounts_jobFault h code), faultEntered, jobOf_endLifeCmd_st, jobOf_setJobState_same]

theorem jobFault_st_other (s : State) {i j : Nat} (code : Nat) (h : i ≠ j) : (jobOf (jobFault s j code) i).st = (jobOf s i).st := by
  by_cases passes : FaultPasses s j
  · rw [jobFault_of_passes passes]
  · rw [jobOf_of_accounts (accounts_jobFault passes code), faultEntered, jobOf_endLifeCmd_st, jobOf_setJobState_ne _ _ h,
      jobOf_of_accounts (accounts_endCheckpoint ..), jobOf_of_jobs (abortLoad_frame _ _ .jobs rfl), jobOf_modJob_ne _ _ h]

/-- A job that is ACTIVE, or has been faulted already, is FAULTED after a fault of its own or of every job (R445, R536). -/
theorem jobFault_faults {s : State} {j : Nat} (code : Nat) (h1 : 1 ≤ j) (h63 : j ≤ 63) (h : (jobOf s j).st = .active ∨ (jobOf s j).st = .faulted) :
    (jobOf (jobFault s j code) j).st = .faulted := by
  rcases h with h | h
  · refine jobFault_st_same ?_ code
    simp only [FaultPasses, h, reduceCtorEq, or_false]
    omega
  · rw [jobFault_of_passes (by simp only [FaultPasses, h, or_true]), h]

/-- With no region to part, a fault ends with its notice. -/
theorem jobFault_of_no_region {s : State} {j : Nat} (h : ¬ FaultPasses s j) (code : Nat) (none : jobRegions (faultAnswered s j code) j = []) :
    jobFault s j code = postNotice (faultAnswered s j code) j 0x0401 code := by
  refine (if_neg h).trans ?_
  simp only [faultAnswered, faultEntered] at none ⊢
  simp only [none, List.filterMap_nil, List.flatMap_nil, List.foldl_nil, endNumeric]

theorem faultEntered_faultFrame {s : State} (h : s.regions = []) (j code : Nat) : FaultFrame s (faultEntered s j code) := by
  have loadAborted : FaultFrame s (abortLoad (modJob s j (fun x => { x with lastFault := if x.lastFault = 0 then code else x.lastFault, graceDue := false })) j) :=
    (FaultFrame.of_onlyIn (modJob_frame _ _ _) rfl).trans (FaultFrame.of_onlyIn (abortLoad_frame _ _) rfl)
  have checkpointEnded := loadAborted.trans (endCheckpoint_faultFrame (loadAborted.regions.trans h) j code)
  exact (checkpointEnded.trans (FaultFrame.of_onlyIn (setJobState_frame _ _ _) rfl)).trans (FaultFrame.of_onlyIn (endLifeCmd_frame _ _ _ _) rfl)

/-- With no region, a fault changes its job, its queue and what belongs to it at H0, and nothing else (R445). -/
theorem jobFault_faultFrame {s : State} (h : s.regions = []) (j code : Nat) : FaultFrame s (jobFault s j code) := by
  by_cases passes : FaultPasses s j
  · rw [jobFault_of_passes passes]
    exact FaultFrame.refl s
  · have answered : FaultFrame s (faultAnswered s j code) :=
      ((faultEntered_faultFrame h j code).trans (FaultFrame.of_onlyIn (answerQueue_frame _ _ _ _ _) rfl)).trans (FaultFrame.of_onlyIn (withdrawWaits_frame _ _) rfl)
    have none : jobRegions (faultAnswered s j code) j = [] := by
      simp only [jobRegions, answered.regions, h, List.filter_nil, List.map_nil]
    rw [jobFault_of_no_region passes code none]
    exact answered.trans (FaultFrame.of_onlyIn (postNotice_frame _ _ _ _) rfl)

end Sys2Proof.Machine

namespace Sys2Proof.Machine

/-!
# Events on their way to the host

An event waits at its die block (R586), is taken, counted by its class (R564) and recorded or coalesced by H0 (R482, R538, R540), and then acts on its jobs
(R535, R536).
-/

/-! ### Reading the accounts -/

theorem events_of_accounts {s t : State} (h : (accounts t).2 = (accounts s).2) : { t.ev with dies := [] } = ({ s.ev with dies := [] } : Events) := by
  have first := congrArg Prod.fst h
  simpa only [accounts] using first

theorem classCounters_of_accounts {s t : State} (h : (accounts t).2 = (accounts s).2) : classCounters t = classCounters s := by
  have second := congrArg Prod.snd h
  simpa only [accounts] using second

theorem classCounters_of_onlyIn {l : List Part} {s t : State} (h : OnlyIn l s t) (out : l.contains .tel = false) : classCounters t = classCounters s := by
  simp only [classCounters, show t.tel = s.tel from h .tel out]

theorem counter_of_classCounters {s t : State} (h : classCounters t = classCounters s) {c : Nat} (hc : c ≤ 2) :
    Tab.get 0 (pkgKey (8 * c)) t.tel = Tab.get 0 (pkgKey (8 * c)) s.tel := by
  simp only [classCounters, List.map_cons, List.map_nil, List.cons.injEq, and_true] at h
  obtain ⟨corrected, contained, fatal⟩ := h
  match c, hc with
  | 0, _ => exact corrected
  | 1, _ => exact contained
  | 2, _ => exact fatal

/-! ### What H0 does with an event -/

/-- H0's part of the events replaced. -/
theorem setEv_frame (s : State) (x : Events) : OnlyIn [.ev] s { s with ev := x } := by
  intro p hp
  cases p <;> simp_all [Part.same]

theorem pumpEvents_frame (s : State) : OnlyIn [.ev, .host] s (pumpEvents s) := by
  simp only [pumpEvents]
  split
  · exact OnlyIn.refl _ _
  · split
    · exact OnlyIn.refl _ _
    · exact ((setEv_frame _ _).wider rfl).trans ((hostWrite_frame _ _ _ _).wider rfl)

theorem countLost_frame (s : State) (n : Nat) : OnlyIn [.ev] s (countLost s n) := by
  simp only [countLost]
  split
  · exact OnlyIn.refl _ _
  · exact setEv_frame _ _

theorem holdRecords_frame (s : State) (rs : List (List Byte)) : OnlyIn [.ev] s (holdRecords s rs) := by
  simp only [holdRecords]
  split
  · exact setEv_frame _ _
  · exact countLost_frame _ _

theorem recordEvent_frame (s : State) (e : Ev) (coalesced : Bool) (count : Nat) : OnlyIn [.ev, .host] s (recordEvent s e coalesced count) :=
  (((setEv_frame _ _).trans (holdRecords_frame _ _)).wider rfl).trans (pumpEvents_frame _)

/-- An event of one record, with the ring off and no record held, is held as its record under the next number (R482). -/
theorem recordEvent_held {s : State} {e : Ev} (held : s.ev.held = []) (off : s.evtRing.enable = false) (ext : e.ext = none) (coalesced : Bool) (count : Nat) :
    recordEvent s e coalesced count = { s with ev := { s.ev with
      number := (s.ev.number + 1) % 2 ^ 32, nwrap := s.ev.nwrap || s.ev.number + 1 == 2 ^ 32, held := [eventBytes e s.ev.number s.ev.nwrap coalesced count] } } := by
  simp [recordEvent, ext, holdRecords, held, pumpEvents, off]

/-- The oldest event of a die block taken and counted by its class. -/
def eventTaken (s : State) (die : Nat) (rest : List Ev) (e : Ev) : State :=
  pkgAdd (countLost { s with ev := { s.ev with dies := Tab.set die { waiting := rest, dropped := 0 } s.ev.dies } } (Tab.get dieEventsInitial die s.ev.dies).dropped) (8 * e.cls) 1

/-- An event written, or counted for its period. -/
def eventWritten (s : State) (e : Ev) : State := if e.cls = 0 then correctedArrives s e else recordEvent s e false 1

/-- What an event calls for once it is written. -/
def eventActs (s : State) (e : Ev) : State := if e.cls = 2 then fatalArrives s e else if e.cls = 1 ∧ !e.defers then jobFault s e.job e.code else s

/-- The way of an event to H0: its own block's, and those of a die that the route tables lead from (R586). -/
def EventReaches (s : State) (die : Nat) : Prop :=
  die = 0x60 ∨ die = h0Events ∨ (isDie die = true ∧ s.net.tableFenced.contains die = false ∧ (dieDistance s die 0x60).isSome = true)

theorem exec_eventArrival {s : State} {die : Nat} {e : Ev} {rest : List Ev} (waits : eventsAt s die = e :: rest) (reaches : EventReaches s die) :
    exec (.eventArrival die) s = .next (eventActs (noteTileFault (eventWritten (eventTaken s die rest e) e) e) e) := by
  have exists' : (!isDie die && die != h0Events) = false := by
    rcases reaches with rfl | rfl | ⟨h, -, -⟩
    · decide
    · decide
    · rw [h]; rfl
  have led : ¬ (die ≠ h0Events ∧ die ≠ 0x60 ∧ (s.net.tableFenced.contains die = true ∨ (dieDistance s die 0x60).isNone = true)) := by
    rintro ⟨notOwn, notH0, lost⟩
    rcases reaches with h | h | ⟨-, notFenced, near⟩
    · exact notH0 h
    · exact notOwn h
    · rw [notFenced] at lost
      rw [Option.isSome_iff_ne_none] at near
      simp only [Bool.false_eq_true, Option.isNone_iff_eq_none, false_or] at lost
      exact near lost
  simp only [eventsAt] at waits
  show execEventArrival die s = _
  simp only [execEventArrival, exists', waits, if_neg led, Bool.false_eq_true, if_false]
  rfl

theorem eventTaken_frame (s : State) (die : Nat) (rest : List Ev) (e : Ev) : OnlyIn [.ev, .tel] s (eventTaken s die rest e) :=
  (((setEv_frame _ _).trans (countLost_frame _ _)).wider rfl).trans ((pkgAdd_frame _ _ _).wider rfl)

theorem pkgAdd_ev (s : State) (off n : Nat) : (pkgAdd s off n).ev = s.ev := pkgAdd_frame s off n .ev rfl

/-- Taking an event changes, of H0's part of the events, the count of lost records alone. -/
theorem eventTaken_ev (s : State) (die : Nat) (rest : List Ev) (e : Ev) :
    ∃ lost, (eventTaken s die rest e).ev = { s.ev with dies := Tab.set die { waiting := rest, dropped := 0 } s.ev.dies, lost := lost } := by
  simp only [eventTaken, pkgAdd_ev, countLost]
  split
  · exact ⟨s.ev.lost, rfl⟩
  · exact ⟨_, rfl⟩

theorem eventTaken_waiting (s : State) (die : Nat) (rest : List Ev) (e : Ev) : eventsAt (eventTaken s die rest e) die = rest := by
  obtain ⟨lost, h⟩ := eventTaken_ev s die rest e
  simp only [eventsAt, h, Tab.get_set_same]

theorem pkgAdd_get_same (s : State) (off : Nat) : Tab.get 0 (pkgKey off) (pkgAdd s off 1).tel = telRaise (Tab.get 0 (pkgKey off) s.tel) 1 := by
  simp [pkgAdd]

theorem pkgAdd_get_ne (s : State) {off k : Nat} (n : Nat) (h : k ≠ off) : Tab.get 0 (pkgKey k) (pkgAdd s off n).tel = Tab.get 0 (pkgKey k) s.tel := by
  have keys : pkgKey k ≠ pkgKey off := by
    simp only [pkgKey]
    omega
  simp only [pkgAdd]
  split
  · rfl
  · dsimp only
    exact Tab.get_modify_ne 0 0 keys _ _

theorem eventTaken_counter (s : State) (die : Nat) (rest : List Ev) (e : Ev) (c : Nat) :
    Tab.get 0 (pkgKey (8 * c)) (eventTaken s die rest e).tel =
      if c = e.cls then telRaise (Tab.get 0 (pkgKey (8 * c)) s.tel) 1 else Tab.get 0 (pkgKey (8 * c)) s.tel := by
  have before : (countLost { s with ev := { s.ev with dies := Tab.set die { waiting := rest, dropped := 0 } s.ev.dies } }
      (Tab.get dieEventsInitial die s.ev.dies).dropped).tel = s.tel := ((setEv_frame _ _).trans (countLost_frame _ _)) .tel rfl
  rw [← before]
  split
  · next h => rw [h]; exact pkgAdd_get_same _ _
  · next h => exact pkgAdd_get_ne _ _ (by omega)

theorem correctedArrives_frame (s : State) (e : Ev) : OnlyIn [.ev, .host] s (correctedArrives s e) := by
  simp only [correctedArrives]
  split
  · exact (setEv_frame _ _).wider rfl
  · exact ((setEv_frame _ _).wider rfl).trans (recordEvent_frame _ _ _ _)

theorem eventWritten_frame (s : State) (e : Ev) : OnlyIn [.ev, .host] s (eventWritten s e) := by
  simp only [eventWritten]
  split
  · exact correctedArrives_frame s e
  · exact recordEvent_frame s e false 1

theorem raiseH0_frame (s : State) (e : Ev) : OnlyIn [.ev] s (raiseH0 s e) := setEv_frame _ _

theorem raiseUsers_frame (s : State) (code : Nat) (jobs : List Nat) (die ukind index detail : Nat) : OnlyIn [.ev] s (raiseUsers s code jobs die ukind index detail) := by
  simp only [raiseUsers]
  split
  · exact raiseH0_frame _ _
  · exact OnlyIn.foldl (fun s j => raiseH0_frame s _) _ _

theorem fenceTile_frame (s : State) (die site : Nat) : OnlyIn [.dies, .boot, .flash, .ev] s (fenceTile s die site) := by
  simp only [fenceTile]
  split
  · exact OnlyIn.refl _ _
  · exact (((modDie_frame _ _ _).wider rfl).trans ((unitFenced_frame _ _ _ _ _).wider rfl)).trans ((raiseUsers_frame _ _ _ _ _ _ _).wider rfl)

theorem noteTileFault_frame (s : State) (e : Ev) : OnlyIn [.dies, .boot, .flash, .ev] s (noteTileFault s e) := by
  simp only [noteTileFault]
  split
  · exact OnlyIn.refl _ _
  · split
    · split
      · exact fenceTile_frame _ _ _
      · exact (setEv_frame _ _).wider rfl
    · exact (setEv_frame _ _).wider rfl

theorem noteTileFault_of_notTile (s : State) {e : Ev} (h : e.ukind ≠ 1) : noteTileFault s e = s := if_pos (.inl h)

/-- Every job faulted, in the order of their numbers, as far as n. -/
def faultJobs (n code : Nat) (s : State) : State := (upTo n).foldl (fun s k => jobFault s (k + 1) code) s

theorem faultJobs_succ (n code : Nat) (s : State) : faultJobs (n + 1) code s = jobFault (faultJobs n code s) (n + 1) code := by
  simp only [faultJobs, upTo, List.range_succ, List.foldl_append, List.foldl_cons, List.foldl_nil]

theorem accounts_faultJobs_records (n code : Nat) (s : State) : (accounts (faultJobs n code s)).2 = (accounts s).2 := by
  induction n with
  | zero => rfl
  | succ n ih => rw [faultJobs_succ, accounts_jobFault_records, ih]

theorem faultJobs_st_later {n code : Nat} {s : State} {j : Nat} (h : n < j) : (jobOf (faultJobs n code s) j).st = (jobOf s j).st := by
  induction n with
  | zero => rfl
  | succ n ih => rw [faultJobs_succ, jobFault_st_other _ _ (by omega), ih (by omega)]

theorem faultJobs_faults {n code : Nat} {s : State} {j : Nat} (hn : n ≤ 63) (h1 : 1 ≤ j) (hj : j ≤ n) (active : (jobOf s j).st = .active) :
    (jobOf (faultJobs n code s) j).st = .faulted := by
  induction n with
  | zero => omega
  | succ n ih =>
    rw [faultJobs_succ]
    by_cases h : j = n + 1
    · subst h
      exact jobFault_faults code h1 hn (.inl ((faultJobs_st_later (by omega)).trans active))
    · rw [jobFault_st_other _ _ h]
      exact ih (by omega) (by omega)

theorem faultJobs_faultFrame {s : State} (h : s.regions = []) (n code : Nat) : FaultFrame s (faultJobs n code s) := by
  induction n with
  | zero => exact FaultFrame.refl s
  | succ n ih => exact faultJobs_succ n code s ▸ ih.trans (jobFault_faultFrame (ih.regions.trans h) _ _)

/-- H0's part of the events with a fatal event noted (R536, R563). -/
def fatalNoted (s : State) (code : Nat) : State := { s with ev := { s.ev with faultN := true, fatal := true, firstFatal := if s.ev.firstFatal = 0 then code else s.ev.firstFatal } }

theorem fatalArrives_eq (s : State) (e : Ev) : fatalArrives s e = faultJobs 63 e.code (fatalNoted s e.code) := rfl

theorem fatalArrives_ev (s : State) (e : Ev) : (fatalArrives s e).ev.fatal = true ∧ (fatalArrives s e).ev.faultN = true
    ∧ (fatalArrives s e).ev.firstFatal = if s.ev.firstFatal = 0 then e.code else s.ev.firstFatal := by
  have events := events_of_accounts (accounts_faultJobs_records 63 e.code (fatalNoted s e.code))
  rw [fatalArrives_eq]
  generalize faultJobs 63 e.code (fatalNoted s e.code) = t at events ⊢
  exact ⟨congrArg Events.fatal events, congrArg Events.faultN events, congrArg Events.firstFatal events⟩

theorem fatalArrives_faults {s : State} {j : Nat} (e : Ev) (h1 : 1 ≤ j) (h63 : j ≤ 63) (active : (jobOf s j).st = .active) : (jobOf (fatalArrives s e) j).st = .faulted := by
  rw [fatalArrives_eq]
  exact faultJobs_faults (Nat.le_refl 63) h1 h63 active

theorem fatalArrives_faultFrame {s : State} (h : s.regions = []) (e : Ev) : FaultFrame s (fatalArrives s e) := by
  have noted : FaultFrame s (fatalNoted s e.code) := ⟨(setEv_frame _ _).wider rfl, rfl⟩
  rw [fatalArrives_eq]
  exact noted.trans (faultJobs_faultFrame (noted.regions.trans h) 63 e.code)

theorem classCounters_eventActs (s : State) (e : Ev) : classCounters (eventActs s e) = classCounters s := by
  simp only [eventActs]
  split
  · rw [fatalArrives_eq, classCounters_of_accounts (accounts_faultJobs_records _ _ _)]
    exact classCounters_of_onlyIn (setEv_frame _ _) rfl
  · split
    · exact classCounters_of_accounts (accounts_jobFault_records _ _ _)
    · rfl

/-- Only the taking of an event changes a class counter. -/
theorem classCounters_eventArrival (s : State) (die : Nat) (rest : List Ev) (e : Ev) :
    classCounters (eventActs (noteTileFault (eventWritten (eventTaken s die rest e) e) e) e) = classCounters (eventTaken s die rest e) := by
  rw [classCounters_eventActs, classCounters_of_onlyIn (noteTileFault_frame _ _) rfl, classCounters_of_onlyIn (eventWritten_frame _ _) rfl]

/-- A counter of 48 bits raised by one (R130, R549). -/
theorem telRaise_one (r : Nat) : telRaise r 1 % 2 ^ 48 = (r + 1) % 2 ^ 48 ∧ bit (telRaise r 1) 63 = (bit r 63 || r % 2 ^ 48 == 2 ^ 48 - 1)
    ∧ telRaise r 1 / 2 ^ 48 % 2 ^ 15 = 0 ∧ telRaise r 1 < 2 ^ 64 := by
  have wraps : decide (2 ^ 48 ≤ r % 2 ^ 48 + 1) = (r % 2 ^ 48 == 2 ^ 48 - 1) := by
    rw [Bool.eq_iff_iff, decide_eq_true_eq, beq_iff_eq]
    omega
  simp only [telRaise, wraps]
  generalize (bit r 63 || r % 2 ^ 48 == 2 ^ 48 - 1) = sticky
  have top : ∀ low : Nat, low < 2 ^ 48 → ((2 ^ 63 + low) / 2 ^ 63 % 2 = 1 ∧ low / 2 ^ 63 % 2 = 0) := by omega
  have low := Nat.mod_lt (r % 2 ^ 48 + 1) (Nat.two_pow_pos 48)
  cases sticky
  · refine ⟨by simp, ?_, ?_, ?_⟩
    · simp only [bit, Bool.false_eq_true, if_false, Nat.zero_add, (top _ low).2]
      rfl
    · simp only [Bool.false_eq_true, if_false]
      omega
    · simp only [Bool.false_eq_true, if_false]
      omega
  · simp only [if_true, bit, (top _ low).1]
    refine ⟨by omega, rfl, by omega, by omega⟩

/-! ### An event handed to its die block -/

/-- A die block of a live die with 64 events drops a further one and counts it (R586). -/
theorem raise_full {s : State} {e : Ev} (live : (dieOf s e.die).fenced = false ∨ e.die = 0x60) (full : 64 ≤ (eventsAt s e.die).length) :
    eventsAt (raise s e) e.die = eventsAt s e.die
      ∧ (Tab.get dieEventsInitial e.die (raise s e).ev.dies).dropped = (Tab.get dieEventsInitial e.die s.ev.dies).dropped + 1 := by
  have events : (noteEvent s e).ev = s.ev := noteEvent_frame s e .ev rfl
  have dies : (noteEvent s e).dies = s.dies := noteEvent_frame s e .dies rfl
  have hears : ((dieOf s e.die).fenced && e.die != 0x60) = false := by rcases live with h | h <;> simp [h]
  have noRoom : ¬ (Tab.get dieEventsInitial e.die s.ev.dies).waiting.length < 64 := Nat.not_lt.2 full
  simp only [dieOf] at hears
  simp only [raise, eventsAt]
  split <;> simp [dieOf, events, dies, hears, noRoom]

theorem raise_raises {s : State} {e : Ev} (h : HearsEvents s e.die) : Raises s (raise s e) e.die e.code e.cls e.job :=
  ⟨{ e with time := s.now }, raise_waits s e h, rfl, rfl, rfl, rfl⟩

theorem raise_faultN {s : State} {e : Ev} (fatal : e.cls = 2) : (raise s e).ev.faultN = true := by
  simp only [raise, if_pos fatal]
  split <;> rfl

/-- The event that EVENT_RAISE hands to a die block: of no job it is corrected, and a class beyond the three is fatal. -/
def raisedEvent (die : Nat) (e : Ev) : Ev :=
  if e.cls = 1 then (if e.job = 0 ∨ 63 < e.job then { e with die := die, cls := 0, job := 0xFF } else { e with die := die }) else { e with die := die, cls := min 2 e.cls }

theorem raisedEvent_die (die : Nat) (e : Ev) : (raisedEvent die e).die = die := by
  simp only [raisedEvent]
  repeat' split
  all_goals rfl

theorem exec_eventRaise {s : State} {die : Nat} {e : Ev} (hdie : isDie die = true) (hcode : e.code ≠ 0) : exec (.eventRaise die e) s = .next (raise s (raisedEvent die e)) := by
  show execEventRaise die e s = _
  simp only [execEventRaise, hdie, Bool.not_true, Bool.false_eq_true, if_false, if_neg hcode, raisedEvent]
  repeat' split
  all_goals rfl

theorem eventRaise_waits {s : State} {die : Nat} {e : Ev} (hdie : isDie die = true) (hcode : e.code ≠ 0) (live : (dieOf s die).fenced = false ∨ die = 0x60)
    (room : (eventsAt s die).length < 64) :
    (e.cls = 0 → Completes (.eventRaise die e) s (fun t => Raises s t die e.code 0 e.job ∧ OnlyIn [.ev] s t))
    ∧ (e.cls = 1 → 1 ≤ e.job → e.job ≤ 63 → Completes (.eventRaise die e) s (fun t => Raises s t die e.code 1 e.job ∧ OnlyIn [.ev, .lastFault] s t))
    ∧ (e.cls = 1 → (e.job = 0 ∨ 63 < e.job) → Completes (.eventRaise die e) s (fun t => Raises s t die e.code 0 0xFF ∧ OnlyIn [.ev] s t))
    ∧ (2 ≤ e.cls → Completes (.eventRaise die e) s (fun t => Raises s t die e.code 2 e.job ∧ t.ev.faultN = true ∧ OnlyIn [.ev] s t)) := by
  have raises : ∀ x : Ev, raisedEvent die e = x → x.die = die ∧ Raises s (raise s x) die x.code x.cls x.job := fun x hx => by
    have at' : x.die = die := hx ▸ raisedEvent_die die e
    have raised := raise_raises (s := s) (e := x) (at'.symm ▸ ⟨room, live⟩)
    exact ⟨at', at' ▸ raised⟩
  refine ⟨fun hcls => ?_, fun hcls h1 h63 => ?_, fun hcls hjob => ?_, fun hcls => ?_⟩ <;> refine Completes.intro (exec_eventRaise hdie hcode) ?_
  · have event : raisedEvent die e = { e with die := die, cls := 0 } := by simp [raisedEvent, hcls]
    rw [event]
    exact ⟨(raises _ event).2, raise_frame_other _ _ (by simp)⟩
  · have event : raisedEvent die e = { e with die := die, cls := 1 } := by
      rw [raisedEvent, if_pos hcls, if_neg (by omega), ← hcls]
    rw [event]
    exact ⟨(raises _ event).2, raise_frame _ _⟩
  · have event : raisedEvent die e = { e with die := die, cls := 0, job := 0xFF } := by rw [raisedEvent, if_pos hcls, if_pos hjob]
    rw [event]
    exact ⟨(raises _ event).2, raise_frame_other _ _ (by simp)⟩
  · have event : raisedEvent die e = { e with die := die, cls := 2 } := by
      rw [raisedEvent, if_neg (by omega), Nat.min_eq_left hcls]
    rw [event]
    exact ⟨(raises _ event).2, raise_faultN rfl, raise_frame_other _ _ (by simp)⟩

theorem eventRaise_dropped {s : State} {die : Nat} {e : Ev} (hdie : isDie die = true) (hcode : e.code ≠ 0) (live : (dieOf s die).fenced = false ∨ die = 0x60)
    (full : 64 ≤ (eventsAt s die).length) :
    Completes (.eventRaise die e) s (fun t => eventsAt t die = eventsAt s die
      ∧ (Tab.get dieEventsInitial die t.ev.dies).dropped = (Tab.get dieEventsInitial die s.ev.dies).dropped + 1 ∧ OnlyIn [.ev, .lastFault] s t) := by
  have at' := raisedEvent_die die e
  obtain ⟨same, dropped⟩ := raise_full (s := s) (e := raisedEvent die e) (by rw [at']; exact live) (by rw [at']; exact full)
  rw [at'] at same dropped
  exact Completes.intro (exec_eventRaise hdie hcode) ⟨same, dropped, raise_frame _ _⟩

/-! ### An event that reaches H0 -/

/-- H0 has taken the oldest event of its own block and has not yet recorded it. -/
structure AtHand (s w : State) (rest : List Ev) : Prop where
  frame : OnlyIn [.ev, .tel] s w
  waiting : eventsAt w 0x60 = rest
  held : w.ev.held = s.ev.held
  number : w.ev.number = s.ev.number
  nwrap : w.ev.nwrap = s.ev.nwrap
  firstFatal : w.ev.firstFatal = s.ev.firstFatal

/-- H0 holds the record of the event that it has taken, as the only one. -/
structure HoldsRecord (s v : State) (rest : List Ev) (e : Ev) : Prop where
  frame : OnlyIn [.ev, .tel] s v
  waiting : eventsAt v 0x60 = rest
  held : v.ev.held = [eventBytes e s.ev.number s.ev.nwrap false 1]
  number : v.ev.number = (s.ev.number + 1) % 2 ^ 32
  firstFatal : v.ev.firstFatal = s.ev.firstFatal

/-- A count after one more event: that of the event's key and period is raised (R540). -/
def countedAgain (e : Ev) (period : Nat) (c : Coalesce) : Coalesce := if c.matches e period then { c with count := c.count + 1, last := e } else c

theorem correctedArrives_of_counted {s : State} {e : Ev} (h : s.ev.coalesce.any (fun c => c.matches e (periodOf s.now)) = true) :
    correctedArrives s e = { s with ev := { s.ev with coalesce := s.ev.coalesce.map (countedAgain e (periodOf s.now)) } } := if_pos h

theorem eventActs_of_corrected (s : State) {e : Ev} (h : e.cls = 0) : eventActs s e = s := by
  rw [eventActs, if_neg (by omega), if_neg (by omega)]

section Arrival

variable {s w v : State} {e : Ev} {rest : List Ev}

theorem eventTaken_atHand (s : State) (rest : List Ev) (e : Ev) : AtHand s (eventTaken s 0x60 rest e) rest := by
  obtain ⟨lost, ev⟩ := eventTaken_ev s 0x60 rest e
  exact ⟨eventTaken_frame s 0x60 rest e, eventTaken_waiting s 0x60 rest e, by rw [ev], by rw [ev], by rw [ev], by rw [ev]⟩

theorem AtHand.setCoalesce (h : AtHand s w rest) (l : List Coalesce) : AtHand s { w with ev := { w.ev with coalesce := l } } rest :=
  ⟨h.frame.trans ((setEv_frame _ _).wider rfl), h.waiting, h.held, h.number, h.nwrap, h.firstFatal⟩

theorem AtHand.record (h : AtHand s w rest) (held : s.ev.held = []) (off : s.evtRing.enable = false) (ext : e.ext = none) : HoldsRecord s (recordEvent w e false 1) rest e := by
  have ring : w.evtRing = s.evtRing := h.frame .evtRing rfl
  rw [recordEvent_held (h.held.trans held) (by rw [ring]; exact off) ext, h.number, h.nwrap]
  exact ⟨h.frame.trans ((setEv_frame _ _).wider rfl), h.waiting, rfl, rfl, h.firstFatal⟩

theorem AtHand.now (h : AtHand s w rest) : w.now = s.now := h.frame .now rfl

/-- A job's fault leaves the record that H0 holds and the job's other accounts. -/
theorem HoldsRecord.of_accounts {t : State} (h : HoldsRecord s v rest e) (kept : (accounts t).2 = (accounts v).2) :
    t.ev.held = [eventBytes e s.ev.number s.ev.nwrap false 1] ∧ t.ev.number = (s.ev.number + 1) % 2 ^ 32 := by
  have events := events_of_accounts kept
  exact ⟨(congrArg Events.held events).trans h.held, (congrArg Events.number events).trans h.number⟩

theorem HoldsRecord.regions (h : HoldsRecord s v rest e) : v.regions = s.regions := h.frame .regions rfl

theorem HoldsRecord.jobOf (h : HoldsRecord s v rest e) (j : Nat) : jobOf v j = jobOf s j := jobOf_of_jobs (h.frame .jobs rfl) j

theorem HoldsRecord.then_fault {t : State} (h : HoldsRecord s v rest e) (f : FaultFrame v t) :
    eventsAt t 0x60 = rest ∧ OnlyIn [.ev, .tel, .queues, .jobs, .cfg, .pair, .kettles, .host] s t :=
  ⟨f.2.trans h.waiting, (h.frame.wider rfl).trans (f.1.wider rfl)⟩

/-- An event that is not a further one of its key is recorded. -/
theorem eventWritten_holdsRecord (held : s.ev.held = []) (off : s.evtRing.enable = false) (ext : e.ext = none)
    (new : e.cls = 0 → s.ev.coalesce.any (fun c => c.matches e (periodOf s.now)) = false) :
    HoldsRecord s (eventWritten (eventTaken s 0x60 rest e) e) rest e := by
  have atHand := eventTaken_atHand s rest e
  obtain ⟨lost, ev⟩ := eventTaken_ev s 0x60 rest e
  simp only [eventWritten]
  split
  · next hcls =>
    have first : (eventTaken s 0x60 rest e).ev.coalesce.any (fun c => c.matches e (periodOf (eventTaken s 0x60 rest e).now)) = false := by
      rw [atHand.now, ev]
      exact new hcls
    simp only [correctedArrives, first, Bool.false_eq_true, if_false]
    exact (atHand.setCoalesce _).record held off ext
  · exact atHand.record held off ext

variable (waits : eventsAt s 0x60 = e :: rest) (notTile : e.ukind ≠ 1)
include waits notTile

theorem exec_eventArrival_h0 : exec (.eventArrival 0x60) s = .next (eventActs (eventWritten (eventTaken s 0x60 rest e) e) e) := by
  rw [exec_eventArrival waits (.inl rfl), noteTileFault_of_notTile _ notTile]

/-- The second of its key in a period is only counted (R540). -/
theorem correctedArrival_counted (held : s.ev.held = []) (hcls : e.cls = 0) (old : s.ev.coalesce.any (fun c => c.matches e (periodOf s.now)) = true) :
    Completes (.eventArrival 0x60) s (fun t => eventsAt t 0x60 = rest ∧ t.ev.held = [] ∧ t.ev.number = s.ev.number
      ∧ (∃ c ∈ t.ev.coalesce, c.matches e (periodOf s.now) = true ∧ 0 < c.count ∧ c.last = e) ∧ OnlyIn [.ev, .tel] s t) := by
  have atHand := eventTaken_atHand s rest e
  have coalesce : (eventTaken s 0x60 rest e).ev.coalesce = s.ev.coalesce := by
    obtain ⟨lost, ev⟩ := eventTaken_ev s 0x60 rest e
    rw [ev]
  have counted := atHand.setCoalesce ((eventTaken s 0x60 rest e).ev.coalesce.map (countedAgain e (periodOf (eventTaken s 0x60 rest e).now)))
  refine Completes.intro (exec_eventArrival_h0 waits notTile) ?_
  rw [eventActs_of_corrected _ hcls, eventWritten, if_pos hcls, correctedArrives_of_counted (by rw [coalesce, atHand.now]; exact old)]
  obtain ⟨c, hc, hmatch⟩ := List.any_eq_true.1 old
  refine ⟨counted.waiting, counted.held.trans held, counted.number, ⟨countedAgain e (periodOf s.now) c, ?_, ?_⟩, counted.frame⟩
  · rw [coalesce, atHand.now]
    exact List.mem_map_of_mem hc
  · rw [countedAgain, if_pos hmatch]
    exact ⟨hmatch, Nat.succ_pos _, rfl⟩

variable (held : s.ev.held = []) (off : s.evtRing.enable = false) (ext : e.ext = none)
include held off ext

theorem quietArrival_recorded (hcls : e.cls = 0 ∨ (e.cls = 1 ∧ e.defers = true)) (new : e.cls = 0 → s.ev.coalesce.any (fun c => c.matches e (periodOf s.now)) = false) :
    Completes (.eventArrival 0x60) s (fun t => eventsAt t 0x60 = rest ∧ (t.ev.held = [eventBytes e s.ev.number s.ev.nwrap false 1] ∧ t.ev.number = (s.ev.number + 1) % 2 ^ 32)
      ∧ OnlyIn [.ev, .tel] s t) := by
  have record := eventWritten_holdsRecord (rest := rest) held off ext new
  have acts : eventActs (eventWritten (eventTaken s 0x60 rest e) e) e = eventWritten (eventTaken s 0x60 rest e) e := by
    rcases hcls with h | ⟨h, hd⟩ <;> simp [eventActs, *]
  exact Completes.intro (exec_eventArrival_h0 waits notTile) (acts.symm ▸ ⟨record.waiting, ⟨record.held, record.number⟩, record.frame⟩)

/-- A contained event faults its job (R535). -/
theorem containedArrival_faults (hcls : e.cls = 1) (now : e.defers = false) (h1 : 1 ≤ e.job) (h63 : e.job ≤ 63) (active : (jobOf s e.job).st = .active) :
    Completes (.eventArrival 0x60) s (fun t => (t.ev.held = [eventBytes e s.ev.number s.ev.nwrap false 1] ∧ t.ev.number = (s.ev.number + 1) % 2 ^ 32)
      ∧ (jobOf t e.job).st = .faulted
      ∧ (s.regions = [] → eventsAt t 0x60 = rest ∧ OnlyIn [.ev, .tel, .queues, .jobs, .cfg, .pair, .kettles, .host] s t)) := by
  have record := eventWritten_holdsRecord (rest := rest) held off ext (by omega)
  have acts : eventActs (eventWritten (eventTaken s 0x60 rest e) e) e = jobFault (eventWritten (eventTaken s 0x60 rest e) e) e.job e.code := by
    simp [eventActs, hcls, now]
  refine Completes.intro (exec_eventArrival_h0 waits notTile) (acts.symm ▸ ⟨record.of_accounts (accounts_jobFault_records _ _ _), ?_, fun none => ?_⟩)
  · exact jobFault_faults _ h1 h63 (.inl (by rw [record.jobOf, active]))
  · exact record.then_fault (jobFault_faultFrame (record.regions.trans none) _ _)

/-- A fatal event faults every active job (R536, R563). -/
theorem fatalArrival_faultsAll (hcls : e.cls = 2) :
    Completes (.eventArrival 0x60) s (fun t => t.ev.fatal = true ∧ t.ev.faultN = true ∧ (s.ev.firstFatal = 0 → t.ev.firstFatal = e.code)
      ∧ (s.ev.firstFatal ≠ 0 → t.ev.firstFatal = s.ev.firstFatal) ∧ (∀ j, 1 ≤ j → j ≤ 63 → (jobOf s j).st = .active → (jobOf t j).st = .faulted)
      ∧ (s.regions = [] → eventsAt t 0x60 = rest ∧ OnlyIn [.ev, .tel, .queues, .jobs, .cfg, .pair, .kettles, .host] s t)) := by
  have record := eventWritten_holdsRecord (rest := rest) held off ext (by omega)
  have acts : eventActs (eventWritten (eventTaken s 0x60 rest e) e) e = fatalArrives (eventWritten (eventTaken s 0x60 rest e) e) e := if_pos hcls
  obtain ⟨fatal, faultN, firstFatal⟩ := fatalArrives_ev (eventWritten (eventTaken s 0x60 rest e) e) e
  rw [record.firstFatal] at firstFatal
  refine Completes.intro (exec_eventArrival_h0 waits notTile) (acts.symm ▸ ⟨fatal, faultN, fun h => firstFatal.trans (if_pos h), fun h => firstFatal.trans (if_neg h), ?_, ?_⟩)
  · exact fun j h1 h63 active => fatalArrives_faults e h1 h63 ((congrArg Job.st (record.jobOf j)).trans active)
  · exact fun none => record.then_fault (fatalArrives_faultFrame (record.regions.trans none) e)

end Arrival

/-! ### The class counters -/

theorem eventArrival_counts {s : State} {die : Nat} {e : Ev} {rest : List Ev} (waits : eventsAt s die = e :: rest) (hcls : e.cls ≤ 2) (reaches : EventReaches s die) :
    Completes (.eventArrival die) s (fun t =>
      let old := Tab.get 0 (pkgKey (8 * e.cls)) s.tel
      let new := Tab.get 0 (pkgKey (8 * e.cls)) t.tel
      new % 2 ^ 48 = (old + 1) % 2 ^ 48 ∧ bit new 63 = (bit old 63 || old % 2 ^ 48 == 2 ^ 48 - 1) ∧ new / 2 ^ 48 % 2 ^ 15 = 0 ∧ new < 2 ^ 64
      ∧ (∀ c, c ≤ 2 → c ≠ e.cls → Tab.get 0 (pkgKey (8 * c)) t.tel = Tab.get 0 (pkgKey (8 * c)) s.tel)) := by
  have counter : ∀ c, c ≤ 2 → _ := fun c hc => (counter_of_classCounters (classCounters_eventArrival s die rest e) hc).trans (eventTaken_counter s die rest e c)
  refine Completes.intro (exec_eventArrival waits reaches) ?_
  dsimp only
  rw [counter e.cls hcls, if_pos rfl]
  obtain ⟨low, sticky, clear, bound⟩ := telRaise_one (Tab.get 0 (pkgKey (8 * e.cls)) s.tel)
  exact ⟨low, sticky, clear, bound, fun c hc other => (counter c hc).trans (if_neg other)⟩

/-! ### The end of a period -/

section Period

variable {s : State} {c : Coalesce}

theorem exec_coalescePeriodEnd_ended (one : s.ev.coalesce = [c]) (ended : c.period < periodOf s.now) :
    exec .coalescePeriodEnd s = .next (if c.count = 0 then { s with ev := { s.ev with coalesce := [] } }
      else recordEvent { s with ev := { s.ev with coalesce := [] } } c.last true (min 255 c.count)) := by
  show execCoalescePeriodEnd s = _
  simp [execCoalescePeriodEnd, one, ended]

theorem exec_coalescePeriodEnd_running (one : s.ev.coalesce = [c]) (running : periodOf s.now ≤ c.period) : exec .coalescePeriodEnd s = .next s := by
  show execCoalescePeriodEnd s = _
  simp [execCoalescePeriodEnd, one, Nat.not_lt.2 running]
  rw [← one]

theorem coalescePeriodEnd_records (one : s.ev.coalesce = [c]) (held : s.ev.held = []) (off : s.evtRing.enable = false) (ext : c.last.ext = none) :
    (c.period < periodOf s.now → 0 < c.count → Completes .coalescePeriodEnd s (fun t =>
      t.ev.held = [eventBytes c.last s.ev.number s.ev.nwrap true (min 255 c.count)] ∧ t.ev.coalesce = [] ∧ t.ev.number = (s.ev.number + 1) % 2 ^ 32 ∧ OnlyIn [.ev] s t))
    ∧ (c.period < periodOf s.now → c.count = 0 → Completes .coalescePeriodEnd s (fun t => t.ev.held = [] ∧ t.ev.coalesce = [] ∧ t.ev.number = s.ev.number ∧ OnlyIn [.ev] s t))
    ∧ (periodOf s.now ≤ c.period → Completes .coalescePeriodEnd s (fun t => OnlyIn [] s t)) := by
  refine ⟨fun ended counted => ?_, fun ended none => ?_, fun running => ?_⟩
  · refine Completes.intro (exec_coalescePeriodEnd_ended one ended) ?_
    rw [if_neg (by omega), recordEvent_held (s := { s with ev := { s.ev with coalesce := [] } }) held off ext]
    exact ⟨rfl, rfl, rfl, setEv_frame _ _⟩
  · refine Completes.intro (exec_coalescePeriodEnd_ended one ended) ?_
    rw [if_pos none]
    exact ⟨held, rfl, rfl, setEv_frame _ _⟩
  · exact Completes.intro (exec_coalescePeriodEnd_running one running) (OnlyIn.refl _ _)

end Period

/-- Settles O23: an event waits and is recorded by the rules of the event unit alone, and a fault's effect on its job, whatever messages the parting of the
job's regions applies, leaves H0's records and the class counters. -/
theorem eventsAreHeldNumberedAndRecorded : Obligations.EventsAreHeldNumberedAndRecorded := by
  unfold Obligations.EventsAreHeldNumberedAndRecorded
  refine ⟨fun s die e hdie hcode live => ⟨eventRaise_waits hdie hcode live, eventRaise_dropped hdie hcode live⟩, ?_,
    fun s die e rest waits hcls reaches => eventArrival_counts waits hcls reaches, fun s c one held off ext => coalescePeriodEnd_records one held off ext⟩
  intro s e rest waits notTile ext held off
  refine ⟨fun hcls new => ?_, fun hcls old => ?_, fun hcls defers => ?_, fun hcls now h1 h63 active => ?_, fun hcls => ?_⟩
  · exact quietArrival_recorded waits notTile held off ext (.inl hcls) fun _ => new
  · exact correctedArrival_counted waits notTile held hcls (Bool.not_eq_false _ ▸ old)
  · exact quietArrival_recorded waits notTile held off ext (.inr ⟨hcls, defers⟩) (by omega)
  · exact containedArrival_faults waits notTile held off ext hcls now h1 h63 active
  · exact fatalArrival_faultsAll waits notTile held off ext hcls

end Sys2Proof.Machine
